-- ==== Sys2Proof/Word.lean ====
section
/-! DEFINITION. The word types of the MK-AX9: bytes, 32-bit instruction words, 64-bit scalar words, the
16,384-bit string of a vector register (R31, R46) and the 32,768-bit string of a mask (R32). -/

namespace Sys2Proof

abbrev Byte := BitVec 8
abbrev Word := BitVec 64
abbrev VReg := BitVec 16384
abbrev MReg := BitVec 32768

end Sys2Proof
end

