-- ==== Sys2Proof/Config.lean ====
section
/-! DEFINITION. What the spec leaves to the part, the environment or chance: constants without a value, so that no
proof can see one. Each names its log entry. -/

namespace Sys2Proof

/-- Keys that order the frames of HBM and the parts of the pool among the dies, of which the spec gives no map (log 8). -/
opaque Config.homeDie : Nat → Nat

/-- The byte that a read under a key other than the one it was written under returns (log 9): address, key of the
read. -/
opaque Config.wrongKey : Nat → Nat → Byte

/-- Whether the n-th flow access served at a pool-less L2 slice is charged at the HBM price (log 10). -/
opaque Config.hbmServed : Nat → Bool

/-- The bank an HBM row lies in within its stack (log 36). -/
opaque Config.hbmBank : Nat → Nat

/-- Whether the host completes an access of a function (0 the PF, n VF n), under whose requester ID it goes, to a host address
with UR or CA (log 11). -/
opaque Config.hostRefuses : Nat → Nat → Bool

/-- A value the spec leaves open, by the number of such values drawn before (log 12). -/
opaque Config.freeValue : Nat → Word

/-- The position that an unordered PSCAT writes among a duplicate group, by draw number (log 12). -/
opaque Config.pick : Nat → Nat → Nat

/-- ML-DSA-87 (R458): public key of a seed, signature of a message, and its verification by digest,
signature and key (log 13). -/
opaque Config.mldsaPublic : BitVec 512 → BitVec 512
opaque Config.mldsaSign : BitVec 512 → List Byte → BitVec 512
opaque Config.mldsaVerify : BitVec 512 → List Byte → List Byte → Bool

/-- The fused device secret (R458). -/
opaque Config.uds : BitVec 512

end Sys2Proof
end

