-- ==== Sys2Proof/Syntax.lean ====
section
/-! DEFINITION. The instructions of the MK-AX9: one constructor for each row of spec/opcode_table.json.
The words come first, in the table's order, with the operand fields the table gives them; the steps that
have no encoding follow, each named `ev...` with the operands that say which flow, queue entry or register
it concerns (those operands are the model's, the step is the spec's). -/

namespace Sys2Proof

/-- A flow is named by its launch and its LFLOW within it (R45, R177). -/
structure FlowKey where
  launch : Nat
  lflow : Nat
  deriving DecidableEq, Repr

/-- The register a BAR write of REGISTER_WRITE reaches: a function and BAR offset (R432), or the pool
setting of R220, for which the spec gives no register. -/
inductive RegTarget where
  /-- BAR 0 of function `fn` (0 the physical function, n virtual function n) at `off`. -/
  | bar0 (fn off : Nat)
  /-- BAR 2 of the physical function at `off`. -/
  | bar2 (off : Nat)
  /-- Pool ways per slice (R220). -/
  | poolWays
  deriving DecidableEq, Repr

/-- A coherence granule: its home die, its first physical address, its bytes (32, 128 or 512) and the key it is held
under (R393, R410, R411). -/
structure Granule where
  home : Nat
  addr : Nat
  size : Nat
  key : Nat
  deriving DecidableEq, Repr

/-- One flit on a Vexcon port (R435): its sequence number, the acknowledgement it carries, whether its CRC
holds after correction. -/
structure Flit where
  seq : Nat
  ack : Nat
  crcOk : Bool
  deriving DecidableEq, Repr

/-- What a peer device asks (R438): a load, a store, an AMO (0 to 6 in the order of R107: swap, add, and, or, max, min,
cas) with operand and expected value, or a token row with its destination word. -/
inductive PeerOp where
  | load
  | store (bytes : List Byte)
  | amo (op : Nat) (x e : Word)
  | row (hdr dst : Word) (data : List Byte)
  deriving DecidableEq, Repr

/-- A request from a peer device (R438): its tag, the offset in this device's HBM and the bytes there that it names,
and what it does. -/
structure PeerReq where
  dev : Nat
  tag : Nat
  off : Nat
  size : Nat
  op : PeerOp
  deriving DecidableEq, Repr

/-- Where an uncorrectable error strikes (R442, R444). -/
inductive ErrTarget where
  | scalar (f : FlowKey) (r : Nat)
  | vector (f : FlowKey) (r : Nat)
  | mask (f : FlowKey) (r : Nat)
  | slot (f : FlowKey) (r : Nat)
  | landing (f : FlowKey) (tag : Nat)
  /-- A byte of memory, by the model's physical byte address. -/
  | mem (a : Nat)
  /-- The copy of a byte of memory in an L1 or an L2. -/
  | cache (a : Nat)
  /-- Place k of the TLBs. -/
  | tlb (k : Nat)
  /-- Place k of the walk caches. -/
  | walk (k : Nat)
  /-- Place k of the plan stores. -/
  | store (k : Nat)
  /-- The tag of the block of a core's L1 that holds an address under a key. -/
  | tag (core a key : Nat)
  /-- The directory's entry of the block of an address homed on a die, under a key. -/
  | dir (die a key : Nat)
  /-- Place k of the registration tables. -/
  | reg (k : Nat)
  /-- The tag of an L2 line that holds an address. -/
  | l2tag (a : Nat)
  /-- No uncorrectable error: one that a SECDED structure corrects in the access that meets it, at an address, or 0. -/
  | corrected (a : Nat)
  deriving DecidableEq, Repr

/-- The instructions and steps of the device. -/
inductive Instr where
  /-- R97: Writes sd with (sa + sb) mod 2^64. -/
  | add (d : BitVec 5) (a : BitVec 5) (b : BitVec 5)
  /-- R97: Writes sd with (sa - sb) mod 2^64. -/
  | sub (d : BitVec 5) (a : BitVec 5) (b : BitVec 5)
  /-- R97: Writes sd with the bitwise AND of sa and sb. -/
  | and (d : BitVec 5) (a : BitVec 5) (b : BitVec 5)
  /-- R97: Writes sd with the bitwise OR of sa and sb. -/
  | or (d : BitVec 5) (a : BitVec 5) (b : BitVec 5)
  /-- R97: Writes sd with the bitwise XOR of sa and sb. -/
  | xor (d : BitVec 5) (a : BitVec 5) (b : BitVec 5)
  /-- R97: Shifts sa left by sb[5:0]. -/
  | sll (d : BitVec 5) (a : BitVec 5) (b : BitVec 5)
  /-- R97: Shifts sa right logically by sb[5:0]. -/
  | srl (d : BitVec 5) (a : BitVec 5) (b : BitVec 5)
  /-- R97: Shifts sa right arithmetically by sb[5:0]. -/
  | sra (d : BitVec 5) (a : BitVec 5) (b : BitVec 5)
  /-- R97: Writes 1 when sa is less than sb, signed, else 0. -/
  | slt (d : BitVec 5) (a : BitVec 5) (b : BitVec 5)
  /-- R97: Writes 1 when sa is less than sb, unsigned, else 0. -/
  | sltu (d : BitVec 5) (a : BitVec 5) (b : BitVec 5)
  /-- R97: Writes the signed smaller of sa and sb. -/
  | min (d : BitVec 5) (a : BitVec 5) (b : BitVec 5)
  /-- R97: Writes the signed larger of sa and sb. -/
  | max (d : BitVec 5) (a : BitVec 5) (b : BitVec 5)
  /-- R97: Writes the unsigned smaller of sa and sb. -/
  | minu (d : BitVec 5) (a : BitVec 5) (b : BitVec 5)
  /-- R97: Writes the unsigned larger of sa and sb. -/
  | maxu (d : BitVec 5) (a : BitVec 5) (b : BitVec 5)
  /-- R97: Writes the count of leading zero bits of sa. -/
  | clz (d : BitVec 5) (a : BitVec 5)
  /-- R97: Writes the count of trailing zero bits of sa. -/
  | ctz (d : BitVec 5) (a : BitVec 5)
  /-- R97: Writes the count of one bits of sa. -/
  | popc (d : BitVec 5) (a : BitVec 5)
  /-- R97: Writes the low 64 bits of sa times sb. -/
  | mul (d : BitVec 5) (a : BitVec 5) (b : BitVec 5)
  /-- R97: Writes bits 127:64 of the signed product. -/
  | mulh (d : BitVec 5) (a : BitVec 5) (b : BitVec 5)
  /-- R97: Writes bits 127:64 of the unsigned product. -/
  | mulhu (d : BitVec 5) (a : BitVec 5) (b : BitVec 5)
  /-- R98: Signed division toward zero with fixed results for the boundary cases. -/
  | div (d : BitVec 5) (a : BitVec 5) (b : BitVec 5)
  /-- R98: Unsigned division with fixed results for division by zero. -/
  | divu (d : BitVec 5) (a : BitVec 5) (b : BitVec 5)
  /-- R98: Signed remainder taking the sign of sa. -/
  | rem (d : BitVec 5) (a : BitVec 5) (b : BitVec 5)
  /-- R98: Unsigned remainder. -/
  | remu (d : BitVec 5) (a : BitVec 5) (b : BitVec 5)
  /-- R97: Shifts sa left by an immediate amount. -/
  | slli (d : BitVec 5) (a : BitVec 5) (n : BitVec 6)
  /-- R97: Shifts sa right logically by an immediate amount. -/
  | srli (d : BitVec 5) (a : BitVec 5) (n : BitVec 6)
  /-- R97: Shifts sa right arithmetically by an immediate amount. -/
  | srai (d : BitVec 5) (a : BitVec 5) (n : BitVec 6)
  /-- R99: Adds a sign-extended 14-bit immediate to sa. -/
  | addi (d : BitVec 5) (a : BitVec 5) (i : BitVec 14)
  /-- R99: ANDs sa with a sign-extended immediate. -/
  | andi (d : BitVec 5) (a : BitVec 5) (i : BitVec 14)
  /-- R99: ORs sa with a sign-extended immediate. -/
  | ori (d : BitVec 5) (a : BitVec 5) (i : BitVec 14)
  /-- R99: XORs sa with a sign-extended immediate. -/
  | xori (d : BitVec 5) (a : BitVec 5) (i : BitVec 14)
  /-- R99: Signed compare of sa with an immediate. -/
  | slti (d : BitVec 5) (a : BitVec 5) (i : BitVec 14)
  /-- R99: Unsigned compare of sa with a sign-extended immediate. -/
  | sltiu (d : BitVec 5) (a : BitVec 5) (i : BitVec 14)
  /-- R100: Loads a sign-extended 19-bit immediate times 2^13. -/
  | lih (d : BitVec 5) (i : BitVec 19)
  /-- R100: Adds a 19-bit immediate times 2^13 to PC. -/
  | auipc (d : BitVec 5) (i : BitVec 19)
  /-- R101: Branches when sa equals sb. -/
  | beq (a : BitVec 5) (b : BitVec 5) (o : BitVec 14)
  /-- R101: Branches when sa differs from sb. -/
  | bne (a : BitVec 5) (b : BitVec 5) (o : BitVec 14)
  /-- R101: Branches when sa is less than sb, signed. -/
  | blt (a : BitVec 5) (b : BitVec 5) (o : BitVec 14)
  /-- R101: Branches when sa is greater than or equal to sb, signed. -/
  | bge (a : BitVec 5) (b : BitVec 5) (o : BitVec 14)
  /-- R101: Branches when sa is less than sb, unsigned. -/
  | bltu (a : BitVec 5) (b : BitVec 5) (o : BitVec 14)
  /-- R101: Branches when sa is greater than or equal to sb, unsigned. -/
  | bgeu (a : BitVec 5) (b : BitVec 5) (o : BitVec 14)
  /-- R102: Jumps PC-relative and writes the link. -/
  | jal (d : BitVec 5) (i : BitVec 19)
  /-- R102: Jumps to sa plus an offset and writes the link, or ends the task at the return sentinel. -/
  | jalr (d : BitVec 5) (a : BitVec 5) (i : BitVec 14)
  /-- R104: Loads a sign-extended byte. -/
  | lb (d : BitVec 5) (a : BitVec 5) (i : BitVec 14)
  /-- R104: Loads a zero-extended byte. -/
  | lbu (d : BitVec 5) (a : BitVec 5) (i : BitVec 14)
  /-- R104: Loads a sign-extended half. -/
  | lh (d : BitVec 5) (a : BitVec 5) (i : BitVec 14)
  /-- R104: Loads a zero-extended half. -/
  | lhu (d : BitVec 5) (a : BitVec 5) (i : BitVec 14)
  /-- R104: Loads a sign-extended word. -/
  | lw (d : BitVec 5) (a : BitVec 5) (i : BitVec 14)
  /-- R104: Loads a zero-extended word. -/
  | lwu (d : BitVec 5) (a : BitVec 5) (i : BitVec 14)
  /-- R104: Loads eight bytes. -/
  | ld (d : BitVec 5) (a : BitVec 5) (i : BitVec 14)
  /-- R104: Stores a byte. -/
  | sb (d : BitVec 5) (a : BitVec 5) (i : BitVec 14)
  /-- R104: Stores a half. -/
  | sh (d : BitVec 5) (a : BitVec 5) (i : BitVec 14)
  /-- R104: Stores a word. -/
  | sw (d : BitVec 5) (a : BitVec 5) (i : BitVec 14)
  /-- R104: Stores eight bytes. -/
  | sd (d : BitVec 5) (a : BitVec 5) (i : BitVec 14)
  /-- R107: Atomically swaps memory with sb and returns the old value. -/
  | amoswap (d : BitVec 5) (a : BitVec 5) (b : BitVec 5) (o : BitVec 2) (s : BitVec 3) (z : Bool)
  /-- R107: Atomically adds sb to memory and returns the old value. -/
  | amoadd (d : BitVec 5) (a : BitVec 5) (b : BitVec 5) (o : BitVec 2) (s : BitVec 3) (z : Bool)
  /-- R107: Atomically ANDs sb into memory and returns the old value. -/
  | amoand (d : BitVec 5) (a : BitVec 5) (b : BitVec 5) (o : BitVec 2) (s : BitVec 3) (z : Bool)
  /-- R107: Atomically ORs sb into memory and returns the old value. -/
  | amoor (d : BitVec 5) (a : BitVec 5) (b : BitVec 5) (o : BitVec 2) (s : BitVec 3) (z : Bool)
  /-- R107: Atomically keeps the signed larger value and returns the old value. -/
  | amomax (d : BitVec 5) (a : BitVec 5) (b : BitVec 5) (o : BitVec 2) (s : BitVec 3) (z : Bool)
  /-- R107: Atomically keeps the signed smaller value and returns the old value. -/
  | amomin (d : BitVec 5) (a : BitVec 5) (b : BitVec 5) (o : BitVec 2) (s : BitVec 3) (z : Bool)
  /-- R107: Atomically writes sb when memory equals sd and returns the old value. -/
  | amocas (d : BitVec 5) (a : BitVec 5) (b : BitVec 5) (o : BitVec 2) (s : BitVec 3) (z : Bool)
  /-- R113: Reads a control and status register, draining a queue where R184 requires. -/
  | csrrd (d : BitVec 5) (c : BitVec 12)
  /-- R113: Reads a CSR and writes sa into it. -/
  | csrwr (d : BitVec 5) (a : BitVec 5) (c : BitVec 12)
  /-- R113: Reads a CSR and sets the bits of sa in it. -/
  | csrset (d : BitVec 5) (a : BitVec 5) (c : BitVec 12)
  /-- R113: Reads a CSR and clears the bits of sa in it. -/
  | csrclr (d : BitVec 5) (a : BitVec 5) (c : BitVec 12)
  /-- R112: Orders earlier accesses of the selected kinds before later ones at the named scope. -/
  | fence (k : BitVec 5) (s : BitVec 3)
  /-- R115: Raises SYSCALL with the code in EVAL. -/
  | sys (c : BitVec 10)
  /-- R374: Returns from a trap to EPC in the recorded mode. -/
  | eret
  /-- R115: Raises BRK with the code in EVAL. -/
  | brk (c : BitVec 10)
  /-- R117: Waits until an event record, trap, interrupt or pre-emption request is pending. -/
  | wfe
  /-- R122: Obtains a grant and sets VL from the requested count. -/
  | setvl (c : Bool) (d : BitVec 5) (a : BitVec 5)
  /-- R123: Writes VTYPE from an immediate. -/
  | setvt (c : Bool) (t : BitVec 16)
  /-- R123: Writes VTYPE from a scalar register. -/
  | setvtReg (c : Bool) (a : BitVec 5)
  /-- R124: Names the scale register and enables SVP. -/
  | setsv (c : Bool) (s : BitVec 6)
  /-- R124: Clears SVP. -/
  | setsvOff (c : Bool)
  /-- R125: Element-wise add. -/
  | vadd (c : Bool) (d : BitVec 6) (a : BitVec 6) (b : BitVec 6) (m : BitVec 4)
  /-- R125: Element-wise subtract. -/
  | vsub (c : Bool) (d : BitVec 6) (a : BitVec 6) (b : BitVec 6) (m : BitVec 4)
  /-- R125: Element-wise multiply. -/
  | vmul (c : Bool) (d : BitVec 6) (a : BitVec 6) (b : BitVec 6) (m : BitVec 4)
  /-- R127: Element-wise divide. -/
  | vdiv (c : Bool) (d : BitVec 6) (a : BitVec 6) (b : BitVec 6) (m : BitVec 4)
  /-- R126: Element-wise minimum. -/
  | vmin (c : Bool) (d : BitVec 6) (a : BitVec 6) (b : BitVec 6) (m : BitVec 4)
  /-- R126: Element-wise maximum. -/
  | vmax (c : Bool) (d : BitVec 6) (a : BitVec 6) (b : BitVec 6) (m : BitVec 4)
  /-- R125: High half of the element-wise integer product. -/
  | vmulh (c : Bool) (d : BitVec 6) (a : BitVec 6) (b : BitVec 6) (m : BitVec 4)
  /-- R125: Element-wise absolute difference. -/
  | vabsd (c : Bool) (d : BitVec 6) (a : BitVec 6) (b : BitVec 6) (m : BitVec 4)
  /-- R125: Element-wise bitwise AND. -/
  | vand (c : Bool) (d : BitVec 6) (a : BitVec 6) (b : BitVec 6) (m : BitVec 4)
  /-- R125: Element-wise bitwise OR. -/
  | vor (c : Bool) (d : BitVec 6) (a : BitVec 6) (b : BitVec 6) (m : BitVec 4)
  /-- R125: Element-wise bitwise XOR. -/
  | vxor (c : Bool) (d : BitVec 6) (a : BitVec 6) (b : BitVec 6) (m : BitVec 4)
  /-- R125: Element-wise left shift by a register amount. -/
  | vsll (c : Bool) (d : BitVec 6) (a : BitVec 6) (b : BitVec 6) (m : BitVec 4)
  /-- R125: Element-wise logical right shift by a register amount. -/
  | vsrl (c : Bool) (d : BitVec 6) (a : BitVec 6) (b : BitVec 6) (m : BitVec 4)
  /-- R125: Element-wise arithmetic right shift by a register amount. -/
  | vsra (c : Bool) (d : BitVec 6) (a : BitVec 6) (b : BitVec 6) (m : BitVec 4)
  /-- R125: Element-wise add of a signed 6-bit immediate. -/
  | vaddi (c : Bool) (d : BitVec 6) (a : BitVec 6) (i : BitVec 6) (m : BitVec 4)
  /-- R125: Element-wise left shift by an immediate. -/
  | vslli (c : Bool) (d : BitVec 6) (a : BitVec 6) (i : BitVec 6) (m : BitVec 4)
  /-- R125: Element-wise logical right shift by an immediate. -/
  | vsrli (c : Bool) (d : BitVec 6) (a : BitVec 6) (i : BitVec 6) (m : BitVec 4)
  /-- R125: Element-wise arithmetic right shift by an immediate. -/
  | vsrai (c : Bool) (d : BitVec 6) (a : BitVec 6) (i : BitVec 6) (m : BitVec 4)
  /-- R130: Unmasked add with a cross-lane modifier on vs2. -/
  | vaddVx (c : Bool) (d : BitVec 6) (a : BitVec 6) (b : BitVec 6) (x : BitVec 6)
  /-- R130: Unmasked subtract with a cross-lane modifier on vs2. -/
  | vsubVx (c : Bool) (d : BitVec 6) (a : BitVec 6) (b : BitVec 6) (x : BitVec 6)
  /-- R130: Unmasked multiply with a cross-lane modifier on vs2. -/
  | vmulVx (c : Bool) (d : BitVec 6) (a : BitVec 6) (b : BitVec 6) (x : BitVec 6)
  /-- R130: Unmasked minimum with a cross-lane modifier on vs2. -/
  | vminVx (c : Bool) (d : BitVec 6) (a : BitVec 6) (b : BitVec 6) (x : BitVec 6)
  /-- R130: Unmasked maximum with a cross-lane modifier on vs2. -/
  | vmaxVx (c : Bool) (d : BitVec 6) (a : BitVec 6) (b : BitVec 6) (x : BitVec 6)
  /-- R128: Fused a times b plus d into vd. -/
  | vfma (c : Bool) (d : BitVec 6) (a : BitVec 6) (b : BitVec 6) (m : BitVec 4)
  /-- R128: Fused a times b minus d into vd. -/
  | vfms (c : Bool) (d : BitVec 6) (a : BitVec 6) (b : BitVec 6) (m : BitVec 4)
  /-- R128: Fused negated product minus d into vd. -/
  | vfnma (c : Bool) (d : BitVec 6) (a : BitVec 6) (b : BitVec 6) (m : BitVec 4)
  /-- R128: Fused negated product plus d into vd. -/
  | vfnms (c : Bool) (d : BitVec 6) (a : BitVec 6) (b : BitVec 6) (m : BitVec 4)
  /-- R129: 8-bit reciprocal estimate. -/
  | vrec (c : Bool) (d : BitVec 6) (a : BitVec 6) (m : BitVec 4)
  /-- R129: 8-bit reciprocal square root estimate. -/
  | vrsq (c : Bool) (d : BitVec 6) (a : BitVec 6) (m : BitVec 4)
  /-- R129: Exact power of two of each element, converted once. -/
  | vfexp2 (c : Bool) (d : BitVec 6) (a : BitVec 6) (m : BitVec 4)
  /-- R129: Element-wise absolute value. -/
  | vabs (c : Bool) (d : BitVec 6) (a : BitVec 6) (m : BitVec 4)
  /-- R129: Element-wise negation. -/
  | vneg (c : Bool) (d : BitVec 6) (a : BitVec 6) (m : BitVec 4)
  /-- R129: Element-wise complement. -/
  | vnot (c : Bool) (d : BitVec 6) (a : BitVec 6) (m : BitVec 4)
  /-- R129: Element-wise leading zero count. -/
  | vclz (c : Bool) (d : BitVec 6) (a : BitVec 6) (m : BitVec 4)
  /-- R129: Element-wise population count. -/
  | vpopc (c : Bool) (d : BitVec 6) (a : BitVec 6) (m : BitVec 4)
  /-- R131: Converts from a format of equal width into the VTYPE format. -/
  | vcvt (c : Bool) (d : BitVec 6) (a : BitVec 6) (t : BitVec 6) (m : BitVec 4)
  /-- R131: Converts from a narrower format into the VTYPE format. -/
  | vwiden (c : Bool) (d : BitVec 6) (a : BitVec 6) (t : BitVec 6) (m : BitVec 4)
  /-- R131: Converts from a wider format into the VTYPE format. -/
  | vnarrow (c : Bool) (d : BitVec 6) (a : BitVec 6) (t : BitVec 6) (m : BitVec 4)
  /-- R132: Quantises a plain source into a block-scaled or outlier format, writing scales. -/
  | vquant (c : Bool) (d : BitVec 6) (a : BitVec 6) (t : BitVec 6)
  /-- R133: Converts a block-scaled or outlier source into the plain VTYPE format. -/
  | vdeq (c : Bool) (d : BitVec 6) (a : BitVec 6) (t : BitVec 6) (m : BitVec 4)
  /-- R134: Writes a mask of element equality. -/
  | vcmpEq (c : Bool) (d : BitVec 6) (a : BitVec 6) (b : BitVec 6) (m : BitVec 4)
  /-- R134: Writes a mask of element inequality. -/
  | vcmpNe (c : Bool) (d : BitVec 6) (a : BitVec 6) (b : BitVec 6) (m : BitVec 4)
  /-- R134: Writes a mask of less-than. -/
  | vcmpLt (c : Bool) (d : BitVec 6) (a : BitVec 6) (b : BitVec 6) (m : BitVec 4)
  /-- R134: Writes a mask of less-or-equal. -/
  | vcmpLe (c : Bool) (d : BitVec 6) (a : BitVec 6) (b : BitVec 6) (m : BitVec 4)
  /-- R134: Writes a mask of equality with an immediate. -/
  | vcmpiEq (c : Bool) (d : BitVec 6) (a : BitVec 6) (i : BitVec 6) (m : BitVec 4)
  /-- R134: Writes a mask of inequality with an immediate. -/
  | vcmpiNe (c : Bool) (d : BitVec 6) (a : BitVec 6) (i : BitVec 6) (m : BitVec 4)
  /-- R134: Writes a mask of less-than an immediate. -/
  | vcmpiLt (c : Bool) (d : BitVec 6) (a : BitVec 6) (i : BitVec 6) (m : BitVec 4)
  /-- R134: Writes a mask of greater-than an immediate. -/
  | vcmpiGt (c : Bool) (d : BitVec 6) (a : BitVec 6) (i : BitVec 6) (m : BitVec 4)
  /-- R135: Mask AND. -/
  | mand (c : Bool) (d : BitVec 6) (a : BitVec 6) (b : BitVec 6)
  /-- R135: Mask OR. -/
  | mor (c : Bool) (d : BitVec 6) (a : BitVec 6) (b : BitVec 6)
  /-- R135: Mask XOR. -/
  | mxor (c : Bool) (d : BitVec 6) (a : BitVec 6) (b : BitVec 6)
  /-- R135: Mask AND NOT. -/
  | mandn (c : Bool) (d : BitVec 6) (a : BitVec 6) (b : BitVec 6)
  /-- R136: Counts set active mask bits into a scalar. -/
  | mpop (c : Bool) (d : BitVec 6) (a : BitVec 6)
  /-- R136: Writes the lowest set active mask position into a scalar. -/
  | mfirst (c : Bool) (d : BitVec 6) (a : BitVec 6)
  /-- R137: Selects elements of vs1 or vs2 by a mask. -/
  | vmerge (c : Bool) (d : BitVec 6) (a : BitVec 6) (b : BitVec 6) (m : BitVec 4)
  /-- R138: Writes each position's index. -/
  | vid (c : Bool) (d : BitVec 6) (m : BitVec 4)
  /-- R139: Packs selected elements and writes their count to a scalar. -/
  | vcompress (c : Bool) (d : BitVec 6) (a : BitVec 6) (s : BitVec 6) (m : BitVec 4)
  /-- R139: Spreads leading elements into selected positions. -/
  | vexpand (c : Bool) (d : BitVec 6) (a : BitVec 6) (m : BitVec 4)
  /-- R140: Gathers elements of vs1 by indices in vs2. -/
  | vperm (c : Bool) (d : BitVec 6) (a : BitVec 6) (b : BitVec 6) (m : BitVec 4)
  /-- R141: Writes the prefix count of set mask bits. -/
  | viota (c : Bool) (d : BitVec 6) (a : BitVec 6) (m : BitVec 4)
  /-- R142: Slides elements up by a scalar amount. -/
  | vslup (c : Bool) (d : BitVec 6) (a : BitVec 6) (s : BitVec 6) (m : BitVec 4)
  /-- R142: Slides elements down by a scalar amount. -/
  | vsldn (c : Bool) (d : BitVec 6) (a : BitVec 6) (s : BitVec 6) (m : BitVec 4)
  /-- R142: Broadcasts the low bits of a scalar to every element. -/
  | vbcast (c : Bool) (d : BitVec 6) (s : BitVec 6) (m : BitVec 4)
  /-- R130: Copies vs1 under a cross-lane modifier. -/
  | vmov (c : Bool) (d : BitVec 6) (a : BitVec 6) (x : BitVec 6) (m : BitVec 4)
  /-- R143: Issues a lane-aligned register exchange with a partner flow. -/
  | vxlane (c : Bool) (d : BitVec 6) (a : BitVec 6) (s : BitVec 6)
  /-- R145: Tree sum of the active elements into a scalar. -/
  | vredsum (c : Bool) (d : BitVec 6) (a : BitVec 6) (m : BitVec 4)
  /-- R145: Tree maximum into a scalar. -/
  | vredmax (c : Bool) (d : BitVec 6) (a : BitVec 6) (m : BitVec 4)
  /-- R145: Tree minimum into a scalar. -/
  | vredmin (c : Bool) (d : BitVec 6) (a : BitVec 6) (m : BitVec 4)
  /-- R145: Tree AND into a scalar. -/
  | vredand (c : Bool) (d : BitVec 6) (a : BitVec 6) (m : BitVec 4)
  /-- R145: Tree OR into a scalar. -/
  | vredor (c : Bool) (d : BitVec 6) (a : BitVec 6) (m : BitVec 4)
  /-- R145: Tree XOR into a scalar. -/
  | vredxor (c : Bool) (d : BitVec 6) (a : BitVec 6) (m : BitVec 4)
  /-- R146: Inclusive running sum. -/
  | vscansum (c : Bool) (d : BitVec 6) (a : BitVec 6) (m : BitVec 4)
  /-- R146: Inclusive running maximum. -/
  | vscanmax (c : Bool) (d : BitVec 6) (a : BitVec 6) (m : BitVec 4)
  /-- R146: Inclusive running minimum. -/
  | vscanmin (c : Bool) (d : BitVec 6) (a : BitVec 6) (m : BitVec 4)
  /-- R146: Exclusive running sum. -/
  | vscansumX (c : Bool) (d : BitVec 6) (a : BitVec 6) (m : BitVec 4)
  /-- R146: Exclusive running maximum. -/
  | vscanmaxX (c : Bool) (d : BitVec 6) (a : BitVec 6) (m : BitVec 4)
  /-- R146: Exclusive running minimum. -/
  | vscanminX (c : Bool) (d : BitVec 6) (a : BitVec 6) (m : BitVec 4)
  /-- R147: Folds chunks of t positions by sum. -/
  | vfoldSum (c : Bool) (d : BitVec 6) (a : BitVec 6) (i : BitVec 6)
  /-- R147: Folds chunks of t positions by maximum. -/
  | vfoldMax (c : Bool) (d : BitVec 6) (a : BitVec 6) (i : BitVec 6)
  /-- R147: Folds chunks of t positions by minimum. -/
  | vfoldMin (c : Bool) (d : BitVec 6) (a : BitVec 6) (i : BitVec 6)
  /-- R149: Orders two value-index pairs in place. -/
  | vcsx (c : Bool) (d : BitVec 6) (a : BitVec 6) (m : BitVec 4)
  /-- R153: Unit-stride vector load. -/
  | vld (c : Bool) (d : BitVec 6) (b : BitVec 5) (m : BitVec 4)
  /-- R153: Strided vector load. -/
  | vlds (c : Bool) (d : BitVec 6) (b : BitVec 5) (s : BitVec 5) (m : BitVec 4)
  /-- R153: Unit-stride vector load from a bit offset. -/
  | vldb (c : Bool) (d : BitVec 6) (b : BitVec 5) (m : BitVec 4) (o : BitVec 3)
  /-- R156: Widening load from an unscaled narrow source, optionally into the matrix feed. -/
  | vldw (c : Bool) (d : BitVec 6) (b : BitVec 5) (m : BitVec 4) (x : Bool) (r : BitVec 2)
  /-- R156: Widening load from a block-scaled narrow source with a scale base, optionally into the matrix feed. -/
  | vldwScaled (c : Bool) (d : BitVec 6) (b : BitVec 5) (s : BitVec 5) (m : BitVec 4) (x : Bool) (r : BitVec 2)
  /-- R154: Unit-stride vector store into the VSQ. -/
  | vst (c : Bool) (d : BitVec 6) (b : BitVec 5) (m : BitVec 4)
  /-- R154: Strided vector store into the VSQ. -/
  | vsts (c : Bool) (d : BitVec 6) (b : BitVec 5) (s : BitVec 5) (m : BitVec 4)
  /-- R166: Opens a strip loop, obtains a grant and starts strip 1. -/
  | loopv (n : BitVec 5) (p : Bool)
  /-- R168: Commits the strip's stores and starts the next strip or closes the loop. -/
  | endv
  /-- R170: Exits the loop at the first active set mask position. -/
  | brkv (m : BitVec 4)
  /-- R173: Splits the active set by a mask and parks one fragment. -/
  | vbr (m : BitVec 4) (o : BitVec 14)
  /-- R174: Resumes a parked fragment or rejoins the active set. -/
  | vjoin
  /-- R240: Allocates a plan object and hands its build to the plan builder. -/
  | plan (x : BitVec 5) (a : BitVec 5) (b : BitVec 5) (w : Bool)
  /-- R242: Gathers plan positions into a landing tag. -/
  | papply (v : BitVec 6) (a : BitVec 5) (b : BitVec 5) (t : BitVec 4) (r : Bool)
  /-- R242: Gathers plan positions into scratchpad. -/
  | papplySpm (x : BitVec 5) (a : BitVec 5) (b : BitVec 5) (r : Bool)
  /-- R245: Scatters, combining or ordered, through a plan. -/
  | pscat (v : BitVec 6) (a : BitVec 5) (b : BitVec 5) (m : BitVec 4) (o : BitVec 3)
  /-- R246: Builds the inverse of a plan. -/
  | pinv (x : BitVec 5) (a : BitVec 5)
  /-- R247: Builds the composite of two plain plans. -/
  | pcomp (x : BitVec 5) (a : BitVec 5) (b : BitVec 5)
  /-- R248: Returns a plan's state word without waiting. -/
  | pstat (x : BitVec 5) (a : BitVec 5)
  /-- R249: Frees a plan and raises its generation. -/
  | pfree (a : BitVec 5)
  /-- R250: Removes a plan from the cluster's plan store. -/
  | pspill (a : BitVec 5)
  /-- R250: Starts bringing a plan into the cluster's plan store. -/
  | pfill (a : BitVec 5)
  /-- R257: Attaches free row quarters of the matrix unit. -/
  | mattach (n : BitVec 4)
  /-- R257: Releases the flow's quarters once its matrix words complete. -/
  | mdetach
  /-- R260: Declares a slot as an f32 sum. -/
  | mdeclF32 (s : BitVec 4)
  /-- R260: Declares a slot as an i32 sum. -/
  | mdeclI32 (s : BitVec 4)
  /-- R260: Declares a slot as ranked lists of length K. -/
  | mdeclRank (k : BitVec 5) (s : BitVec 4)
  /-- R261: Clears a slot's entries. -/
  | mzero (c : Bool) (s : BitVec 4)
  /-- R268: Accumulates outer products into a slot, or is pruned. -/
  | mop (c : Bool) (a : BitVec 6) (b : BitVec 6) (s : BitVec 4) (r : BitVec 3) (p : BitVec 5)
  /-- R269: Outer products with A taken from a source slot through the down-converter. -/
  | mopa (c : Bool) (q : BitVec 4) (b : BitVec 6) (s : BitVec 4) (r : BitVec 3) (p : BitVec 5)
  /-- R278: Loads slot rows from memory. -/
  | mlda (c : Bool) (a : BitVec 5) (b : BitVec 5) (s : BitVec 4)
  /-- R278: Stores slot rows to memory. -/
  | msta (c : Bool) (a : BitVec 5) (b : BitVec 5) (s : BitVec 4)
  /-- R279: Reads one slot row or the slot status into a landing tag. -/
  | mrd (c : Bool) (d : BitVec 6) (a : BitVec 5) (t : BitVec 4) (s : BitVec 4)
  /-- R274: Inserts a sum slot's columns into a ranked slot. -/
  | mrank (c : Bool) (a : BitVec 5) (t : BitVec 4) (q : BitVec 4)
  /-- R275: Merges ranked lists from memory into a ranked slot. -/
  | mrmerge (c : Bool) (a : BitVec 5) (t : BitVec 4)
  /-- R276: Writes each row's threshold into a vector register. -/
  | mthr (c : Bool) (d : BitVec 6) (s : BitVec 4)
  /-- R280: Stalls until the flow's earlier matrix words complete. -/
  | mwait
  /-- R290: Issues a strided memory-to-memory copy to a copy tag. -/
  | stream (x : BitVec 6) (a : BitVec 5) (n : BitVec 5) (t : BitVec 4) (v : BitVec 2) (r : BitVec 2)
  /-- R292: Short load through the landing buffer into a transfer tag. -/
  | streamReg (d : BitVec 6) (a : BitVec 5) (t : BitVec 4)
  /-- R298: Gathers positions of a block table into contiguous space. -/
  | swalk (x : BitVec 5) (a : BitVec 5) (n : BitVec 5) (t : BitVec 4) (v : BitVec 2) (r : BitVec 2)
  /-- R299: Gives a block-table entry a block of its own, copying when shared. -/
  | scow (x : BitVec 5) (a : BitVec 5) (n : BitVec 5) (t : BitVec 4) (v : BitVec 2) (r : BitVec 2)
  /-- R300: Waits for a copy tag's release point. -/
  | swaitRelease (t : BitVec 4)
  /-- R300: Waits for a copy tag's visibility point. -/
  | swaitVisible (t : BitVec 4)
  /-- R301: Writes a landed transfer into its destination registers. -/
  | commit (t : BitVec 4)
  /-- R305: Creates a task from a template, Defined or Ready. -/
  | tdef (x : BitVec 5) (a : BitVec 5) (b : BitVec 5)
  /-- R306: Lowers a task's dependence counter. -/
  | tdec (a : BitVec 5) (b : BitVec 5)
  /-- R305: Creates a Ready task from a template. -/
  | tspawn (x : BitVec 5) (a : BitVec 5) (b : BitVec 5)
  /-- R311: Reads the flow's oldest event record. -/
  | evrd (x : BitVec 5)
  /-- R311: Posts an event record to a flow of the launch. -/
  | evpost (a : BitVec 5) (b : BitVec 5)
  /-- R312: Arrives at a barrier of a group. -/
  | bar (g : BitVec 8)
  /-- R322: Checks timetable entries due by a marker and advances TTCUR. -/
  | mark (m : BitVec 16)
  /-- R321: Binds or unbinds a timetable. -/
  | ttbind (a : BitVec 5) (b : BitVec 5) (o : BitVec 2)
  /-- R324: Returns an entry or binding status word. -/
  | ttstat (x : BitVec 5) (a : BitVec 5)
  /-- R325: Pins held records within a range. -/
  | tierpin (a : BitVec 5) (b : BitVec 5)
  /-- R325: Releases held records within a range. -/
  | tierfree (a : BitVec 5) (b : BitVec 5)
  /-- R342: Captures a token row and hands it to the routing port. -/
  | rowsend (v : BitVec 6) (a : BitVec 5) (b : BitVec 5)
  /-- R343: Waits for all rows to be answered and writes the refusals. -/
  | rowack (x : BitVec 5) (a : BitVec 5)
  /-- R344: Waits for an arrival counter to reach a count. -/
  | arrwait (a : BitVec 5) (b : BitVec 5)
  /-- R345: Returns the replica-table bank published for a round. -/
  | replsel (x : BitVec 5) (a : BitVec 5) (b : BitVec 5)
  /-- R387: Offers a pre-emption point. -/
  | ctxyield
  /-- R388: Returns ENBUDGET with a flag when the estimate exceeds it. -/
  | enchk (x : BitVec 5) (a : BitVec 5)
  /-- CONVOY_START, R79: A convoy starts once the flow's previous convoy has produced its last element. -/
  | evConvoyStart (f : FlowKey)
  /-- VSEQ_ADVANCE, R189: A lane group's vector sequencer chooses a flow and advances one element group. -/
  | evVseqAdvance (core lane : Nat)
  /-- SCALAR_RESULT_WRITE, R148: A scalar result from the vector side is written and its busy mark cleared. -/
  | evScalarResultWrite (f : FlowKey) (r : BitVec 5)
  /-- VXLANE_EXCHANGE, R143: Both members of a VXLANE pair have issued and exchange slices. -/
  | evVxlaneExchange (f g : FlowKey)
  /-- LANDING_DELIVERED, R51: An engine delivers the last element of a transfer, making the tag Landed. -/
  | evLandingDelivered (f : FlowKey) (tag : BitVec 4)
  /-- WAIT_SATISFIED, R178: A Waiting flow's awaited condition holds and it returns to Running. -/
  | evWaitSatisfied (f : FlowKey)
  /-- ENTER, R198: A store moves from the strip buffer into the core store queue. -/
  | evEnter (f : FlowKey) (k : Nat)
  /-- TAKE, R198: A load takes its bytes from the flow's stores or the core view. -/
  | evTake (f : FlowKey) (k : Nat)
  /-- SEND, R198: An access joins the first queue of its path. -/
  | evSend (f : FlowKey) (k : Option Nat)
  /-- PASS, R198: An access moves to the next queue of its path. -/
  | evPass (k : Nat)
  /-- APPLY, R198: An access performs at its point of service. -/
  | evApply (k : Nat)
  /-- DROP, R198: An unregistered byte leaves the core view or a clean peer copy. -/
  | evDrop (core : Option Nat) (addr : Nat)
  /-- ACCEPT, R198: An engine command moves from EQ into its engine's queue. -/
  | evAccept (f : FlowKey)
  /-- EACCESS, R198: One read or write of an accepted engine command joins its path. -/
  | evEaccess (job : Nat) (write : Bool)
  /-- POINT, R205: A completion point is reached and its action starts. -/
  | evPoint (job : Nat) (visible : Bool)
  /-- WRITEBACK, R439: A dirty peer byte is written back toward its home. -/
  | evWriteback (addr : Nat)
  /-- TABLE_LOCK_RETRY, R297: An engine retries a failed block-table lock after 64 fabric cycles. -/
  | evTableLockRetry (job : Nat)
  /-- PLAN_BUILD_COMPLETE, R240: The plan builder finishes a build and sets the plan's state. -/
  | evPlanBuildComplete (job : Nat)
  /-- TASK_DISPATCH, R307: The HTS dispatches a Ready task to an Idle flow. -/
  | evTaskDispatch (die : Nat)
  /-- TASK_END, R180: A flow that reached the return sentinel ends its task once its words complete. -/
  | evTaskEnd (f : FlowKey)
  /-- EVENT_RECORD_DELIVERED, R311: A posted event record arrives in the target flow's queue. -/
  | evEventRecordDelivered (k : Nat)
  /-- BAR_RELEASE, R312: All members have arrived and pass the barrier. -/
  | evBarRelease (launch group : Nat)
  /-- TIMETABLE_LINE_READ, R314: The Sluice reads one line of timetable entries. -/
  | evTimetableLineRead (f : FlowKey)
  /-- TIMETABLE_ENTRY_START, R317: A Queued entry starts Running on a lane. -/
  | evTimetableEntryStart (f : FlowKey) (n : Nat)
  /-- TIMETABLE_ENTRY_DONE, R316: An entry's last write has applied and its action completes. -/
  | evTimetableEntryDone (f : FlowKey) (n : Nat)
  /-- MARK_CHECK_COMPLETE, R322: A MARK's awaited reads and entries end and its check completes. -/
  | evMarkCheckComplete (f : FlowKey)
  /-- ROW_ARRIVE, R335: A token row reaches the receiving routing port and is written or refused. -/
  | evRowArrive (k : Nat)
  /-- ROW_COUNTER_INCREMENT, R337: The arrival counter counts a row once all its writes have applied. -/
  | evRowCounterIncrement (k : Nat)
  /-- ROW_ANSWER, R343: An acceptance or refusal reaches the sender's log. -/
  | evRowAnswer (k : Nat)
  /-- WINDOW_BOUNDARY, R364: A 1 ms energy window ends and every account carries into the next. -/
  | evWindowBoundary
  /-- REPLAY_BOUNDARY, R209: Every flow of a replay context has ended its quantum and logs are applied. -/
  | evReplayBoundary (t : Nat)
  /-- PREEMPT_SAVE, R376: A pending request is served at a pre-emption point and the flow is saved. -/
  | evPreemptSave (f : FlowKey)
  /-- FORCED_PREEMPTION, R377: A request pending 2^20 cycles forces a full-form save. -/
  | evForcedPreemption (f : FlowKey)
  /-- RESUME, R384: A saved flow takes a free flow and grant and restores its record. -/
  | evResume (f : FlowKey)
  /-- TRANSLATION_WALK, R395: A walker completes a page-table walk or a fault, for a core or for an engine of a cluster. -/
  | evTranslationWalk (t : Nat) (va : Word)
  /-- LAUNCH_PORT_WRITE, R351: A 64-byte write delivers a launch record to the router queue. -/
  | evLaunchPortWrite (t : Nat) (off : Nat) (bytes : List Byte)
  /-- LAUNCH_PLACE, R355: The router places or refuses the head launch record of a level. -/
  | evLaunchPlace (t prio : Nat)
  /-- LAUNCH_END, R357: A launch's flows are all Idle and nothing is in flight, so it ends and writes its record. -/
  | evLaunchEnd (launch : Nat)
  /-- TENANT_SET_LIVE, R349: Setting LIVE checks the tenant record and makes the context live. -/
  | evTenantSetLive (t : Nat) (v : Word)
  /-- TENANT_END, R349: Writing END ends the context. -/
  | evTenantEnd (t : Nat)
  /-- PARTADDR_WRITE, R349: A write of PARTADDR reads the partition array. -/
  | evPartaddrWrite (t : Nat) (v : Word)
  /-- SHARE_WRITE, R362: A write of a tenant's energy share, ignored if it exceeds the cap. -/
  | evShareWrite (t : Nat) (v : Word)
  /-- CAPUJ_WRITE, R362: A write of the device energy cap, ignored if shares exceed it. -/
  | evCapujWrite (v : Word)
  /-- TVECT_WRITE, R370: A PF write sets a context's TVEC. -/
  | evTvectWrite (t : Nat) (v : Word)
  /-- PREEMPT_WRITE, R375: A PF write requests pre-emption of every flow of a tenant. -/
  | evPreemptWrite (v : Word)
  /-- REGISTER_WRITE, R432: A write to a device register that has no row of its own. -/
  | evRegisterWrite (r : RegTarget) (v : Word)
  /-- SHOOTDOWN_COMMAND, R400: An aligned 32-byte write queues a shootdown command. -/
  | evShootdownCommand (t : Nat) (bytes : List Byte)
  /-- SHOOTDOWN_COMPLETE, R401: A shootdown's drain ends and SDDONE is written. -/
  | evShootdownComplete (t : Nat)
  /-- HDMCTL_ENABLE, R420: Setting EN enables the HDM range in host bias. -/
  | evHdmctlEnable (v : Word)
  /-- BIASCMD, R420: An aligned 16-byte write queues a bias flip. -/
  | evBiascmd (bytes : List Byte)
  /-- BIAS_FLIP_COMPLETE, R422: The HCA finishes a flip and writes BIASDONE. -/
  | evBiasFlipComplete
  /-- MEMRD, R421: A host read of HDM is served under the page's bias. -/
  | evMemrd (pa : Nat)
  /-- MEMWR, R421: A host write of HDM applies at the home slice. -/
  | evMemwr (pa : Nat) (data : BitVec 512)
  /-- MEMINV, R421: A host MemInv clears a holder bit. -/
  | evMeminv (pa : Nat)
  /-- SNPDATA, R423: A host snoop leaves the HCA's line shared. -/
  | evSnpdata (a : Nat)
  /-- SNPINV, R423: A host snoop drops the HCA's line and returns dirty data. -/
  | evSnpinv (a : Nat)
  /-- SNPCUR, R423: A host snoop returns data without change. -/
  | evSnpcur (a : Nat)
  /-- BIRSP, R421: The host's response to a back-invalidation arrives. -/
  | evBirsp (pa : Nat) (data : Option (BitVec 512))
  /-- BICONFLICT, R422: The host answers a back-invalidation with a conflict. -/
  | evBiconflict (pa : Nat)
  /-- RDS, R413: A read for sharing of a granule reaches its home. -/
  | evRds (die : Nat) (g : Granule)
  /-- RDX, R413: A read for exclusive ownership reaches its home. -/
  | evRdx (die : Nat) (g : Granule)
  /-- UPG, R413: An upgrade to exclusive reaches its home. -/
  | evUpg (die : Nat) (g : Granule)
  /-- FWD, R412: A forward reaches the owner die. -/
  | evFwd (k : Nat)
  /-- INV, R412: An invalidation reaches a sharer die. -/
  | evInv (k : Nat)
  /-- BINV, R415: A back-invalidation reaches a holder die. -/
  | evBinv (k : Nat)
  /-- DATA, R412: Granule data with a grant reaches the requester. -/
  | evData (k : Nat)
  /-- WB, R414: Dirty sectors or an E eviction reach the home. -/
  | evWb (die : Nat) (g : Granule)
  /-- ACK, R412: A completion of Inv, BInv or Fwd reaches the home. -/
  | evAck (k : Nat)
  /-- DONE, R414: The requester's Done closes the home's transaction. -/
  | evDone (k : Nat)
  /-- VEXCON_FLIT_RECEIVE, R435: A flit arrives at a Vexcon port and is checked, or replay is requested. -/
  | evVexconFlitReceive (port : Nat) (flit : Flit)
  /-- VEXCON_PORT_DOWN, R435: A port goes down after eight failed replays of one flit. -/
  | evVexconPortDown (port : Nat)
  /-- PEER_REQUEST, R438: A peer request is served or refused by the receiving device. -/
  | evPeerRequest (q : PeerReq)
  /-- DOMCTL_ENABLE, R437: Setting DOMCTL.EN enables Vexcon traffic and extends measurement 5. -/
  | evDomctlEnable (v : Word)
  /-- PATROL_SCRUB, R442: The HBM patrol visits a sector, rewriting or logging it. -/
  | evPatrolScrub (sector : Nat)
  /-- DIE_LOSS, R447: A die is lost and the survivors end its work and salvage its data. -/
  | evDieLoss (die : Nat)
  /-- RETCL_WRITE, R450: Setting a RETCL bit retires a cluster. -/
  | evRetclWrite (v : Word)
  /-- RETLG_WRITE, R450: Setting a RETLG bit retires a lane group. -/
  | evRetlgWrite (byte : Nat) (v : Byte)
  /-- REPAIR, R451: An aligned 16-byte write requests an HBM row repair. -/
  | evRepair (row seq : Word)
  /-- REPAIR_COMPLETE, R451: A row move ends and REPDONE receives SEQ. -/
  | evRepairComplete
  /-- POWER_ON, R453: Power is applied and the boot sequence runs. -/
  | evPowerOn
  /-- CONVENTIONAL_RESET, R452: A PCI Express hot or warm reset clears contexts and caches. -/
  | evConventionalReset
  /-- ABRUPT_RESET, R452: Loss of die 0 or a fatal always-on error resets the module with cache losses. -/
  | evAbruptReset
  /-- PF_RESET, R452: A function-level reset of the PF ends every tenant context. -/
  | evPfReset
  /-- VF_RESET, R432: A function-level reset of a VF ends that tenant's context. -/
  | evVfReset (n : Nat)
  /-- FEATACC_WRITE, R455: A write of FEATACC stores the offered subset while unlocked. -/
  | evFeataccWrite (n : BitVec 2) (v : Word)
  /-- FEATCTL_LOCK, R456: Setting LOCK fixes the accepted features and extends measurement 4. -/
  | evFeatctlLock
  /-- GET_VERSION, R459: SPDM GET_VERSION request through the DOE mailbox. -/
  | evGetVersion
  /-- GET_CAPABILITIES, R459: SPDM GET_CAPABILITIES request. -/
  | evGetCapabilities
  /-- NEGOTIATE_ALGORITHMS, R459: SPDM NEGOTIATE_ALGORITHMS request. -/
  | evNegotiateAlgorithms
  /-- GET_DIGESTS, R459: SPDM GET_DIGESTS request. -/
  | evGetDigests
  /-- GET_CERTIFICATE, R459: SPDM GET_CERTIFICATE request. -/
  | evGetCertificate
  /-- CHALLENGE, R459: SPDM CHALLENGE request signed by the alias key. -/
  | evChallenge (nonce : Word)
  /-- GET_MEASUREMENTS, R459: SPDM GET_MEASUREMENTS request answered with current measurements. -/
  | evGetMeasurements (index : Nat) (nonce : Word)
  /-- KEY_EXCHANGE, R459: SPDM KEY_EXCHANGE establishing IDE keys. -/
  | evKeyExchange (share : Word)
  /-- MATRIX_WORD_COMPLETE, R263: The matrix unit completes a flow's matrix word (MATTACH after 64 cycles, a MOP's accumulation after its convoy has drained, MSTA's stores entered), in program order. -/
  | evMatrixWordComplete (f : FlowKey)
  /-- UNCORRECTABLE_ERROR, R444: A bit error leaves a register, Basin slot, landing entry or memory sector holding an uncorrectable error until it is overwritten. -/
  | evUncorrectableError (e : ErrTarget)
  /-- DIE_LINK_DOWN, R442: A die link goes down after eight failed replays of one flit. -/
  | evDieLinkDown (d h : Nat)
  /-- HOST_LINK_DOWN, R442: The host link goes down after eight failed replays. -/
  | evHostLinkDown
  /-- HOST_LINK_TRAINING, R431: The host link completes training and alternate protocol negotiation, fixing its width, its rate and whether CXL is enabled. -/
  | evHostLinkTraining (width rate : Nat) (cxl : Bool)
  /-- POWER_OFF, R6: Power is removed from the module, ending the hours-and-repairs span and losing soft repairs and all volatile state. -/
  | evPowerOff
  deriving DecidableEq, Repr

end Sys2Proof
end

