-- ==== Sys2Proof/WellFormed.lean ====
section
/-! DEFINITION. When an instruction's operand fields hold values their kinds admit (R77, R78, R89 to R91 and the
encoding tables of each chapter). `Instr.wf` refuses exactly the terms that no legal word stands for. -/

namespace Sys2Proof

/-- The format codes of R37. -/
def fmtValid (c : Nat) : Bool := decide (c ≤ 27) || (decide (32 ≤ c) && decide (c ≤ 37))

/-- Class N of R83: the plain formats but oi4. -/
def fmtClassN (c : Nat) : Bool := decide (c ≤ 13) || (decide (32 ≤ c) && decide (c ≤ 37))

/-- Every operand field holds a value that its kind admits. The steps without an encoding have no fields. -/
def Instr.wf : Instr → Bool
  | .add _ _ _ => true
  | .sub _ _ _ => true
  | .and _ _ _ => true
  | .or _ _ _ => true
  | .xor _ _ _ => true
  | .sll _ _ _ => true
  | .srl _ _ _ => true
  | .sra _ _ _ => true
  | .slt _ _ _ => true
  | .sltu _ _ _ => true
  | .min _ _ _ => true
  | .max _ _ _ => true
  | .minu _ _ _ => true
  | .maxu _ _ _ => true
  | .clz _ _ => true
  | .ctz _ _ => true
  | .popc _ _ => true
  | .mul _ _ _ => true
  | .mulh _ _ _ => true
  | .mulhu _ _ _ => true
  | .div _ _ _ => true
  | .divu _ _ _ => true
  | .rem _ _ _ => true
  | .remu _ _ _ => true
  | .slli _ _ _ => true
  | .srli _ _ _ => true
  | .srai _ _ _ => true
  | .addi _ _ _ => true
  | .andi _ _ _ => true
  | .ori _ _ _ => true
  | .xori _ _ _ => true
  | .slti _ _ _ => true
  | .sltiu _ _ _ => true
  | .lih _ _ => true
  | .auipc _ _ => true
  | .beq _ _ _ => true
  | .bne _ _ _ => true
  | .blt _ _ _ => true
  | .bge _ _ _ => true
  | .bltu _ _ _ => true
  | .bgeu _ _ _ => true
  | .jal _ _ => true
  | .jalr _ _ _ => true
  | .lb _ _ _ => true
  | .lbu _ _ _ => true
  | .lh _ _ _ => true
  | .lhu _ _ _ => true
  | .lw _ _ _ => true
  | .lwu _ _ _ => true
  | .ld _ _ _ => true
  | .sb _ _ _ => true
  | .sh _ _ _ => true
  | .sw _ _ _ => true
  | .sd _ _ _ => true
  | .amoswap _ _ _ _ s _ => !decide (s.toNat = 7)
  | .amoadd _ _ _ _ s _ => !decide (s.toNat = 7)
  | .amoand _ _ _ _ s _ => !decide (s.toNat = 7)
  | .amoor _ _ _ _ s _ => !decide (s.toNat = 7)
  | .amomax _ _ _ _ s _ => !decide (s.toNat = 7)
  | .amomin _ _ _ _ s _ => !decide (s.toNat = 7)
  | .amocas _ _ _ _ s _ => !decide (s.toNat = 7)
  | .csrrd _ _ => true
  | .csrwr _ _ _ => true
  | .csrset _ _ _ => true
  | .csrclr _ _ _ => true
  | .fence k s => !decide (k.toNat = 0) && !decide (s.toNat = 7)
  | .sys _ => true
  | .eret  => true
  | .brk _ => true
  | .wfe  => true
  | .setvl _ _ _ => true
  | .setvt _ _ => true
  | .setvtReg _ _ => true
  | .setsv _ s => !decide (48 ≤ s.toNat)
  | .setsvOff _ => true
  | .vadd _ d a b m => !decide (48 ≤ d.toNat) && !decide (48 ≤ a.toNat) && !decide (48 ≤ b.toNat) && !decide (12 ≤ m.toNat ∧ m.toNat ≤ 14)
  | .vsub _ d a b m => !decide (48 ≤ d.toNat) && !decide (48 ≤ a.toNat) && !decide (48 ≤ b.toNat) && !decide (12 ≤ m.toNat ∧ m.toNat ≤ 14)
  | .vmul _ d a b m => !decide (48 ≤ d.toNat) && !decide (48 ≤ a.toNat) && !decide (48 ≤ b.toNat) && !decide (12 ≤ m.toNat ∧ m.toNat ≤ 14)
  | .vdiv _ d a b m => !decide (48 ≤ d.toNat) && !decide (48 ≤ a.toNat) && !decide (48 ≤ b.toNat) && !decide (12 ≤ m.toNat ∧ m.toNat ≤ 14)
  | .vmin _ d a b m => !decide (48 ≤ d.toNat) && !decide (48 ≤ a.toNat) && !decide (48 ≤ b.toNat) && !decide (12 ≤ m.toNat ∧ m.toNat ≤ 14)
  | .vmax _ d a b m => !decide (48 ≤ d.toNat) && !decide (48 ≤ a.toNat) && !decide (48 ≤ b.toNat) && !decide (12 ≤ m.toNat ∧ m.toNat ≤ 14)
  | .vmulh _ d a b m => !decide (48 ≤ d.toNat) && !decide (48 ≤ a.toNat) && !decide (48 ≤ b.toNat) && !decide (12 ≤ m.toNat ∧ m.toNat ≤ 14)
  | .vabsd _ d a b m => !decide (48 ≤ d.toNat) && !decide (48 ≤ a.toNat) && !decide (48 ≤ b.toNat) && !decide (12 ≤ m.toNat ∧ m.toNat ≤ 14)
  | .vand _ d a b m => !decide (48 ≤ d.toNat) && !decide (48 ≤ a.toNat) && !decide (48 ≤ b.toNat) && !decide (12 ≤ m.toNat ∧ m.toNat ≤ 14)
  | .vor _ d a b m => !decide (48 ≤ d.toNat) && !decide (48 ≤ a.toNat) && !decide (48 ≤ b.toNat) && !decide (12 ≤ m.toNat ∧ m.toNat ≤ 14)
  | .vxor _ d a b m => !decide (48 ≤ d.toNat) && !decide (48 ≤ a.toNat) && !decide (48 ≤ b.toNat) && !decide (12 ≤ m.toNat ∧ m.toNat ≤ 14)
  | .vsll _ d a b m => !decide (48 ≤ d.toNat) && !decide (48 ≤ a.toNat) && !decide (48 ≤ b.toNat) && !decide (12 ≤ m.toNat ∧ m.toNat ≤ 14)
  | .vsrl _ d a b m => !decide (48 ≤ d.toNat) && !decide (48 ≤ a.toNat) && !decide (48 ≤ b.toNat) && !decide (12 ≤ m.toNat ∧ m.toNat ≤ 14)
  | .vsra _ d a b m => !decide (48 ≤ d.toNat) && !decide (48 ≤ a.toNat) && !decide (48 ≤ b.toNat) && !decide (12 ≤ m.toNat ∧ m.toNat ≤ 14)
  | .vaddi _ d a _ m => !decide (48 ≤ d.toNat) && !decide (48 ≤ a.toNat) && !decide (12 ≤ m.toNat ∧ m.toNat ≤ 14)
  | .vslli _ d a _ m => !decide (48 ≤ d.toNat) && !decide (48 ≤ a.toNat) && !decide (12 ≤ m.toNat ∧ m.toNat ≤ 14)
  | .vsrli _ d a _ m => !decide (48 ≤ d.toNat) && !decide (48 ≤ a.toNat) && !decide (12 ≤ m.toNat ∧ m.toNat ≤ 14)
  | .vsrai _ d a _ m => !decide (48 ≤ d.toNat) && !decide (48 ≤ a.toNat) && !decide (12 ≤ m.toNat ∧ m.toNat ≤ 14)
  | .vaddVx _ d a b x => !decide (48 ≤ d.toNat) && !decide (48 ≤ a.toNat) && !decide (48 ≤ b.toNat) && !decide (x.toNat / 8 % 4 = 2 ∧ x.toNat % 8 ≠ 0)
  | .vsubVx _ d a b x => !decide (48 ≤ d.toNat) && !decide (48 ≤ a.toNat) && !decide (48 ≤ b.toNat) && !decide (x.toNat / 8 % 4 = 2 ∧ x.toNat % 8 ≠ 0)
  | .vmulVx _ d a b x => !decide (48 ≤ d.toNat) && !decide (48 ≤ a.toNat) && !decide (48 ≤ b.toNat) && !decide (x.toNat / 8 % 4 = 2 ∧ x.toNat % 8 ≠ 0)
  | .vminVx _ d a b x => !decide (48 ≤ d.toNat) && !decide (48 ≤ a.toNat) && !decide (48 ≤ b.toNat) && !decide (x.toNat / 8 % 4 = 2 ∧ x.toNat % 8 ≠ 0)
  | .vmaxVx _ d a b x => !decide (48 ≤ d.toNat) && !decide (48 ≤ a.toNat) && !decide (48 ≤ b.toNat) && !decide (x.toNat / 8 % 4 = 2 ∧ x.toNat % 8 ≠ 0)
  | .vfma _ d a b m => !decide (48 ≤ d.toNat) && !decide (48 ≤ a.toNat) && !decide (48 ≤ b.toNat) && !decide (12 ≤ m.toNat ∧ m.toNat ≤ 14)
  | .vfms _ d a b m => !decide (48 ≤ d.toNat) && !decide (48 ≤ a.toNat) && !decide (48 ≤ b.toNat) && !decide (12 ≤ m.toNat ∧ m.toNat ≤ 14)
  | .vfnma _ d a b m => !decide (48 ≤ d.toNat) && !decide (48 ≤ a.toNat) && !decide (48 ≤ b.toNat) && !decide (12 ≤ m.toNat ∧ m.toNat ≤ 14)
  | .vfnms _ d a b m => !decide (48 ≤ d.toNat) && !decide (48 ≤ a.toNat) && !decide (48 ≤ b.toNat) && !decide (12 ≤ m.toNat ∧ m.toNat ≤ 14)
  | .vrec _ d a m => !decide (48 ≤ d.toNat) && !decide (48 ≤ a.toNat) && !decide (12 ≤ m.toNat ∧ m.toNat ≤ 14)
  | .vrsq _ d a m => !decide (48 ≤ d.toNat) && !decide (48 ≤ a.toNat) && !decide (12 ≤ m.toNat ∧ m.toNat ≤ 14)
  | .vfexp2 _ d a m => !decide (48 ≤ d.toNat) && !decide (48 ≤ a.toNat) && !decide (12 ≤ m.toNat ∧ m.toNat ≤ 14)
  | .vabs _ d a m => !decide (48 ≤ d.toNat) && !decide (48 ≤ a.toNat) && !decide (12 ≤ m.toNat ∧ m.toNat ≤ 14)
  | .vneg _ d a m => !decide (48 ≤ d.toNat) && !decide (48 ≤ a.toNat) && !decide (12 ≤ m.toNat ∧ m.toNat ≤ 14)
  | .vnot _ d a m => !decide (48 ≤ d.toNat) && !decide (48 ≤ a.toNat) && !decide (12 ≤ m.toNat ∧ m.toNat ≤ 14)
  | .vclz _ d a m => !decide (48 ≤ d.toNat) && !decide (48 ≤ a.toNat) && !decide (12 ≤ m.toNat ∧ m.toNat ≤ 14)
  | .vpopc _ d a m => !decide (48 ≤ d.toNat) && !decide (48 ≤ a.toNat) && !decide (12 ≤ m.toNat ∧ m.toNat ≤ 14)
  | .vcvt _ d a t m => !decide (48 ≤ d.toNat) && !decide (48 ≤ a.toNat) && !decide (12 ≤ m.toNat ∧ m.toNat ≤ 14) && !decide (fmtClassN t.toNat = false)
  | .vwiden _ d a t m => !decide (48 ≤ d.toNat) && !decide (48 ≤ a.toNat) && !decide (12 ≤ m.toNat ∧ m.toNat ≤ 14) && !decide (fmtClassN t.toNat = false)
  | .vnarrow _ d a t m => !decide (48 ≤ d.toNat) && !decide (48 ≤ a.toNat) && !decide (12 ≤ m.toNat ∧ m.toNat ≤ 14) && !decide (fmtClassN t.toNat = false)
  | .vquant _ d a t => !decide (48 ≤ d.toNat) && !decide (48 ≤ a.toNat) && !decide (fmtClassN t.toNat = false)
  | .vdeq _ d a t m => !decide (48 ≤ d.toNat) && !decide (48 ≤ a.toNat) && !decide (12 ≤ m.toNat ∧ m.toNat ≤ 14) && decide ( (14 ≤ t.toNat ∧ t.toNat ≤ 27))
  | .vcmpEq _ d a b m => !decide (12 ≤ d.toNat) && !decide (48 ≤ a.toNat) && !decide (48 ≤ b.toNat) && !decide (12 ≤ m.toNat ∧ m.toNat ≤ 14)
  | .vcmpNe _ d a b m => !decide (12 ≤ d.toNat) && !decide (48 ≤ a.toNat) && !decide (48 ≤ b.toNat) && !decide (12 ≤ m.toNat ∧ m.toNat ≤ 14)
  | .vcmpLt _ d a b m => !decide (12 ≤ d.toNat) && !decide (48 ≤ a.toNat) && !decide (48 ≤ b.toNat) && !decide (12 ≤ m.toNat ∧ m.toNat ≤ 14)
  | .vcmpLe _ d a b m => !decide (12 ≤ d.toNat) && !decide (48 ≤ a.toNat) && !decide (48 ≤ b.toNat) && !decide (12 ≤ m.toNat ∧ m.toNat ≤ 14)
  | .vcmpiEq _ d a _ m => !decide (12 ≤ d.toNat) && !decide (48 ≤ a.toNat) && !decide (12 ≤ m.toNat ∧ m.toNat ≤ 14)
  | .vcmpiNe _ d a _ m => !decide (12 ≤ d.toNat) && !decide (48 ≤ a.toNat) && !decide (12 ≤ m.toNat ∧ m.toNat ≤ 14)
  | .vcmpiLt _ d a _ m => !decide (12 ≤ d.toNat) && !decide (48 ≤ a.toNat) && !decide (12 ≤ m.toNat ∧ m.toNat ≤ 14)
  | .vcmpiGt _ d a _ m => !decide (12 ≤ d.toNat) && !decide (48 ≤ a.toNat) && !decide (12 ≤ m.toNat ∧ m.toNat ≤ 14)
  | .mand _ d a b => !decide (12 ≤ d.toNat) && !decide (12 ≤ a.toNat) && !decide (12 ≤ b.toNat)
  | .mor _ d a b => !decide (12 ≤ d.toNat) && !decide (12 ≤ a.toNat) && !decide (12 ≤ b.toNat)
  | .mxor _ d a b => !decide (12 ≤ d.toNat) && !decide (12 ≤ a.toNat) && !decide (12 ≤ b.toNat)
  | .mandn _ d a b => !decide (12 ≤ d.toNat) && !decide (12 ≤ a.toNat) && !decide (12 ≤ b.toNat)
  | .mpop _ d a => !decide (32 ≤ d.toNat) && !decide (12 ≤ a.toNat)
  | .mfirst _ d a => !decide (32 ≤ d.toNat) && !decide (12 ≤ a.toNat)
  | .vmerge _ d a b m => !decide (48 ≤ d.toNat) && !decide (48 ≤ a.toNat) && !decide (48 ≤ b.toNat) && !decide (m.toNat = 15) && !decide (12 ≤ m.toNat ∧ m.toNat ≤ 14)
  | .vid _ d m => !decide (48 ≤ d.toNat) && !decide (12 ≤ m.toNat ∧ m.toNat ≤ 14)
  | .vcompress _ d a s m => !decide (48 ≤ d.toNat) && !decide (48 ≤ a.toNat) && !decide (32 ≤ s.toNat) && !decide (12 ≤ m.toNat ∧ m.toNat ≤ 14)
  | .vexpand _ d a m => !decide (48 ≤ d.toNat) && !decide (48 ≤ a.toNat) && !decide (12 ≤ m.toNat ∧ m.toNat ≤ 14)
  | .vperm _ d a b m => !decide (48 ≤ d.toNat) && !decide (48 ≤ a.toNat) && !decide (48 ≤ b.toNat) && !decide (12 ≤ m.toNat ∧ m.toNat ≤ 14)
  | .viota _ d a m => !decide (48 ≤ d.toNat) && !decide (12 ≤ a.toNat) && !decide (12 ≤ m.toNat ∧ m.toNat ≤ 14)
  | .vslup _ d a s m => !decide (48 ≤ d.toNat) && !decide (48 ≤ a.toNat) && !decide (32 ≤ s.toNat) && !decide (12 ≤ m.toNat ∧ m.toNat ≤ 14)
  | .vsldn _ d a s m => !decide (48 ≤ d.toNat) && !decide (48 ≤ a.toNat) && !decide (32 ≤ s.toNat) && !decide (12 ≤ m.toNat ∧ m.toNat ≤ 14)
  | .vbcast _ d s m => !decide (48 ≤ d.toNat) && !decide (32 ≤ s.toNat) && !decide (12 ≤ m.toNat ∧ m.toNat ≤ 14)
  | .vmov _ d a x m => !decide (48 ≤ d.toNat) && !decide (48 ≤ a.toNat) && !decide (x.toNat / 8 % 4 = 2 ∧ x.toNat % 8 ≠ 0) && !decide (12 ≤ m.toNat ∧ m.toNat ≤ 14)
  | .vxlane _ d a s => !decide (48 ≤ d.toNat) && !decide (48 ≤ a.toNat) && !decide (32 ≤ s.toNat)
  | .vredsum _ d a m => !decide (32 ≤ d.toNat) && !decide (48 ≤ a.toNat) && !decide (12 ≤ m.toNat ∧ m.toNat ≤ 14)
  | .vredmax _ d a m => !decide (32 ≤ d.toNat) && !decide (48 ≤ a.toNat) && !decide (12 ≤ m.toNat ∧ m.toNat ≤ 14)
  | .vredmin _ d a m => !decide (32 ≤ d.toNat) && !decide (48 ≤ a.toNat) && !decide (12 ≤ m.toNat ∧ m.toNat ≤ 14)
  | .vredand _ d a m => !decide (32 ≤ d.toNat) && !decide (48 ≤ a.toNat) && !decide (12 ≤ m.toNat ∧ m.toNat ≤ 14)
  | .vredor _ d a m => !decide (32 ≤ d.toNat) && !decide (48 ≤ a.toNat) && !decide (12 ≤ m.toNat ∧ m.toNat ≤ 14)
  | .vredxor _ d a m => !decide (32 ≤ d.toNat) && !decide (48 ≤ a.toNat) && !decide (12 ≤ m.toNat ∧ m.toNat ≤ 14)
  | .vscansum _ d a m => !decide (48 ≤ d.toNat) && !decide (48 ≤ a.toNat) && !decide (12 ≤ m.toNat ∧ m.toNat ≤ 14)
  | .vscanmax _ d a m => !decide (48 ≤ d.toNat) && !decide (48 ≤ a.toNat) && !decide (12 ≤ m.toNat ∧ m.toNat ≤ 14)
  | .vscanmin _ d a m => !decide (48 ≤ d.toNat) && !decide (48 ≤ a.toNat) && !decide (12 ≤ m.toNat ∧ m.toNat ≤ 14)
  | .vscansumX _ d a m => !decide (48 ≤ d.toNat) && !decide (48 ≤ a.toNat) && !decide (12 ≤ m.toNat ∧ m.toNat ≤ 14)
  | .vscanmaxX _ d a m => !decide (48 ≤ d.toNat) && !decide (48 ≤ a.toNat) && !decide (12 ≤ m.toNat ∧ m.toNat ≤ 14)
  | .vscanminX _ d a m => !decide (48 ≤ d.toNat) && !decide (48 ≤ a.toNat) && !decide (12 ≤ m.toNat ∧ m.toNat ≤ 14)
  | .vfoldSum _ d a i => !decide (48 ≤ d.toNat) && !decide (48 ≤ a.toNat) && !decide (16 ≤ i.toNat)
  | .vfoldMax _ d a i => !decide (48 ≤ d.toNat) && !decide (48 ≤ a.toNat) && !decide (16 ≤ i.toNat)
  | .vfoldMin _ d a i => !decide (48 ≤ d.toNat) && !decide (48 ≤ a.toNat) && !decide (16 ≤ i.toNat)
  | .vcsx _ d a m => !decide (48 ≤ d.toNat) && !decide (48 ≤ a.toNat) && !decide (12 ≤ m.toNat ∧ m.toNat ≤ 14)
  | .vld _ d _ m => !decide (48 ≤ d.toNat) && !decide (12 ≤ m.toNat ∧ m.toNat ≤ 14)
  | .vlds _ d _ _ m => !decide (48 ≤ d.toNat) && !decide (12 ≤ m.toNat ∧ m.toNat ≤ 14)
  | .vldb _ d _ m _ => !decide (48 ≤ d.toNat) && !decide (12 ≤ m.toNat ∧ m.toNat ≤ 14)
  | .vldw _ d _ m _ _ => !decide (48 ≤ d.toNat) && !decide (12 ≤ m.toNat ∧ m.toNat ≤ 14)
  | .vldwScaled _ d _ _ m _ _ => !decide (48 ≤ d.toNat) && !decide (12 ≤ m.toNat ∧ m.toNat ≤ 14)
  | .vst _ d _ m => !decide (48 ≤ d.toNat) && !decide (12 ≤ m.toNat ∧ m.toNat ≤ 14)
  | .vsts _ d _ _ m => !decide (48 ≤ d.toNat) && !decide (12 ≤ m.toNat ∧ m.toNat ≤ 14)
  | .loopv _ _ => true
  | .endv  => true
  | .brkv m => !decide (m.toNat = 15) && !decide (12 ≤ m.toNat ∧ m.toNat ≤ 14)
  | .vbr m _ => !decide (12 ≤ m.toNat)
  | .vjoin  => true
  | .plan _ _ _ _ => true
  | .papply v _ _ _ _ => !decide (48 ≤ v.toNat)
  | .papplySpm _ _ _ _ => true
  | .pscat v _ _ m o => !decide (48 ≤ v.toNat) && !decide (12 ≤ m.toNat ∧ m.toNat ≤ 14) && !decide (5 ≤ o.toNat)
  | .pinv _ _ => true
  | .pcomp _ _ _ => true
  | .pstat _ _ => true
  | .pfree _ => true
  | .pspill _ => true
  | .pfill _ => true
  | .mattach n => decide ( (1 ≤ n.toNat ∧ n.toNat ≤ 4))
  | .mdetach  => true
  | .mdeclF32 _ => true
  | .mdeclI32 _ => true
  | .mdeclRank _ _ => true
  | .mzero _ _ => true
  | .mop _ a b _ _ _ => !decide (48 ≤ a.toNat) && !decide (48 ≤ b.toNat)
  | .mopa _ q b s _ _ => !decide (48 ≤ b.toNat) && !decide (q = s)
  | .mlda _ _ _ _ => true
  | .msta _ _ _ _ => true
  | .mrd _ d _ _ _ => !decide (48 ≤ d.toNat)
  | .mrank _ _ _ _ => true
  | .mrmerge _ _ _ => true
  | .mthr _ d _ => !decide (48 ≤ d.toNat)
  | .mwait  => true
  | .stream x _ n _ v r => !decide (48 ≤ x.toNat) && !decide (n.toNat % 2 = 1) && !decide (v.toNat = 3) && !decide (r.toNat = 3)
  | .streamReg d _ _ => !decide (48 ≤ d.toNat)
  | .swalk _ _ n _ v r => !decide (n.toNat % 2 = 1) && !decide (v.toNat = 3) && !decide (r.toNat = 3)
  | .scow _ _ n _ v r => !decide (n.toNat % 2 = 1) && !decide (v.toNat = 3) && !decide (r.toNat = 3)
  | .swaitRelease _ => true
  | .swaitVisible _ => true
  | .commit _ => true
  | .tdef _ _ _ => true
  | .tdec _ _ => true
  | .tspawn _ _ _ => true
  | .evrd _ => true
  | .evpost _ _ => true
  | .bar _ => true
  | .mark _ => true
  | .ttbind _ _ o => !decide (o.toNat = 3)
  | .ttstat _ _ => true
  | .tierpin _ _ => true
  | .tierfree _ _ => true
  | .rowsend v _ _ => !decide (48 ≤ v.toNat)
  | .rowack _ _ => true
  | .arrwait _ _ => true
  | .replsel _ _ _ => true
  | .ctxyield  => true
  | .enchk _ _ => true
  | .evConvoyStart _ => true
  | .evVseqAdvance _ _ => true
  | .evScalarResultWrite _ _ => true
  | .evVxlaneExchange _ _ => true
  | .evLandingDelivered _ _ => true
  | .evWaitSatisfied _ => true
  | .evEnter _ _ => true
  | .evTake _ _ => true
  | .evSend _ _ => true
  | .evPass _ => true
  | .evApply _ => true
  | .evDrop _ _ => true
  | .evAccept _ => true
  | .evEaccess _ _ => true
  | .evPoint _ _ => true
  | .evWriteback _ => true
  | .evTableLockRetry _ => true
  | .evPlanBuildComplete _ => true
  | .evTaskDispatch _ => true
  | .evTaskEnd _ => true
  | .evEventRecordDelivered _ => true
  | .evBarRelease _ _ => true
  | .evTimetableLineRead _ => true
  | .evTimetableEntryStart _ _ => true
  | .evTimetableEntryDone _ _ => true
  | .evMarkCheckComplete _ => true
  | .evRowArrive _ => true
  | .evRowCounterIncrement _ => true
  | .evRowAnswer _ => true
  | .evWindowBoundary  => true
  | .evReplayBoundary _ => true
  | .evPreemptSave _ => true
  | .evForcedPreemption _ => true
  | .evResume _ => true
  | .evTranslationWalk _ _ => true
  | .evLaunchPortWrite _ _ _ => true
  | .evLaunchPlace _ _ => true
  | .evLaunchEnd _ => true
  | .evTenantSetLive _ _ => true
  | .evTenantEnd _ => true
  | .evPartaddrWrite _ _ => true
  | .evShareWrite _ _ => true
  | .evCapujWrite _ => true
  | .evTvectWrite _ _ => true
  | .evPreemptWrite _ => true
  | .evRegisterWrite _ _ => true
  | .evShootdownCommand _ _ => true
  | .evShootdownComplete _ => true
  | .evHdmctlEnable _ => true
  | .evBiascmd _ => true
  | .evBiasFlipComplete  => true
  | .evMemrd _ => true
  | .evMemwr _ _ => true
  | .evMeminv _ => true
  | .evSnpdata _ => true
  | .evSnpinv _ => true
  | .evSnpcur _ => true
  | .evBirsp _ _ => true
  | .evBiconflict _ => true
  | .evRds _ _ => true
  | .evRdx _ _ => true
  | .evUpg _ _ => true
  | .evFwd _ => true
  | .evInv _ => true
  | .evBinv _ => true
  | .evData _ => true
  | .evWb _ _ => true
  | .evAck _ => true
  | .evDone _ => true
  | .evVexconFlitReceive _ _ => true
  | .evVexconPortDown _ => true
  | .evPeerRequest _ => true
  | .evDomctlEnable _ => true
  | .evPatrolScrub _ => true
  | .evDieLoss _ => true
  | .evRetclWrite _ => true
  | .evRetlgWrite _ _ => true
  | .evRepair _ _ => true
  | .evRepairComplete  => true
  | .evPowerOn  => true
  | .evConventionalReset  => true
  | .evAbruptReset  => true
  | .evPfReset  => true
  | .evVfReset _ => true
  | .evFeataccWrite _ _ => true
  | .evFeatctlLock  => true
  | .evGetVersion  => true
  | .evGetCapabilities  => true
  | .evNegotiateAlgorithms  => true
  | .evGetDigests  => true
  | .evGetCertificate  => true
  | .evChallenge _ => true
  | .evGetMeasurements _ _ => true
  | .evKeyExchange _ => true
  | .evMatrixWordComplete _ => true
  | .evUncorrectableError _ => true
  | .evDieLinkDown _ _ => true
  | .evHostLinkDown  => true
  | .evHostLinkTraining _ _ _ => true
  | .evPowerOff  => true

end Sys2Proof
end

