-- ==== Sys2Proof/Decode.lean ====
section
/-! DEFINITION. The decoder, total on any bytes, and the encoder (04 R74 to R91, 06 R150, 07 R176, 12 R239,
14 R281, 15 R288, 16 R319, 18 R341, 20 R389). A word that is no instruction is rejected with the subcode of
ILLEGAL its first failing check gives, in the order of R84: OPCODE, FUNC, FIELD, REG, MASK, and CONVOY for
C = 1 on a scalar-class word. The checks that read the flow's state belong to the instruction's meaning. -/

namespace Sys2Proof

/-- Why a word is no instruction: items 1 to 6 of R84. `short`: fewer than four bytes. -/
inductive DecErr where
  | opcode | func | field | reg | mask | convoy | short
  deriving DecidableEq, Repr

/-- Bits [lo, lo + n) of a word given as a number. -/
def fld (w lo n : Nat) : Nat := w / 2 ^ lo % 2 ^ n

/-- The instruction, unless a check of the list fails; the first that fails names the error (R84). -/
def check : List (Bool × DecErr) → Instr → Except DecErr Instr
  | [], i => .ok i
  | (b, e) :: cs, i => if b then .error e else check cs i
/-- OP 0x01. -/
def decOp01 (w : Nat) : Except DecErr Instr :=
  match fld w 0 9 with
  | 0x000 => check [(decide (fld w 31 1 ≠ 0), .convoy)] (.add (BitVec.ofNat 5 (fld w 19 5)) (BitVec.ofNat 5 (fld w 14 5)) (BitVec.ofNat 5 (fld w 9 5)))
  | 0x001 => check [(decide (fld w 31 1 ≠ 0), .convoy)] (.sub (BitVec.ofNat 5 (fld w 19 5)) (BitVec.ofNat 5 (fld w 14 5)) (BitVec.ofNat 5 (fld w 9 5)))
  | 0x002 => check [(decide (fld w 31 1 ≠ 0), .convoy)] (.and (BitVec.ofNat 5 (fld w 19 5)) (BitVec.ofNat 5 (fld w 14 5)) (BitVec.ofNat 5 (fld w 9 5)))
  | 0x003 => check [(decide (fld w 31 1 ≠ 0), .convoy)] (.or (BitVec.ofNat 5 (fld w 19 5)) (BitVec.ofNat 5 (fld w 14 5)) (BitVec.ofNat 5 (fld w 9 5)))
  | 0x004 => check [(decide (fld w 31 1 ≠ 0), .convoy)] (.xor (BitVec.ofNat 5 (fld w 19 5)) (BitVec.ofNat 5 (fld w 14 5)) (BitVec.ofNat 5 (fld w 9 5)))
  | 0x005 => check [(decide (fld w 31 1 ≠ 0), .convoy)] (.sll (BitVec.ofNat 5 (fld w 19 5)) (BitVec.ofNat 5 (fld w 14 5)) (BitVec.ofNat 5 (fld w 9 5)))
  | 0x006 => check [(decide (fld w 31 1 ≠ 0), .convoy)] (.srl (BitVec.ofNat 5 (fld w 19 5)) (BitVec.ofNat 5 (fld w 14 5)) (BitVec.ofNat 5 (fld w 9 5)))
  | 0x007 => check [(decide (fld w 31 1 ≠ 0), .convoy)] (.sra (BitVec.ofNat 5 (fld w 19 5)) (BitVec.ofNat 5 (fld w 14 5)) (BitVec.ofNat 5 (fld w 9 5)))
  | 0x008 => check [(decide (fld w 31 1 ≠ 0), .convoy)] (.slt (BitVec.ofNat 5 (fld w 19 5)) (BitVec.ofNat 5 (fld w 14 5)) (BitVec.ofNat 5 (fld w 9 5)))
  | 0x009 => check [(decide (fld w 31 1 ≠ 0), .convoy)] (.sltu (BitVec.ofNat 5 (fld w 19 5)) (BitVec.ofNat 5 (fld w 14 5)) (BitVec.ofNat 5 (fld w 9 5)))
  | 0x00A => check [(decide (fld w 31 1 ≠ 0), .convoy)] (.min (BitVec.ofNat 5 (fld w 19 5)) (BitVec.ofNat 5 (fld w 14 5)) (BitVec.ofNat 5 (fld w 9 5)))
  | 0x00B => check [(decide (fld w 31 1 ≠ 0), .convoy)] (.max (BitVec.ofNat 5 (fld w 19 5)) (BitVec.ofNat 5 (fld w 14 5)) (BitVec.ofNat 5 (fld w 9 5)))
  | 0x00C => check [(decide (fld w 31 1 ≠ 0), .convoy)] (.minu (BitVec.ofNat 5 (fld w 19 5)) (BitVec.ofNat 5 (fld w 14 5)) (BitVec.ofNat 5 (fld w 9 5)))
  | 0x00D => check [(decide (fld w 31 1 ≠ 0), .convoy)] (.maxu (BitVec.ofNat 5 (fld w 19 5)) (BitVec.ofNat 5 (fld w 14 5)) (BitVec.ofNat 5 (fld w 9 5)))
  | 0x010 => check [(decide (fld w 9 5 ≠ 0), .field), (decide (fld w 31 1 ≠ 0), .convoy)] (.clz (BitVec.ofNat 5 (fld w 19 5)) (BitVec.ofNat 5 (fld w 14 5)))
  | 0x011 => check [(decide (fld w 9 5 ≠ 0), .field), (decide (fld w 31 1 ≠ 0), .convoy)] (.ctz (BitVec.ofNat 5 (fld w 19 5)) (BitVec.ofNat 5 (fld w 14 5)))
  | 0x012 => check [(decide (fld w 9 5 ≠ 0), .field), (decide (fld w 31 1 ≠ 0), .convoy)] (.popc (BitVec.ofNat 5 (fld w 19 5)) (BitVec.ofNat 5 (fld w 14 5)))
  | 0x020 => check [(decide (fld w 31 1 ≠ 0), .convoy)] (.mul (BitVec.ofNat 5 (fld w 19 5)) (BitVec.ofNat 5 (fld w 14 5)) (BitVec.ofNat 5 (fld w 9 5)))
  | 0x021 => check [(decide (fld w 31 1 ≠ 0), .convoy)] (.mulh (BitVec.ofNat 5 (fld w 19 5)) (BitVec.ofNat 5 (fld w 14 5)) (BitVec.ofNat 5 (fld w 9 5)))
  | 0x022 => check [(decide (fld w 31 1 ≠ 0), .convoy)] (.mulhu (BitVec.ofNat 5 (fld w 19 5)) (BitVec.ofNat 5 (fld w 14 5)) (BitVec.ofNat 5 (fld w 9 5)))
  | 0x023 => check [(decide (fld w 31 1 ≠ 0), .convoy)] (.div (BitVec.ofNat 5 (fld w 19 5)) (BitVec.ofNat 5 (fld w 14 5)) (BitVec.ofNat 5 (fld w 9 5)))
  | 0x024 => check [(decide (fld w 31 1 ≠ 0), .convoy)] (.divu (BitVec.ofNat 5 (fld w 19 5)) (BitVec.ofNat 5 (fld w 14 5)) (BitVec.ofNat 5 (fld w 9 5)))
  | 0x025 => check [(decide (fld w 31 1 ≠ 0), .convoy)] (.rem (BitVec.ofNat 5 (fld w 19 5)) (BitVec.ofNat 5 (fld w 14 5)) (BitVec.ofNat 5 (fld w 9 5)))
  | 0x026 => check [(decide (fld w 31 1 ≠ 0), .convoy)] (.remu (BitVec.ofNat 5 (fld w 19 5)) (BitVec.ofNat 5 (fld w 14 5)) (BitVec.ofNat 5 (fld w 9 5)))
  | _ => match fld w 6 3 with
    | 1 => check [(decide (fld w 9 5 ≠ 0), .field), (decide (fld w 31 1 ≠ 0), .convoy)] (.slli (BitVec.ofNat 5 (fld w 19 5)) (BitVec.ofNat 5 (fld w 14 5)) (BitVec.ofNat 6 (fld w 0 6)))
    | 2 => check [(decide (fld w 9 5 ≠ 0), .field), (decide (fld w 31 1 ≠ 0), .convoy)] (.srli (BitVec.ofNat 5 (fld w 19 5)) (BitVec.ofNat 5 (fld w 14 5)) (BitVec.ofNat 6 (fld w 0 6)))
    | 3 => check [(decide (fld w 9 5 ≠ 0), .field), (decide (fld w 31 1 ≠ 0), .convoy)] (.srai (BitVec.ofNat 5 (fld w 19 5)) (BitVec.ofNat 5 (fld w 14 5)) (BitVec.ofNat 6 (fld w 0 6)))
    | _ => .error .func

/-- OP 0x02. -/
def decOp02 (w : Nat) : Except DecErr Instr :=
  check [(decide (fld w 31 1 ≠ 0), .convoy)] (.addi (BitVec.ofNat 5 (fld w 19 5)) (BitVec.ofNat 5 (fld w 14 5)) (BitVec.ofNat 14 (fld w 0 14)))

/-- OP 0x03. -/
def decOp03 (w : Nat) : Except DecErr Instr :=
  check [(decide (fld w 31 1 ≠ 0), .convoy)] (.andi (BitVec.ofNat 5 (fld w 19 5)) (BitVec.ofNat 5 (fld w 14 5)) (BitVec.ofNat 14 (fld w 0 14)))

/-- OP 0x04. -/
def decOp04 (w : Nat) : Except DecErr Instr :=
  check [(decide (fld w 31 1 ≠ 0), .convoy)] (.ori (BitVec.ofNat 5 (fld w 19 5)) (BitVec.ofNat 5 (fld w 14 5)) (BitVec.ofNat 14 (fld w 0 14)))

/-- OP 0x05. -/
def decOp05 (w : Nat) : Except DecErr Instr :=
  check [(decide (fld w 31 1 ≠ 0), .convoy)] (.xori (BitVec.ofNat 5 (fld w 19 5)) (BitVec.ofNat 5 (fld w 14 5)) (BitVec.ofNat 14 (fld w 0 14)))

/-- OP 0x06. -/
def decOp06 (w : Nat) : Except DecErr Instr :=
  check [(decide (fld w 31 1 ≠ 0), .convoy)] (.slti (BitVec.ofNat 5 (fld w 19 5)) (BitVec.ofNat 5 (fld w 14 5)) (BitVec.ofNat 14 (fld w 0 14)))

/-- OP 0x07. -/
def decOp07 (w : Nat) : Except DecErr Instr :=
  check [(decide (fld w 31 1 ≠ 0), .convoy)] (.sltiu (BitVec.ofNat 5 (fld w 19 5)) (BitVec.ofNat 5 (fld w 14 5)) (BitVec.ofNat 14 (fld w 0 14)))

/-- OP 0x08. -/
def decOp08 (w : Nat) : Except DecErr Instr :=
  check [(decide (fld w 31 1 ≠ 0), .convoy)] (.lih (BitVec.ofNat 5 (fld w 19 5)) (BitVec.ofNat 19 (fld w 0 19)))

/-- OP 0x09. -/
def decOp09 (w : Nat) : Except DecErr Instr :=
  check [(decide (fld w 31 1 ≠ 0), .convoy)] (.auipc (BitVec.ofNat 5 (fld w 19 5)) (BitVec.ofNat 19 (fld w 0 19)))

/-- OP 0x0A. -/
def decOp0A (w : Nat) : Except DecErr Instr :=
  check [(decide (fld w 31 1 ≠ 0), .convoy)] (.beq (BitVec.ofNat 5 (fld w 19 5)) (BitVec.ofNat 5 (fld w 14 5)) (BitVec.ofNat 14 (fld w 0 14)))

/-- OP 0x0B. -/
def decOp0B (w : Nat) : Except DecErr Instr :=
  check [(decide (fld w 31 1 ≠ 0), .convoy)] (.bne (BitVec.ofNat 5 (fld w 19 5)) (BitVec.ofNat 5 (fld w 14 5)) (BitVec.ofNat 14 (fld w 0 14)))

/-- OP 0x0C. -/
def decOp0C (w : Nat) : Except DecErr Instr :=
  check [(decide (fld w 31 1 ≠ 0), .convoy)] (.blt (BitVec.ofNat 5 (fld w 19 5)) (BitVec.ofNat 5 (fld w 14 5)) (BitVec.ofNat 14 (fld w 0 14)))

/-- OP 0x0D. -/
def decOp0D (w : Nat) : Except DecErr Instr :=
  check [(decide (fld w 31 1 ≠ 0), .convoy)] (.bge (BitVec.ofNat 5 (fld w 19 5)) (BitVec.ofNat 5 (fld w 14 5)) (BitVec.ofNat 14 (fld w 0 14)))

/-- OP 0x0E. -/
def decOp0E (w : Nat) : Except DecErr Instr :=
  check [(decide (fld w 31 1 ≠ 0), .convoy)] (.bltu (BitVec.ofNat 5 (fld w 19 5)) (BitVec.ofNat 5 (fld w 14 5)) (BitVec.ofNat 14 (fld w 0 14)))

/-- OP 0x0F. -/
def decOp0F (w : Nat) : Except DecErr Instr :=
  check [(decide (fld w 31 1 ≠ 0), .convoy)] (.bgeu (BitVec.ofNat 5 (fld w 19 5)) (BitVec.ofNat 5 (fld w 14 5)) (BitVec.ofNat 14 (fld w 0 14)))

/-- OP 0x10. -/
def decOp10 (w : Nat) : Except DecErr Instr :=
  check [(decide (fld w 31 1 ≠ 0), .convoy)] (.jal (BitVec.ofNat 5 (fld w 19 5)) (BitVec.ofNat 19 (fld w 0 19)))

/-- OP 0x11. -/
def decOp11 (w : Nat) : Except DecErr Instr :=
  check [(decide (fld w 31 1 ≠ 0), .convoy)] (.jalr (BitVec.ofNat 5 (fld w 19 5)) (BitVec.ofNat 5 (fld w 14 5)) (BitVec.ofNat 14 (fld w 0 14)))

/-- OP 0x12. -/
def decOp12 (w : Nat) : Except DecErr Instr :=
  check [(decide (fld w 31 1 ≠ 0), .convoy)] (.lb (BitVec.ofNat 5 (fld w 19 5)) (BitVec.ofNat 5 (fld w 14 5)) (BitVec.ofNat 14 (fld w 0 14)))

/-- OP 0x13. -/
def decOp13 (w : Nat) : Except DecErr Instr :=
  check [(decide (fld w 31 1 ≠ 0), .convoy)] (.lbu (BitVec.ofNat 5 (fld w 19 5)) (BitVec.ofNat 5 (fld w 14 5)) (BitVec.ofNat 14 (fld w 0 14)))

/-- OP 0x14. -/
def decOp14 (w : Nat) : Except DecErr Instr :=
  check [(decide (fld w 31 1 ≠ 0), .convoy)] (.lh (BitVec.ofNat 5 (fld w 19 5)) (BitVec.ofNat 5 (fld w 14 5)) (BitVec.ofNat 14 (fld w 0 14)))

/-- OP 0x15. -/
def decOp15 (w : Nat) : Except DecErr Instr :=
  check [(decide (fld w 31 1 ≠ 0), .convoy)] (.lhu (BitVec.ofNat 5 (fld w 19 5)) (BitVec.ofNat 5 (fld w 14 5)) (BitVec.ofNat 14 (fld w 0 14)))

/-- OP 0x16. -/
def decOp16 (w : Nat) : Except DecErr Instr :=
  check [(decide (fld w 31 1 ≠ 0), .convoy)] (.lw (BitVec.ofNat 5 (fld w 19 5)) (BitVec.ofNat 5 (fld w 14 5)) (BitVec.ofNat 14 (fld w 0 14)))

/-- OP 0x17. -/
def decOp17 (w : Nat) : Except DecErr Instr :=
  check [(decide (fld w 31 1 ≠ 0), .convoy)] (.lwu (BitVec.ofNat 5 (fld w 19 5)) (BitVec.ofNat 5 (fld w 14 5)) (BitVec.ofNat 14 (fld w 0 14)))

/-- OP 0x18. -/
def decOp18 (w : Nat) : Except DecErr Instr :=
  check [(decide (fld w 31 1 ≠ 0), .convoy)] (.ld (BitVec.ofNat 5 (fld w 19 5)) (BitVec.ofNat 5 (fld w 14 5)) (BitVec.ofNat 14 (fld w 0 14)))

/-- OP 0x19. -/
def decOp19 (w : Nat) : Except DecErr Instr :=
  check [(decide (fld w 31 1 ≠ 0), .convoy)] (.sb (BitVec.ofNat 5 (fld w 19 5)) (BitVec.ofNat 5 (fld w 14 5)) (BitVec.ofNat 14 (fld w 0 14)))

/-- OP 0x1A. -/
def decOp1A (w : Nat) : Except DecErr Instr :=
  check [(decide (fld w 31 1 ≠ 0), .convoy)] (.sh (BitVec.ofNat 5 (fld w 19 5)) (BitVec.ofNat 5 (fld w 14 5)) (BitVec.ofNat 14 (fld w 0 14)))

/-- OP 0x1B. -/
def decOp1B (w : Nat) : Except DecErr Instr :=
  check [(decide (fld w 31 1 ≠ 0), .convoy)] (.sw (BitVec.ofNat 5 (fld w 19 5)) (BitVec.ofNat 5 (fld w 14 5)) (BitVec.ofNat 14 (fld w 0 14)))

/-- OP 0x1C. -/
def decOp1C (w : Nat) : Except DecErr Instr :=
  check [(decide (fld w 31 1 ≠ 0), .convoy)] (.sd (BitVec.ofNat 5 (fld w 19 5)) (BitVec.ofNat 5 (fld w 14 5)) (BitVec.ofNat 14 (fld w 0 14)))

/-- OP 0x1D. -/
def decOp1D (w : Nat) : Except DecErr Instr :=
  match fld w 6 3 with
  | 0 => check [(decide (fld w 1 3 = 7), .func), (decide (fld w 31 1 ≠ 0), .convoy)] (.amoswap (BitVec.ofNat 5 (fld w 19 5)) (BitVec.ofNat 5 (fld w 14 5)) (BitVec.ofNat 5 (fld w 9 5)) (BitVec.ofNat 2 (fld w 4 2)) (BitVec.ofNat 3 (fld w 1 3)) (fld w 0 1 == 1))
  | 1 => check [(decide (fld w 1 3 = 7), .func), (decide (fld w 31 1 ≠ 0), .convoy)] (.amoadd (BitVec.ofNat 5 (fld w 19 5)) (BitVec.ofNat 5 (fld w 14 5)) (BitVec.ofNat 5 (fld w 9 5)) (BitVec.ofNat 2 (fld w 4 2)) (BitVec.ofNat 3 (fld w 1 3)) (fld w 0 1 == 1))
  | 2 => check [(decide (fld w 1 3 = 7), .func), (decide (fld w 31 1 ≠ 0), .convoy)] (.amoand (BitVec.ofNat 5 (fld w 19 5)) (BitVec.ofNat 5 (fld w 14 5)) (BitVec.ofNat 5 (fld w 9 5)) (BitVec.ofNat 2 (fld w 4 2)) (BitVec.ofNat 3 (fld w 1 3)) (fld w 0 1 == 1))
  | 3 => check [(decide (fld w 1 3 = 7), .func), (decide (fld w 31 1 ≠ 0), .convoy)] (.amoor (BitVec.ofNat 5 (fld w 19 5)) (BitVec.ofNat 5 (fld w 14 5)) (BitVec.ofNat 5 (fld w 9 5)) (BitVec.ofNat 2 (fld w 4 2)) (BitVec.ofNat 3 (fld w 1 3)) (fld w 0 1 == 1))
  | 4 => check [(decide (fld w 1 3 = 7), .func), (decide (fld w 31 1 ≠ 0), .convoy)] (.amomax (BitVec.ofNat 5 (fld w 19 5)) (BitVec.ofNat 5 (fld w 14 5)) (BitVec.ofNat 5 (fld w 9 5)) (BitVec.ofNat 2 (fld w 4 2)) (BitVec.ofNat 3 (fld w 1 3)) (fld w 0 1 == 1))
  | 5 => check [(decide (fld w 1 3 = 7), .func), (decide (fld w 31 1 ≠ 0), .convoy)] (.amomin (BitVec.ofNat 5 (fld w 19 5)) (BitVec.ofNat 5 (fld w 14 5)) (BitVec.ofNat 5 (fld w 9 5)) (BitVec.ofNat 2 (fld w 4 2)) (BitVec.ofNat 3 (fld w 1 3)) (fld w 0 1 == 1))
  | 6 => check [(decide (fld w 1 3 = 7), .func), (decide (fld w 31 1 ≠ 0), .convoy)] (.amocas (BitVec.ofNat 5 (fld w 19 5)) (BitVec.ofNat 5 (fld w 14 5)) (BitVec.ofNat 5 (fld w 9 5)) (BitVec.ofNat 2 (fld w 4 2)) (BitVec.ofNat 3 (fld w 1 3)) (fld w 0 1 == 1))
  | _ => .error .func

/-- OP 0x1E. -/
def decOp1E (w : Nat) : Except DecErr Instr :=
  match fld w 12 2 with
  | 0 => check [(decide (fld w 14 5 ≠ 0), .field), (decide (fld w 31 1 ≠ 0), .convoy)] (.csrrd (BitVec.ofNat 5 (fld w 19 5)) (BitVec.ofNat 12 (fld w 0 12)))
  | 1 => check [(decide (fld w 31 1 ≠ 0), .convoy)] (.csrwr (BitVec.ofNat 5 (fld w 19 5)) (BitVec.ofNat 5 (fld w 14 5)) (BitVec.ofNat 12 (fld w 0 12)))
  | 2 => check [(decide (fld w 31 1 ≠ 0), .convoy)] (.csrset (BitVec.ofNat 5 (fld w 19 5)) (BitVec.ofNat 5 (fld w 14 5)) (BitVec.ofNat 12 (fld w 0 12)))
  | 3 => check [(decide (fld w 31 1 ≠ 0), .convoy)] (.csrclr (BitVec.ofNat 5 (fld w 19 5)) (BitVec.ofNat 5 (fld w 14 5)) (BitVec.ofNat 12 (fld w 0 12)))
  | _ => .error .func

/-- OP 0x1F. -/
def decOp1F (w : Nat) : Except DecErr Instr :=
  match fld w 6 3 with
  | 0 => check [(decide (fld w 3 3 = 7), .func), (decide (fld w 9 10 ≠ 0), .field), (decide (fld w 0 3 ≠ 0), .field), (decide (fld w 19 5 = 0), .field), (decide (fld w 31 1 ≠ 0), .convoy)] (.fence (BitVec.ofNat 5 (fld w 19 5)) (BitVec.ofNat 3 (fld w 3 3)))
  | 1 => check [(decide (fld w 19 5 ≠ 0), .field), (decide (fld w 0 6 ≠ 0), .field), (decide (fld w 31 1 ≠ 0), .convoy)] (.sys (BitVec.ofNat 10 (fld w 9 10)))
  | 2 => check [(decide (fld w 9 15 ≠ 0), .field), (decide (fld w 0 6 ≠ 0), .field), (decide (fld w 31 1 ≠ 0), .convoy)] (.eret )
  | 3 => check [(decide (fld w 19 5 ≠ 0), .field), (decide (fld w 0 6 ≠ 0), .field), (decide (fld w 31 1 ≠ 0), .convoy)] (.brk (BitVec.ofNat 10 (fld w 9 10)))
  | 4 => check [(decide (fld w 9 15 ≠ 0), .field), (decide (fld w 0 6 ≠ 0), .field), (decide (fld w 31 1 ≠ 0), .convoy)] (.wfe )
  | _ => .error .func

/-- OP 0x20. -/
def decOp20 (w : Nat) : Except DecErr Instr :=
  match fld w 0 9 with
  | 0 => check [(decide (fld w 9 5 ≠ 0), .field)] (.setvl (fld w 31 1 == 1) (BitVec.ofNat 5 (fld w 19 5)) (BitVec.ofNat 5 (fld w 14 5)))
  | _ => .error .func

/-- OP 0x21. -/
def decOp21 (w : Nat) : Except DecErr Instr :=
  match fld w 0 1 with
  | 0 => check [(decide (fld w 1 7 ≠ 0), .field)] (.setvt (fld w 31 1 == 1) (BitVec.ofNat 16 (fld w 8 16)))
  | 1 => check [(decide (fld w 1 18 ≠ 0), .field)] (.setvtReg (fld w 31 1 == 1) (BitVec.ofNat 5 (fld w 19 5)))
  | _ => .error .func

/-- OP 0x22. -/
def decOp22 (w : Nat) : Except DecErr Instr :=
  match fld w 0 2 with
  | 0 => check [(decide (fld w 18 6 ≠ 0), .field), (decide (fld w 6 6 ≠ 0), .field), (decide (fld w 2 4 ≤ 11), .field), (decide (48 ≤ fld w 12 6), .reg), (decide (fld w 2 4 ≠ 15), .mask)] (.setsv (fld w 31 1 == 1) (BitVec.ofNat 6 (fld w 12 6)))
  | 1 => check [(decide (fld w 6 18 ≠ 0), .field), (decide (fld w 2 4 ≤ 11), .field), (decide (fld w 2 4 ≠ 15), .mask)] (.setsvOff (fld w 31 1 == 1))
  | _ => .error .func

/-- OP 0x23. -/
def decOp23 (w : Nat) : Except DecErr Instr :=
  match fld w 0 2 with
  | 0 => check [(decide (48 ≤ fld w 18 6), .reg), (decide (48 ≤ fld w 12 6), .reg), (decide (48 ≤ fld w 6 6), .reg), (decide (12 ≤ fld w 2 4 ∧ fld w 2 4 ≤ 14), .mask)] (.vadd (fld w 31 1 == 1) (BitVec.ofNat 6 (fld w 18 6)) (BitVec.ofNat 6 (fld w 12 6)) (BitVec.ofNat 6 (fld w 6 6)) (BitVec.ofNat 4 (fld w 2 4)))
  | 1 => check [(decide (48 ≤ fld w 18 6), .reg), (decide (48 ≤ fld w 12 6), .reg), (decide (48 ≤ fld w 6 6), .reg), (decide (12 ≤ fld w 2 4 ∧ fld w 2 4 ≤ 14), .mask)] (.vsub (fld w 31 1 == 1) (BitVec.ofNat 6 (fld w 18 6)) (BitVec.ofNat 6 (fld w 12 6)) (BitVec.ofNat 6 (fld w 6 6)) (BitVec.ofNat 4 (fld w 2 4)))
  | 2 => check [(decide (48 ≤ fld w 18 6), .reg), (decide (48 ≤ fld w 12 6), .reg), (decide (48 ≤ fld w 6 6), .reg), (decide (12 ≤ fld w 2 4 ∧ fld w 2 4 ≤ 14), .mask)] (.vmul (fld w 31 1 == 1) (BitVec.ofNat 6 (fld w 18 6)) (BitVec.ofNat 6 (fld w 12 6)) (BitVec.ofNat 6 (fld w 6 6)) (BitVec.ofNat 4 (fld w 2 4)))
  | 3 => check [(decide (48 ≤ fld w 18 6), .reg), (decide (48 ≤ fld w 12 6), .reg), (decide (48 ≤ fld w 6 6), .reg), (decide (12 ≤ fld w 2 4 ∧ fld w 2 4 ≤ 14), .mask)] (.vdiv (fld w 31 1 == 1) (BitVec.ofNat 6 (fld w 18 6)) (BitVec.ofNat 6 (fld w 12 6)) (BitVec.ofNat 6 (fld w 6 6)) (BitVec.ofNat 4 (fld w 2 4)))
  | _ => .error .func

/-- OP 0x24. -/
def decOp24 (w : Nat) : Except DecErr Instr :=
  match fld w 0 2 with
  | 0 => check [(decide (48 ≤ fld w 18 6), .reg), (decide (48 ≤ fld w 12 6), .reg), (decide (48 ≤ fld w 6 6), .reg), (decide (12 ≤ fld w 2 4 ∧ fld w 2 4 ≤ 14), .mask)] (.vmin (fld w 31 1 == 1) (BitVec.ofNat 6 (fld w 18 6)) (BitVec.ofNat 6 (fld w 12 6)) (BitVec.ofNat 6 (fld w 6 6)) (BitVec.ofNat 4 (fld w 2 4)))
  | 1 => check [(decide (48 ≤ fld w 18 6), .reg), (decide (48 ≤ fld w 12 6), .reg), (decide (48 ≤ fld w 6 6), .reg), (decide (12 ≤ fld w 2 4 ∧ fld w 2 4 ≤ 14), .mask)] (.vmax (fld w 31 1 == 1) (BitVec.ofNat 6 (fld w 18 6)) (BitVec.ofNat 6 (fld w 12 6)) (BitVec.ofNat 6 (fld w 6 6)) (BitVec.ofNat 4 (fld w 2 4)))
  | 2 => check [(decide (48 ≤ fld w 18 6), .reg), (decide (48 ≤ fld w 12 6), .reg), (decide (48 ≤ fld w 6 6), .reg), (decide (12 ≤ fld w 2 4 ∧ fld w 2 4 ≤ 14), .mask)] (.vmulh (fld w 31 1 == 1) (BitVec.ofNat 6 (fld w 18 6)) (BitVec.ofNat 6 (fld w 12 6)) (BitVec.ofNat 6 (fld w 6 6)) (BitVec.ofNat 4 (fld w 2 4)))
  | 3 => check [(decide (48 ≤ fld w 18 6), .reg), (decide (48 ≤ fld w 12 6), .reg), (decide (48 ≤ fld w 6 6), .reg), (decide (12 ≤ fld w 2 4 ∧ fld w 2 4 ≤ 14), .mask)] (.vabsd (fld w 31 1 == 1) (BitVec.ofNat 6 (fld w 18 6)) (BitVec.ofNat 6 (fld w 12 6)) (BitVec.ofNat 6 (fld w 6 6)) (BitVec.ofNat 4 (fld w 2 4)))
  | _ => .error .func

/-- OP 0x25. -/
def decOp25 (w : Nat) : Except DecErr Instr :=
  match fld w 0 2 with
  | 0 => check [(decide (48 ≤ fld w 18 6), .reg), (decide (48 ≤ fld w 12 6), .reg), (decide (48 ≤ fld w 6 6), .reg), (decide (12 ≤ fld w 2 4 ∧ fld w 2 4 ≤ 14), .mask)] (.vand (fld w 31 1 == 1) (BitVec.ofNat 6 (fld w 18 6)) (BitVec.ofNat 6 (fld w 12 6)) (BitVec.ofNat 6 (fld w 6 6)) (BitVec.ofNat 4 (fld w 2 4)))
  | 1 => check [(decide (48 ≤ fld w 18 6), .reg), (decide (48 ≤ fld w 12 6), .reg), (decide (48 ≤ fld w 6 6), .reg), (decide (12 ≤ fld w 2 4 ∧ fld w 2 4 ≤ 14), .mask)] (.vor (fld w 31 1 == 1) (BitVec.ofNat 6 (fld w 18 6)) (BitVec.ofNat 6 (fld w 12 6)) (BitVec.ofNat 6 (fld w 6 6)) (BitVec.ofNat 4 (fld w 2 4)))
  | 2 => check [(decide (48 ≤ fld w 18 6), .reg), (decide (48 ≤ fld w 12 6), .reg), (decide (48 ≤ fld w 6 6), .reg), (decide (12 ≤ fld w 2 4 ∧ fld w 2 4 ≤ 14), .mask)] (.vxor (fld w 31 1 == 1) (BitVec.ofNat 6 (fld w 18 6)) (BitVec.ofNat 6 (fld w 12 6)) (BitVec.ofNat 6 (fld w 6 6)) (BitVec.ofNat 4 (fld w 2 4)))
  | _ => .error .func

/-- OP 0x26. -/
def decOp26 (w : Nat) : Except DecErr Instr :=
  match fld w 0 2 with
  | 0 => check [(decide (48 ≤ fld w 18 6), .reg), (decide (48 ≤ fld w 12 6), .reg), (decide (48 ≤ fld w 6 6), .reg), (decide (12 ≤ fld w 2 4 ∧ fld w 2 4 ≤ 14), .mask)] (.vsll (fld w 31 1 == 1) (BitVec.ofNat 6 (fld w 18 6)) (BitVec.ofNat 6 (fld w 12 6)) (BitVec.ofNat 6 (fld w 6 6)) (BitVec.ofNat 4 (fld w 2 4)))
  | 1 => check [(decide (48 ≤ fld w 18 6), .reg), (decide (48 ≤ fld w 12 6), .reg), (decide (48 ≤ fld w 6 6), .reg), (decide (12 ≤ fld w 2 4 ∧ fld w 2 4 ≤ 14), .mask)] (.vsrl (fld w 31 1 == 1) (BitVec.ofNat 6 (fld w 18 6)) (BitVec.ofNat 6 (fld w 12 6)) (BitVec.ofNat 6 (fld w 6 6)) (BitVec.ofNat 4 (fld w 2 4)))
  | 2 => check [(decide (48 ≤ fld w 18 6), .reg), (decide (48 ≤ fld w 12 6), .reg), (decide (48 ≤ fld w 6 6), .reg), (decide (12 ≤ fld w 2 4 ∧ fld w 2 4 ≤ 14), .mask)] (.vsra (fld w 31 1 == 1) (BitVec.ofNat 6 (fld w 18 6)) (BitVec.ofNat 6 (fld w 12 6)) (BitVec.ofNat 6 (fld w 6 6)) (BitVec.ofNat 4 (fld w 2 4)))
  | _ => .error .func

/-- OP 0x27. -/
def decOp27 (w : Nat) : Except DecErr Instr :=
  match fld w 0 2 with
  | 0 => check [(decide (48 ≤ fld w 18 6), .reg), (decide (48 ≤ fld w 12 6), .reg), (decide (12 ≤ fld w 2 4 ∧ fld w 2 4 ≤ 14), .mask)] (.vaddi (fld w 31 1 == 1) (BitVec.ofNat 6 (fld w 18 6)) (BitVec.ofNat 6 (fld w 12 6)) (BitVec.ofNat 6 (fld w 6 6)) (BitVec.ofNat 4 (fld w 2 4)))
  | 1 => check [(decide (48 ≤ fld w 18 6), .reg), (decide (48 ≤ fld w 12 6), .reg), (decide (12 ≤ fld w 2 4 ∧ fld w 2 4 ≤ 14), .mask)] (.vslli (fld w 31 1 == 1) (BitVec.ofNat 6 (fld w 18 6)) (BitVec.ofNat 6 (fld w 12 6)) (BitVec.ofNat 6 (fld w 6 6)) (BitVec.ofNat 4 (fld w 2 4)))
  | 2 => check [(decide (48 ≤ fld w 18 6), .reg), (decide (48 ≤ fld w 12 6), .reg), (decide (12 ≤ fld w 2 4 ∧ fld w 2 4 ≤ 14), .mask)] (.vsrli (fld w 31 1 == 1) (BitVec.ofNat 6 (fld w 18 6)) (BitVec.ofNat 6 (fld w 12 6)) (BitVec.ofNat 6 (fld w 6 6)) (BitVec.ofNat 4 (fld w 2 4)))
  | 3 => check [(decide (48 ≤ fld w 18 6), .reg), (decide (48 ≤ fld w 12 6), .reg), (decide (12 ≤ fld w 2 4 ∧ fld w 2 4 ≤ 14), .mask)] (.vsrai (fld w 31 1 == 1) (BitVec.ofNat 6 (fld w 18 6)) (BitVec.ofNat 6 (fld w 12 6)) (BitVec.ofNat 6 (fld w 6 6)) (BitVec.ofNat 4 (fld w 2 4)))
  | _ => .error .func

/-- OP 0x28. -/
def decOp28 (w : Nat) : Except DecErr Instr :=
  check [(decide (fld w 0 6 / 8 % 4 = 2 ∧ fld w 0 6 % 8 ≠ 0), .field), (decide (48 ≤ fld w 18 6), .reg), (decide (48 ≤ fld w 12 6), .reg), (decide (48 ≤ fld w 6 6), .reg)] (.vaddVx (fld w 31 1 == 1) (BitVec.ofNat 6 (fld w 18 6)) (BitVec.ofNat 6 (fld w 12 6)) (BitVec.ofNat 6 (fld w 6 6)) (BitVec.ofNat 6 (fld w 0 6)))

/-- OP 0x29. -/
def decOp29 (w : Nat) : Except DecErr Instr :=
  check [(decide (fld w 0 6 / 8 % 4 = 2 ∧ fld w 0 6 % 8 ≠ 0), .field), (decide (48 ≤ fld w 18 6), .reg), (decide (48 ≤ fld w 12 6), .reg), (decide (48 ≤ fld w 6 6), .reg)] (.vsubVx (fld w 31 1 == 1) (BitVec.ofNat 6 (fld w 18 6)) (BitVec.ofNat 6 (fld w 12 6)) (BitVec.ofNat 6 (fld w 6 6)) (BitVec.ofNat 6 (fld w 0 6)))

/-- OP 0x2A. -/
def decOp2A (w : Nat) : Except DecErr Instr :=
  check [(decide (fld w 0 6 / 8 % 4 = 2 ∧ fld w 0 6 % 8 ≠ 0), .field), (decide (48 ≤ fld w 18 6), .reg), (decide (48 ≤ fld w 12 6), .reg), (decide (48 ≤ fld w 6 6), .reg)] (.vmulVx (fld w 31 1 == 1) (BitVec.ofNat 6 (fld w 18 6)) (BitVec.ofNat 6 (fld w 12 6)) (BitVec.ofNat 6 (fld w 6 6)) (BitVec.ofNat 6 (fld w 0 6)))

/-- OP 0x2B. -/
def decOp2B (w : Nat) : Except DecErr Instr :=
  check [(decide (fld w 0 6 / 8 % 4 = 2 ∧ fld w 0 6 % 8 ≠ 0), .field), (decide (48 ≤ fld w 18 6), .reg), (decide (48 ≤ fld w 12 6), .reg), (decide (48 ≤ fld w 6 6), .reg)] (.vminVx (fld w 31 1 == 1) (BitVec.ofNat 6 (fld w 18 6)) (BitVec.ofNat 6 (fld w 12 6)) (BitVec.ofNat 6 (fld w 6 6)) (BitVec.ofNat 6 (fld w 0 6)))

/-- OP 0x2C. -/
def decOp2C (w : Nat) : Except DecErr Instr :=
  check [(decide (fld w 0 6 / 8 % 4 = 2 ∧ fld w 0 6 % 8 ≠ 0), .field), (decide (48 ≤ fld w 18 6), .reg), (decide (48 ≤ fld w 12 6), .reg), (decide (48 ≤ fld w 6 6), .reg)] (.vmaxVx (fld w 31 1 == 1) (BitVec.ofNat 6 (fld w 18 6)) (BitVec.ofNat 6 (fld w 12 6)) (BitVec.ofNat 6 (fld w 6 6)) (BitVec.ofNat 6 (fld w 0 6)))

/-- OP 0x2D. -/
def decOp2D (w : Nat) : Except DecErr Instr :=
  match fld w 0 2 with
  | 0 => check [(decide (48 ≤ fld w 18 6), .reg), (decide (48 ≤ fld w 12 6), .reg), (decide (48 ≤ fld w 6 6), .reg), (decide (12 ≤ fld w 2 4 ∧ fld w 2 4 ≤ 14), .mask)] (.vfma (fld w 31 1 == 1) (BitVec.ofNat 6 (fld w 18 6)) (BitVec.ofNat 6 (fld w 12 6)) (BitVec.ofNat 6 (fld w 6 6)) (BitVec.ofNat 4 (fld w 2 4)))
  | 1 => check [(decide (48 ≤ fld w 18 6), .reg), (decide (48 ≤ fld w 12 6), .reg), (decide (48 ≤ fld w 6 6), .reg), (decide (12 ≤ fld w 2 4 ∧ fld w 2 4 ≤ 14), .mask)] (.vfms (fld w 31 1 == 1) (BitVec.ofNat 6 (fld w 18 6)) (BitVec.ofNat 6 (fld w 12 6)) (BitVec.ofNat 6 (fld w 6 6)) (BitVec.ofNat 4 (fld w 2 4)))
  | 2 => check [(decide (48 ≤ fld w 18 6), .reg), (decide (48 ≤ fld w 12 6), .reg), (decide (48 ≤ fld w 6 6), .reg), (decide (12 ≤ fld w 2 4 ∧ fld w 2 4 ≤ 14), .mask)] (.vfnma (fld w 31 1 == 1) (BitVec.ofNat 6 (fld w 18 6)) (BitVec.ofNat 6 (fld w 12 6)) (BitVec.ofNat 6 (fld w 6 6)) (BitVec.ofNat 4 (fld w 2 4)))
  | 3 => check [(decide (48 ≤ fld w 18 6), .reg), (decide (48 ≤ fld w 12 6), .reg), (decide (48 ≤ fld w 6 6), .reg), (decide (12 ≤ fld w 2 4 ∧ fld w 2 4 ≤ 14), .mask)] (.vfnms (fld w 31 1 == 1) (BitVec.ofNat 6 (fld w 18 6)) (BitVec.ofNat 6 (fld w 12 6)) (BitVec.ofNat 6 (fld w 6 6)) (BitVec.ofNat 4 (fld w 2 4)))
  | _ => .error .func

/-- OP 0x2E. -/
def decOp2E (w : Nat) : Except DecErr Instr :=
  match fld w 0 2 with
  | 0 => check [(decide (fld w 6 6 ≠ 0), .field), (decide (48 ≤ fld w 18 6), .reg), (decide (48 ≤ fld w 12 6), .reg), (decide (12 ≤ fld w 2 4 ∧ fld w 2 4 ≤ 14), .mask)] (.vrec (fld w 31 1 == 1) (BitVec.ofNat 6 (fld w 18 6)) (BitVec.ofNat 6 (fld w 12 6)) (BitVec.ofNat 4 (fld w 2 4)))
  | 1 => check [(decide (fld w 6 6 ≠ 0), .field), (decide (48 ≤ fld w 18 6), .reg), (decide (48 ≤ fld w 12 6), .reg), (decide (12 ≤ fld w 2 4 ∧ fld w 2 4 ≤ 14), .mask)] (.vrsq (fld w 31 1 == 1) (BitVec.ofNat 6 (fld w 18 6)) (BitVec.ofNat 6 (fld w 12 6)) (BitVec.ofNat 4 (fld w 2 4)))
  | 2 => check [(decide (fld w 6 6 ≠ 0), .field), (decide (48 ≤ fld w 18 6), .reg), (decide (48 ≤ fld w 12 6), .reg), (decide (12 ≤ fld w 2 4 ∧ fld w 2 4 ≤ 14), .mask)] (.vfexp2 (fld w 31 1 == 1) (BitVec.ofNat 6 (fld w 18 6)) (BitVec.ofNat 6 (fld w 12 6)) (BitVec.ofNat 4 (fld w 2 4)))
  | 3 => check [(decide (fld w 6 6 ≠ 0), .field), (decide (48 ≤ fld w 18 6), .reg), (decide (48 ≤ fld w 12 6), .reg), (decide (12 ≤ fld w 2 4 ∧ fld w 2 4 ≤ 14), .mask)] (.vabs (fld w 31 1 == 1) (BitVec.ofNat 6 (fld w 18 6)) (BitVec.ofNat 6 (fld w 12 6)) (BitVec.ofNat 4 (fld w 2 4)))
  | _ => .error .func

/-- OP 0x2F. -/
def decOp2F (w : Nat) : Except DecErr Instr :=
  match fld w 0 2 with
  | 0 => check [(decide (fld w 6 6 ≠ 0), .field), (decide (48 ≤ fld w 18 6), .reg), (decide (48 ≤ fld w 12 6), .reg), (decide (12 ≤ fld w 2 4 ∧ fld w 2 4 ≤ 14), .mask)] (.vneg (fld w 31 1 == 1) (BitVec.ofNat 6 (fld w 18 6)) (BitVec.ofNat 6 (fld w 12 6)) (BitVec.ofNat 4 (fld w 2 4)))
  | 1 => check [(decide (fld w 6 6 ≠ 0), .field), (decide (48 ≤ fld w 18 6), .reg), (decide (48 ≤ fld w 12 6), .reg), (decide (12 ≤ fld w 2 4 ∧ fld w 2 4 ≤ 14), .mask)] (.vnot (fld w 31 1 == 1) (BitVec.ofNat 6 (fld w 18 6)) (BitVec.ofNat 6 (fld w 12 6)) (BitVec.ofNat 4 (fld w 2 4)))
  | 2 => check [(decide (fld w 6 6 ≠ 0), .field), (decide (48 ≤ fld w 18 6), .reg), (decide (48 ≤ fld w 12 6), .reg), (decide (12 ≤ fld w 2 4 ∧ fld w 2 4 ≤ 14), .mask)] (.vclz (fld w 31 1 == 1) (BitVec.ofNat 6 (fld w 18 6)) (BitVec.ofNat 6 (fld w 12 6)) (BitVec.ofNat 4 (fld w 2 4)))
  | 3 => check [(decide (fld w 6 6 ≠ 0), .field), (decide (48 ≤ fld w 18 6), .reg), (decide (48 ≤ fld w 12 6), .reg), (decide (12 ≤ fld w 2 4 ∧ fld w 2 4 ≤ 14), .mask)] (.vpopc (fld w 31 1 == 1) (BitVec.ofNat 6 (fld w 18 6)) (BitVec.ofNat 6 (fld w 12 6)) (BitVec.ofNat 4 (fld w 2 4)))
  | _ => .error .func

/-- OP 0x30. -/
def decOp30 (w : Nat) : Except DecErr Instr :=
  match fld w 0 2 with
  | 0 => check [(decide (fmtClassN (fld w 6 6) = false), .field), (decide (48 ≤ fld w 18 6), .reg), (decide (48 ≤ fld w 12 6), .reg), (decide (12 ≤ fld w 2 4 ∧ fld w 2 4 ≤ 14), .mask)] (.vcvt (fld w 31 1 == 1) (BitVec.ofNat 6 (fld w 18 6)) (BitVec.ofNat 6 (fld w 12 6)) (BitVec.ofNat 6 (fld w 6 6)) (BitVec.ofNat 4 (fld w 2 4)))
  | 1 => check [(decide (fmtClassN (fld w 6 6) = false), .field), (decide (48 ≤ fld w 18 6), .reg), (decide (48 ≤ fld w 12 6), .reg), (decide (12 ≤ fld w 2 4 ∧ fld w 2 4 ≤ 14), .mask)] (.vwiden (fld w 31 1 == 1) (BitVec.ofNat 6 (fld w 18 6)) (BitVec.ofNat 6 (fld w 12 6)) (BitVec.ofNat 6 (fld w 6 6)) (BitVec.ofNat 4 (fld w 2 4)))
  | 2 => check [(decide (fmtClassN (fld w 6 6) = false), .field), (decide (48 ≤ fld w 18 6), .reg), (decide (48 ≤ fld w 12 6), .reg), (decide (12 ≤ fld w 2 4 ∧ fld w 2 4 ≤ 14), .mask)] (.vnarrow (fld w 31 1 == 1) (BitVec.ofNat 6 (fld w 18 6)) (BitVec.ofNat 6 (fld w 12 6)) (BitVec.ofNat 6 (fld w 6 6)) (BitVec.ofNat 4 (fld w 2 4)))
  | _ => .error .func

/-- OP 0x31. -/
def decOp31 (w : Nat) : Except DecErr Instr :=
  match fld w 0 2 with
  | 0 => check [(decide (fld w 2 4 ≤ 11), .field), (decide (fmtClassN (fld w 6 6) = false), .field), (decide (48 ≤ fld w 18 6), .reg), (decide (48 ≤ fld w 12 6), .reg), (decide (fld w 2 4 ≠ 15), .mask)] (.vquant (fld w 31 1 == 1) (BitVec.ofNat 6 (fld w 18 6)) (BitVec.ofNat 6 (fld w 12 6)) (BitVec.ofNat 6 (fld w 6 6)))
  | 1 => check [(decide (¬ (14 ≤ fld w 6 6 ∧ fld w 6 6 ≤ 27)), .field), (decide (48 ≤ fld w 18 6), .reg), (decide (48 ≤ fld w 12 6), .reg), (decide (12 ≤ fld w 2 4 ∧ fld w 2 4 ≤ 14), .mask)] (.vdeq (fld w 31 1 == 1) (BitVec.ofNat 6 (fld w 18 6)) (BitVec.ofNat 6 (fld w 12 6)) (BitVec.ofNat 6 (fld w 6 6)) (BitVec.ofNat 4 (fld w 2 4)))
  | _ => .error .func

/-- OP 0x32. -/
def decOp32 (w : Nat) : Except DecErr Instr :=
  match fld w 0 2 with
  | 0 => check [(decide (12 ≤ fld w 18 6), .reg), (decide (48 ≤ fld w 12 6), .reg), (decide (48 ≤ fld w 6 6), .reg), (decide (12 ≤ fld w 2 4 ∧ fld w 2 4 ≤ 14), .mask)] (.vcmpEq (fld w 31 1 == 1) (BitVec.ofNat 6 (fld w 18 6)) (BitVec.ofNat 6 (fld w 12 6)) (BitVec.ofNat 6 (fld w 6 6)) (BitVec.ofNat 4 (fld w 2 4)))
  | 1 => check [(decide (12 ≤ fld w 18 6), .reg), (decide (48 ≤ fld w 12 6), .reg), (decide (48 ≤ fld w 6 6), .reg), (decide (12 ≤ fld w 2 4 ∧ fld w 2 4 ≤ 14), .mask)] (.vcmpNe (fld w 31 1 == 1) (BitVec.ofNat 6 (fld w 18 6)) (BitVec.ofNat 6 (fld w 12 6)) (BitVec.ofNat 6 (fld w 6 6)) (BitVec.ofNat 4 (fld w 2 4)))
  | 2 => check [(decide (12 ≤ fld w 18 6), .reg), (decide (48 ≤ fld w 12 6), .reg), (decide (48 ≤ fld w 6 6), .reg), (decide (12 ≤ fld w 2 4 ∧ fld w 2 4 ≤ 14), .mask)] (.vcmpLt (fld w 31 1 == 1) (BitVec.ofNat 6 (fld w 18 6)) (BitVec.ofNat 6 (fld w 12 6)) (BitVec.ofNat 6 (fld w 6 6)) (BitVec.ofNat 4 (fld w 2 4)))
  | 3 => check [(decide (12 ≤ fld w 18 6), .reg), (decide (48 ≤ fld w 12 6), .reg), (decide (48 ≤ fld w 6 6), .reg), (decide (12 ≤ fld w 2 4 ∧ fld w 2 4 ≤ 14), .mask)] (.vcmpLe (fld w 31 1 == 1) (BitVec.ofNat 6 (fld w 18 6)) (BitVec.ofNat 6 (fld w 12 6)) (BitVec.ofNat 6 (fld w 6 6)) (BitVec.ofNat 4 (fld w 2 4)))
  | _ => .error .func

/-- OP 0x33. -/
def decOp33 (w : Nat) : Except DecErr Instr :=
  match fld w 0 2 with
  | 0 => check [(decide (12 ≤ fld w 18 6), .reg), (decide (48 ≤ fld w 12 6), .reg), (decide (12 ≤ fld w 2 4 ∧ fld w 2 4 ≤ 14), .mask)] (.vcmpiEq (fld w 31 1 == 1) (BitVec.ofNat 6 (fld w 18 6)) (BitVec.ofNat 6 (fld w 12 6)) (BitVec.ofNat 6 (fld w 6 6)) (BitVec.ofNat 4 (fld w 2 4)))
  | 1 => check [(decide (12 ≤ fld w 18 6), .reg), (decide (48 ≤ fld w 12 6), .reg), (decide (12 ≤ fld w 2 4 ∧ fld w 2 4 ≤ 14), .mask)] (.vcmpiNe (fld w 31 1 == 1) (BitVec.ofNat 6 (fld w 18 6)) (BitVec.ofNat 6 (fld w 12 6)) (BitVec.ofNat 6 (fld w 6 6)) (BitVec.ofNat 4 (fld w 2 4)))
  | 2 => check [(decide (12 ≤ fld w 18 6), .reg), (decide (48 ≤ fld w 12 6), .reg), (decide (12 ≤ fld w 2 4 ∧ fld w 2 4 ≤ 14), .mask)] (.vcmpiLt (fld w 31 1 == 1) (BitVec.ofNat 6 (fld w 18 6)) (BitVec.ofNat 6 (fld w 12 6)) (BitVec.ofNat 6 (fld w 6 6)) (BitVec.ofNat 4 (fld w 2 4)))
  | 3 => check [(decide (12 ≤ fld w 18 6), .reg), (decide (48 ≤ fld w 12 6), .reg), (decide (12 ≤ fld w 2 4 ∧ fld w 2 4 ≤ 14), .mask)] (.vcmpiGt (fld w 31 1 == 1) (BitVec.ofNat 6 (fld w 18 6)) (BitVec.ofNat 6 (fld w 12 6)) (BitVec.ofNat 6 (fld w 6 6)) (BitVec.ofNat 4 (fld w 2 4)))
  | _ => .error .func

/-- OP 0x34. -/
def decOp34 (w : Nat) : Except DecErr Instr :=
  match fld w 0 2 with
  | 0 => check [(decide (fld w 2 4 ≤ 11), .field), (decide (12 ≤ fld w 18 6), .reg), (decide (12 ≤ fld w 12 6), .reg), (decide (12 ≤ fld w 6 6), .reg), (decide (fld w 2 4 ≠ 15), .mask)] (.mand (fld w 31 1 == 1) (BitVec.ofNat 6 (fld w 18 6)) (BitVec.ofNat 6 (fld w 12 6)) (BitVec.ofNat 6 (fld w 6 6)))
  | 1 => check [(decide (fld w 2 4 ≤ 11), .field), (decide (12 ≤ fld w 18 6), .reg), (decide (12 ≤ fld w 12 6), .reg), (decide (12 ≤ fld w 6 6), .reg), (decide (fld w 2 4 ≠ 15), .mask)] (.mor (fld w 31 1 == 1) (BitVec.ofNat 6 (fld w 18 6)) (BitVec.ofNat 6 (fld w 12 6)) (BitVec.ofNat 6 (fld w 6 6)))
  | 2 => check [(decide (fld w 2 4 ≤ 11), .field), (decide (12 ≤ fld w 18 6), .reg), (decide (12 ≤ fld w 12 6), .reg), (decide (12 ≤ fld w 6 6), .reg), (decide (fld w 2 4 ≠ 15), .mask)] (.mxor (fld w 31 1 == 1) (BitVec.ofNat 6 (fld w 18 6)) (BitVec.ofNat 6 (fld w 12 6)) (BitVec.ofNat 6 (fld w 6 6)))
  | 3 => check [(decide (fld w 2 4 ≤ 11), .field), (decide (12 ≤ fld w 18 6), .reg), (decide (12 ≤ fld w 12 6), .reg), (decide (12 ≤ fld w 6 6), .reg), (decide (fld w 2 4 ≠ 15), .mask)] (.mandn (fld w 31 1 == 1) (BitVec.ofNat 6 (fld w 18 6)) (BitVec.ofNat 6 (fld w 12 6)) (BitVec.ofNat 6 (fld w 6 6)))
  | _ => .error .func

/-- OP 0x35. -/
def decOp35 (w : Nat) : Except DecErr Instr :=
  match fld w 0 2 with
  | 0 => check [(decide (fld w 6 6 ≠ 0), .field), (decide (fld w 2 4 ≤ 11), .field), (decide (32 ≤ fld w 18 6), .reg), (decide (12 ≤ fld w 12 6), .reg), (decide (fld w 2 4 ≠ 15), .mask)] (.mpop (fld w 31 1 == 1) (BitVec.ofNat 6 (fld w 18 6)) (BitVec.ofNat 6 (fld w 12 6)))
  | 1 => check [(decide (fld w 6 6 ≠ 0), .field), (decide (fld w 2 4 ≤ 11), .field), (decide (32 ≤ fld w 18 6), .reg), (decide (12 ≤ fld w 12 6), .reg), (decide (fld w 2 4 ≠ 15), .mask)] (.mfirst (fld w 31 1 == 1) (BitVec.ofNat 6 (fld w 18 6)) (BitVec.ofNat 6 (fld w 12 6)))
  | 2 => check [(decide (fld w 2 4 = 15), .field), (decide (48 ≤ fld w 18 6), .reg), (decide (48 ≤ fld w 12 6), .reg), (decide (48 ≤ fld w 6 6), .reg), (decide (12 ≤ fld w 2 4 ∧ fld w 2 4 ≤ 14), .mask)] (.vmerge (fld w 31 1 == 1) (BitVec.ofNat 6 (fld w 18 6)) (BitVec.ofNat 6 (fld w 12 6)) (BitVec.ofNat 6 (fld w 6 6)) (BitVec.ofNat 4 (fld w 2 4)))
  | 3 => check [(decide (fld w 6 12 ≠ 0), .field), (decide (48 ≤ fld w 18 6), .reg), (decide (12 ≤ fld w 2 4 ∧ fld w 2 4 ≤ 14), .mask)] (.vid (fld w 31 1 == 1) (BitVec.ofNat 6 (fld w 18 6)) (BitVec.ofNat 4 (fld w 2 4)))
  | _ => .error .func

/-- OP 0x36. -/
def decOp36 (w : Nat) : Except DecErr Instr :=
  match fld w 0 2 with
  | 0 => check [(decide (48 ≤ fld w 18 6), .reg), (decide (48 ≤ fld w 12 6), .reg), (decide (32 ≤ fld w 6 6), .reg), (decide (12 ≤ fld w 2 4 ∧ fld w 2 4 ≤ 14), .mask)] (.vcompress (fld w 31 1 == 1) (BitVec.ofNat 6 (fld w 18 6)) (BitVec.ofNat 6 (fld w 12 6)) (BitVec.ofNat 6 (fld w 6 6)) (BitVec.ofNat 4 (fld w 2 4)))
  | 1 => check [(decide (fld w 6 6 ≠ 0), .field), (decide (48 ≤ fld w 18 6), .reg), (decide (48 ≤ fld w 12 6), .reg), (decide (12 ≤ fld w 2 4 ∧ fld w 2 4 ≤ 14), .mask)] (.vexpand (fld w 31 1 == 1) (BitVec.ofNat 6 (fld w 18 6)) (BitVec.ofNat 6 (fld w 12 6)) (BitVec.ofNat 4 (fld w 2 4)))
  | 2 => check [(decide (48 ≤ fld w 18 6), .reg), (decide (48 ≤ fld w 12 6), .reg), (decide (48 ≤ fld w 6 6), .reg), (decide (12 ≤ fld w 2 4 ∧ fld w 2 4 ≤ 14), .mask)] (.vperm (fld w 31 1 == 1) (BitVec.ofNat 6 (fld w 18 6)) (BitVec.ofNat 6 (fld w 12 6)) (BitVec.ofNat 6 (fld w 6 6)) (BitVec.ofNat 4 (fld w 2 4)))
  | 3 => check [(decide (fld w 6 6 ≠ 0), .field), (decide (48 ≤ fld w 18 6), .reg), (decide (12 ≤ fld w 12 6), .reg), (decide (12 ≤ fld w 2 4 ∧ fld w 2 4 ≤ 14), .mask)] (.viota (fld w 31 1 == 1) (BitVec.ofNat 6 (fld w 18 6)) (BitVec.ofNat 6 (fld w 12 6)) (BitVec.ofNat 4 (fld w 2 4)))
  | _ => .error .func

/-- OP 0x37. -/
def decOp37 (w : Nat) : Except DecErr Instr :=
  match fld w 0 2 with
  | 0 => check [(decide (48 ≤ fld w 18 6), .reg), (decide (48 ≤ fld w 12 6), .reg), (decide (32 ≤ fld w 6 6), .reg), (decide (12 ≤ fld w 2 4 ∧ fld w 2 4 ≤ 14), .mask)] (.vslup (fld w 31 1 == 1) (BitVec.ofNat 6 (fld w 18 6)) (BitVec.ofNat 6 (fld w 12 6)) (BitVec.ofNat 6 (fld w 6 6)) (BitVec.ofNat 4 (fld w 2 4)))
  | 1 => check [(decide (48 ≤ fld w 18 6), .reg), (decide (48 ≤ fld w 12 6), .reg), (decide (32 ≤ fld w 6 6), .reg), (decide (12 ≤ fld w 2 4 ∧ fld w 2 4 ≤ 14), .mask)] (.vsldn (fld w 31 1 == 1) (BitVec.ofNat 6 (fld w 18 6)) (BitVec.ofNat 6 (fld w 12 6)) (BitVec.ofNat 6 (fld w 6 6)) (BitVec.ofNat 4 (fld w 2 4)))
  | 2 => check [(decide (fld w 12 6 ≠ 0), .field), (decide (48 ≤ fld w 18 6), .reg), (decide (32 ≤ fld w 6 6), .reg), (decide (12 ≤ fld w 2 4 ∧ fld w 2 4 ≤ 14), .mask)] (.vbcast (fld w 31 1 == 1) (BitVec.ofNat 6 (fld w 18 6)) (BitVec.ofNat 6 (fld w 6 6)) (BitVec.ofNat 4 (fld w 2 4)))
  | _ => .error .func

/-- OP 0x38. -/
def decOp38 (w : Nat) : Except DecErr Instr :=
  match fld w 0 2 with
  | 0 => check [(decide (fld w 6 6 / 8 % 4 = 2 ∧ fld w 6 6 % 8 ≠ 0), .field), (decide (48 ≤ fld w 18 6), .reg), (decide (48 ≤ fld w 12 6), .reg), (decide (12 ≤ fld w 2 4 ∧ fld w 2 4 ≤ 14), .mask)] (.vmov (fld w 31 1 == 1) (BitVec.ofNat 6 (fld w 18 6)) (BitVec.ofNat 6 (fld w 12 6)) (BitVec.ofNat 6 (fld w 6 6)) (BitVec.ofNat 4 (fld w 2 4)))
  | _ => .error .func

/-- OP 0x39. -/
def decOp39 (w : Nat) : Except DecErr Instr :=
  match fld w 0 2 with
  | 0 => check [(decide (fld w 2 4 ≤ 11), .field), (decide (48 ≤ fld w 18 6), .reg), (decide (48 ≤ fld w 12 6), .reg), (decide (32 ≤ fld w 6 6), .reg), (decide (fld w 2 4 ≠ 15), .mask)] (.vxlane (fld w 31 1 == 1) (BitVec.ofNat 6 (fld w 18 6)) (BitVec.ofNat 6 (fld w 12 6)) (BitVec.ofNat 6 (fld w 6 6)))
  | _ => .error .func

/-- OP 0x3A. -/
def decOp3A (w : Nat) : Except DecErr Instr :=
  match fld w 0 2 with
  | 0 => check [(decide (fld w 6 6 ≠ 0), .field), (decide (32 ≤ fld w 18 6), .reg), (decide (48 ≤ fld w 12 6), .reg), (decide (12 ≤ fld w 2 4 ∧ fld w 2 4 ≤ 14), .mask)] (.vredsum (fld w 31 1 == 1) (BitVec.ofNat 6 (fld w 18 6)) (BitVec.ofNat 6 (fld w 12 6)) (BitVec.ofNat 4 (fld w 2 4)))
  | 1 => check [(decide (fld w 6 6 ≠ 0), .field), (decide (32 ≤ fld w 18 6), .reg), (decide (48 ≤ fld w 12 6), .reg), (decide (12 ≤ fld w 2 4 ∧ fld w 2 4 ≤ 14), .mask)] (.vredmax (fld w 31 1 == 1) (BitVec.ofNat 6 (fld w 18 6)) (BitVec.ofNat 6 (fld w 12 6)) (BitVec.ofNat 4 (fld w 2 4)))
  | 2 => check [(decide (fld w 6 6 ≠ 0), .field), (decide (32 ≤ fld w 18 6), .reg), (decide (48 ≤ fld w 12 6), .reg), (decide (12 ≤ fld w 2 4 ∧ fld w 2 4 ≤ 14), .mask)] (.vredmin (fld w 31 1 == 1) (BitVec.ofNat 6 (fld w 18 6)) (BitVec.ofNat 6 (fld w 12 6)) (BitVec.ofNat 4 (fld w 2 4)))
  | _ => .error .func

/-- OP 0x3B. -/
def decOp3B (w : Nat) : Except DecErr Instr :=
  match fld w 0 2 with
  | 0 => check [(decide (fld w 6 6 ≠ 0), .field), (decide (32 ≤ fld w 18 6), .reg), (decide (48 ≤ fld w 12 6), .reg), (decide (12 ≤ fld w 2 4 ∧ fld w 2 4 ≤ 14), .mask)] (.vredand (fld w 31 1 == 1) (BitVec.ofNat 6 (fld w 18 6)) (BitVec.ofNat 6 (fld w 12 6)) (BitVec.ofNat 4 (fld w 2 4)))
  | 1 => check [(decide (fld w 6 6 ≠ 0), .field), (decide (32 ≤ fld w 18 6), .reg), (decide (48 ≤ fld w 12 6), .reg), (decide (12 ≤ fld w 2 4 ∧ fld w 2 4 ≤ 14), .mask)] (.vredor (fld w 31 1 == 1) (BitVec.ofNat 6 (fld w 18 6)) (BitVec.ofNat 6 (fld w 12 6)) (BitVec.ofNat 4 (fld w 2 4)))
  | 2 => check [(decide (fld w 6 6 ≠ 0), .field), (decide (32 ≤ fld w 18 6), .reg), (decide (48 ≤ fld w 12 6), .reg), (decide (12 ≤ fld w 2 4 ∧ fld w 2 4 ≤ 14), .mask)] (.vredxor (fld w 31 1 == 1) (BitVec.ofNat 6 (fld w 18 6)) (BitVec.ofNat 6 (fld w 12 6)) (BitVec.ofNat 4 (fld w 2 4)))
  | _ => .error .func

/-- OP 0x3C. -/
def decOp3C (w : Nat) : Except DecErr Instr :=
  match fld w 0 2 with
  | 0 => check [(decide (fld w 6 6 ≠ 0), .field), (decide (48 ≤ fld w 18 6), .reg), (decide (48 ≤ fld w 12 6), .reg), (decide (12 ≤ fld w 2 4 ∧ fld w 2 4 ≤ 14), .mask)] (.vscansum (fld w 31 1 == 1) (BitVec.ofNat 6 (fld w 18 6)) (BitVec.ofNat 6 (fld w 12 6)) (BitVec.ofNat 4 (fld w 2 4)))
  | 1 => check [(decide (fld w 6 6 ≠ 0), .field), (decide (48 ≤ fld w 18 6), .reg), (decide (48 ≤ fld w 12 6), .reg), (decide (12 ≤ fld w 2 4 ∧ fld w 2 4 ≤ 14), .mask)] (.vscanmax (fld w 31 1 == 1) (BitVec.ofNat 6 (fld w 18 6)) (BitVec.ofNat 6 (fld w 12 6)) (BitVec.ofNat 4 (fld w 2 4)))
  | 2 => check [(decide (fld w 6 6 ≠ 0), .field), (decide (48 ≤ fld w 18 6), .reg), (decide (48 ≤ fld w 12 6), .reg), (decide (12 ≤ fld w 2 4 ∧ fld w 2 4 ≤ 14), .mask)] (.vscanmin (fld w 31 1 == 1) (BitVec.ofNat 6 (fld w 18 6)) (BitVec.ofNat 6 (fld w 12 6)) (BitVec.ofNat 4 (fld w 2 4)))
  | _ => .error .func

/-- OP 0x3D. -/
def decOp3D (w : Nat) : Except DecErr Instr :=
  match fld w 0 2 with
  | 0 => check [(decide (fld w 6 6 ≠ 0), .field), (decide (48 ≤ fld w 18 6), .reg), (decide (48 ≤ fld w 12 6), .reg), (decide (12 ≤ fld w 2 4 ∧ fld w 2 4 ≤ 14), .mask)] (.vscansumX (fld w 31 1 == 1) (BitVec.ofNat 6 (fld w 18 6)) (BitVec.ofNat 6 (fld w 12 6)) (BitVec.ofNat 4 (fld w 2 4)))
  | 1 => check [(decide (fld w 6 6 ≠ 0), .field), (decide (48 ≤ fld w 18 6), .reg), (decide (48 ≤ fld w 12 6), .reg), (decide (12 ≤ fld w 2 4 ∧ fld w 2 4 ≤ 14), .mask)] (.vscanmaxX (fld w 31 1 == 1) (BitVec.ofNat 6 (fld w 18 6)) (BitVec.ofNat 6 (fld w 12 6)) (BitVec.ofNat 4 (fld w 2 4)))
  | 2 => check [(decide (fld w 6 6 ≠ 0), .field), (decide (48 ≤ fld w 18 6), .reg), (decide (48 ≤ fld w 12 6), .reg), (decide (12 ≤ fld w 2 4 ∧ fld w 2 4 ≤ 14), .mask)] (.vscanminX (fld w 31 1 == 1) (BitVec.ofNat 6 (fld w 18 6)) (BitVec.ofNat 6 (fld w 12 6)) (BitVec.ofNat 4 (fld w 2 4)))
  | _ => .error .func

/-- OP 0x3E. -/
def decOp3E (w : Nat) : Except DecErr Instr :=
  match fld w 0 2 with
  | 0 => check [(decide (fld w 2 4 ≤ 11), .field), (decide (16 ≤ fld w 6 6), .field), (decide (48 ≤ fld w 18 6), .reg), (decide (48 ≤ fld w 12 6), .reg), (decide (fld w 2 4 ≠ 15), .mask)] (.vfoldSum (fld w 31 1 == 1) (BitVec.ofNat 6 (fld w 18 6)) (BitVec.ofNat 6 (fld w 12 6)) (BitVec.ofNat 6 (fld w 6 6)))
  | 1 => check [(decide (fld w 2 4 ≤ 11), .field), (decide (16 ≤ fld w 6 6), .field), (decide (48 ≤ fld w 18 6), .reg), (decide (48 ≤ fld w 12 6), .reg), (decide (fld w 2 4 ≠ 15), .mask)] (.vfoldMax (fld w 31 1 == 1) (BitVec.ofNat 6 (fld w 18 6)) (BitVec.ofNat 6 (fld w 12 6)) (BitVec.ofNat 6 (fld w 6 6)))
  | 2 => check [(decide (fld w 2 4 ≤ 11), .field), (decide (16 ≤ fld w 6 6), .field), (decide (48 ≤ fld w 18 6), .reg), (decide (48 ≤ fld w 12 6), .reg), (decide (fld w 2 4 ≠ 15), .mask)] (.vfoldMin (fld w 31 1 == 1) (BitVec.ofNat 6 (fld w 18 6)) (BitVec.ofNat 6 (fld w 12 6)) (BitVec.ofNat 6 (fld w 6 6)))
  | _ => .error .func

/-- OP 0x3F. -/
def decOp3F (w : Nat) : Except DecErr Instr :=
  match fld w 0 2 with
  | 0 => check [(decide (fld w 6 6 ≠ 0), .field), (decide (48 ≤ fld w 18 6), .reg), (decide (48 ≤ fld w 12 6), .reg), (decide (12 ≤ fld w 2 4 ∧ fld w 2 4 ≤ 14), .mask)] (.vcsx (fld w 31 1 == 1) (BitVec.ofNat 6 (fld w 18 6)) (BitVec.ofNat 6 (fld w 12 6)) (BitVec.ofNat 4 (fld w 2 4)))
  | _ => .error .func

/-- OP 0x48. -/
def decOp48 (w : Nat) : Except DecErr Instr :=
  check [(decide (fld w 8 5 ≠ 0), .field), (decide (fld w 0 4 ≠ 0), .field), (decide (48 ≤ fld w 18 6), .reg), (decide (12 ≤ fld w 4 4 ∧ fld w 4 4 ≤ 14), .mask)] (.vld (fld w 31 1 == 1) (BitVec.ofNat 6 (fld w 18 6)) (BitVec.ofNat 5 (fld w 13 5)) (BitVec.ofNat 4 (fld w 4 4)))

/-- OP 0x49. -/
def decOp49 (w : Nat) : Except DecErr Instr :=
  check [(decide (fld w 0 4 ≠ 0), .field), (decide (48 ≤ fld w 18 6), .reg), (decide (12 ≤ fld w 4 4 ∧ fld w 4 4 ≤ 14), .mask)] (.vlds (fld w 31 1 == 1) (BitVec.ofNat 6 (fld w 18 6)) (BitVec.ofNat 5 (fld w 13 5)) (BitVec.ofNat 5 (fld w 8 5)) (BitVec.ofNat 4 (fld w 4 4)))

/-- OP 0x4A. -/
def decOp4A (w : Nat) : Except DecErr Instr :=
  check [(decide (fld w 8 5 ≠ 0), .field), (decide (fld w 3 1 ≠ 0), .field), (decide (48 ≤ fld w 18 6), .reg), (decide (12 ≤ fld w 4 4 ∧ fld w 4 4 ≤ 14), .mask)] (.vldb (fld w 31 1 == 1) (BitVec.ofNat 6 (fld w 18 6)) (BitVec.ofNat 5 (fld w 13 5)) (BitVec.ofNat 4 (fld w 4 4)) (BitVec.ofNat 3 (fld w 0 3)))

/-- OP 0x4B. -/
def decOp4B (w : Nat) : Except DecErr Instr :=
  match fld w 2 1 with
  | 0 => check [(decide (fld w 8 5 ≠ 0), .field), (decide (48 ≤ fld w 18 6), .reg), (decide (12 ≤ fld w 4 4 ∧ fld w 4 4 ≤ 14), .mask)] (.vldw (fld w 31 1 == 1) (BitVec.ofNat 6 (fld w 18 6)) (BitVec.ofNat 5 (fld w 13 5)) (BitVec.ofNat 4 (fld w 4 4)) (fld w 3 1 == 1) (BitVec.ofNat 2 (fld w 0 2)))
  | 1 => check [(decide (48 ≤ fld w 18 6), .reg), (decide (12 ≤ fld w 4 4 ∧ fld w 4 4 ≤ 14), .mask)] (.vldwScaled (fld w 31 1 == 1) (BitVec.ofNat 6 (fld w 18 6)) (BitVec.ofNat 5 (fld w 13 5)) (BitVec.ofNat 5 (fld w 8 5)) (BitVec.ofNat 4 (fld w 4 4)) (fld w 3 1 == 1) (BitVec.ofNat 2 (fld w 0 2)))
  | _ => .error .func

/-- OP 0x4C. -/
def decOp4C (w : Nat) : Except DecErr Instr :=
  check [(decide (fld w 8 5 ≠ 0), .field), (decide (fld w 0 4 ≠ 0), .field), (decide (48 ≤ fld w 18 6), .reg), (decide (12 ≤ fld w 4 4 ∧ fld w 4 4 ≤ 14), .mask)] (.vst (fld w 31 1 == 1) (BitVec.ofNat 6 (fld w 18 6)) (BitVec.ofNat 5 (fld w 13 5)) (BitVec.ofNat 4 (fld w 4 4)))

/-- OP 0x4D. -/
def decOp4D (w : Nat) : Except DecErr Instr :=
  check [(decide (fld w 0 4 ≠ 0), .field), (decide (48 ≤ fld w 18 6), .reg), (decide (12 ≤ fld w 4 4 ∧ fld w 4 4 ≤ 14), .mask)] (.vsts (fld w 31 1 == 1) (BitVec.ofNat 6 (fld w 18 6)) (BitVec.ofNat 5 (fld w 13 5)) (BitVec.ofNat 5 (fld w 8 5)) (BitVec.ofNat 4 (fld w 4 4)))

/-- OP 0x4E. -/
def decOp4E (w : Nat) : Except DecErr Instr :=
  check [(decide (fld w 18 6 ≠ 0), .field), (decide (fld w 8 5 ≠ 0), .field), (decide (fld w 1 3 ≠ 0), .field), (decide (fld w 4 4 ≤ 11), .field), (decide (fld w 4 4 ≠ 15), .mask), (decide (fld w 31 1 ≠ 0), .convoy)] (.loopv (BitVec.ofNat 5 (fld w 13 5)) (fld w 0 1 == 1))

/-- OP 0x4F. -/
def decOp4F (w : Nat) : Except DecErr Instr :=
  check [(decide (fld w 8 16 ≠ 0), .field), (decide (fld w 0 4 ≠ 0), .field), (decide (fld w 4 4 ≤ 11), .field), (decide (fld w 4 4 ≠ 15), .mask), (decide (fld w 31 1 ≠ 0), .convoy)] (.endv )

/-- OP 0x50. -/
def decOp50 (w : Nat) : Except DecErr Instr :=
  check [(decide (fld w 8 16 ≠ 0), .field), (decide (fld w 0 4 ≠ 0), .field), (decide (fld w 4 4 = 15), .field), (decide (12 ≤ fld w 4 4 ∧ fld w 4 4 ≤ 14), .mask), (decide (fld w 31 1 ≠ 0), .convoy)] (.brkv (BitVec.ofNat 4 (fld w 4 4)))

/-- OP 0x51. -/
def decOp51 (w : Nat) : Except DecErr Instr :=
  check [(decide (fld w 23 1 ≠ 0), .field), (decide (fld w 14 5 ≠ 0), .field), (decide (12 ≤ fld w 19 4), .mask), (decide (fld w 31 1 ≠ 0), .convoy)] (.vbr (BitVec.ofNat 4 (fld w 19 4)) (BitVec.ofNat 14 (fld w 0 14)))

/-- OP 0x52. -/
def decOp52 (w : Nat) : Except DecErr Instr :=
  check [(decide (fld w 8 16 ≠ 0), .field), (decide (fld w 0 4 ≠ 0), .field), (decide (fld w 4 4 ≤ 11), .field), (decide (fld w 4 4 ≠ 15), .mask), (decide (fld w 31 1 ≠ 0), .convoy)] (.vjoin )

/-- OP 0x54. -/
def decOp54 (w : Nat) : Except DecErr Instr :=
  check [(decide (fld w 1 7 ≠ 0), .field), (decide (fld w 23 1 ≠ 0), .reg), (decide (fld w 31 1 ≠ 0), .convoy)] (.plan (BitVec.ofNat 5 (fld w 18 5)) (BitVec.ofNat 5 (fld w 13 5)) (BitVec.ofNat 5 (fld w 8 5)) (fld w 0 1 == 1))

/-- OP 0x55. -/
def decOp55 (w : Nat) : Except DecErr Instr :=
  match fld w 0 1 with
  | 0 => check [(decide (fld w 2 2 ≠ 0), .field), (decide (48 ≤ fld w 18 6), .reg), (decide (fld w 31 1 ≠ 0), .convoy)] (.papply (BitVec.ofNat 6 (fld w 18 6)) (BitVec.ofNat 5 (fld w 13 5)) (BitVec.ofNat 5 (fld w 8 5)) (BitVec.ofNat 4 (fld w 4 4)) (fld w 1 1 == 1))
  | 1 => check [(decide (fld w 2 6 ≠ 0), .field), (decide (fld w 23 1 ≠ 0), .reg), (decide (fld w 31 1 ≠ 0), .convoy)] (.papplySpm (BitVec.ofNat 5 (fld w 18 5)) (BitVec.ofNat 5 (fld w 13 5)) (BitVec.ofNat 5 (fld w 8 5)) (fld w 1 1 == 1))
  | _ => .error .func

/-- OP 0x56. -/
def decOp56 (w : Nat) : Except DecErr Instr :=
  check [(decide (5 ≤ fld w 0 3), .func), (decide (fld w 3 1 ≠ 0), .field), (decide (48 ≤ fld w 18 6), .reg), (decide (12 ≤ fld w 4 4 ∧ fld w 4 4 ≤ 14), .mask), (decide (fld w 31 1 ≠ 0), .convoy)] (.pscat (BitVec.ofNat 6 (fld w 18 6)) (BitVec.ofNat 5 (fld w 13 5)) (BitVec.ofNat 5 (fld w 8 5)) (BitVec.ofNat 4 (fld w 4 4)) (BitVec.ofNat 3 (fld w 0 3)))

/-- OP 0x57. -/
def decOp57 (w : Nat) : Except DecErr Instr :=
  check [(decide (fld w 0 13 ≠ 0), .field), (decide (fld w 23 1 ≠ 0), .reg), (decide (fld w 31 1 ≠ 0), .convoy)] (.pinv (BitVec.ofNat 5 (fld w 18 5)) (BitVec.ofNat 5 (fld w 13 5)))

/-- OP 0x58. -/
def decOp58 (w : Nat) : Except DecErr Instr :=
  check [(decide (fld w 0 8 ≠ 0), .field), (decide (fld w 23 1 ≠ 0), .reg), (decide (fld w 31 1 ≠ 0), .convoy)] (.pcomp (BitVec.ofNat 5 (fld w 18 5)) (BitVec.ofNat 5 (fld w 13 5)) (BitVec.ofNat 5 (fld w 8 5)))

/-- OP 0x59. -/
def decOp59 (w : Nat) : Except DecErr Instr :=
  check [(decide (fld w 0 13 ≠ 0), .field), (decide (fld w 23 1 ≠ 0), .reg), (decide (fld w 31 1 ≠ 0), .convoy)] (.pstat (BitVec.ofNat 5 (fld w 18 5)) (BitVec.ofNat 5 (fld w 13 5)))

/-- OP 0x5A. -/
def decOp5A (w : Nat) : Except DecErr Instr :=
  check [(decide (fld w 18 6 ≠ 0), .field), (decide (fld w 0 13 ≠ 0), .field), (decide (fld w 31 1 ≠ 0), .convoy)] (.pfree (BitVec.ofNat 5 (fld w 13 5)))

/-- OP 0x5B. -/
def decOp5B (w : Nat) : Except DecErr Instr :=
  match fld w 0 1 with
  | 0 => check [(decide (fld w 18 6 ≠ 0), .field), (decide (fld w 1 12 ≠ 0), .field), (decide (fld w 31 1 ≠ 0), .convoy)] (.pspill (BitVec.ofNat 5 (fld w 13 5)))
  | 1 => check [(decide (fld w 18 6 ≠ 0), .field), (decide (fld w 1 12 ≠ 0), .field), (decide (fld w 31 1 ≠ 0), .convoy)] (.pfill (BitVec.ofNat 5 (fld w 13 5)))
  | _ => .error .func

/-- OP 0x5C. -/
def decOp5C (w : Nat) : Except DecErr Instr :=
  match fld w 0 1 with
  | 0 => check [(decide (fld w 8 16 ≠ 0), .field), (decide (fld w 1 3 ≠ 0), .field), (decide (¬ (1 ≤ fld w 4 4 ∧ fld w 4 4 ≤ 4)), .field), (decide (fld w 31 1 ≠ 0), .convoy)] (.mattach (BitVec.ofNat 4 (fld w 4 4)))
  | 1 => check [(decide (fld w 1 23 ≠ 0), .field), (decide (fld w 31 1 ≠ 0), .convoy)] (.mdetach )
  | _ => .error .func

/-- OP 0x5D. -/
def decOp5D (w : Nat) : Except DecErr Instr :=
  match fld w 0 2 with
  | 0 => check [(decide (fld w 8 16 ≠ 0), .field), (decide (fld w 2 2 ≠ 0), .field), (decide (fld w 31 1 ≠ 0), .convoy)] (.mdeclF32 (BitVec.ofNat 4 (fld w 4 4)))
  | 1 => check [(decide (fld w 8 16 ≠ 0), .field), (decide (fld w 2 2 ≠ 0), .field), (decide (fld w 31 1 ≠ 0), .convoy)] (.mdeclI32 (BitVec.ofNat 4 (fld w 4 4)))
  | 2 => check [(decide (fld w 18 6 ≠ 0), .field), (decide (fld w 8 5 ≠ 0), .field), (decide (fld w 2 2 ≠ 0), .field), (decide (fld w 31 1 ≠ 0), .convoy)] (.mdeclRank (BitVec.ofNat 5 (fld w 13 5)) (BitVec.ofNat 4 (fld w 4 4)))
  | _ => .error .func

/-- OP 0x5E. -/
def decOp5E (w : Nat) : Except DecErr Instr :=
  check [(decide (fld w 8 16 ≠ 0), .field), (decide (fld w 0 4 ≠ 0), .field)] (.mzero (fld w 31 1 == 1) (BitVec.ofNat 4 (fld w 4 4)))

/-- OP 0x5F. -/
def decOp5F (w : Nat) : Except DecErr Instr :=
  check [(decide (48 ≤ fld w 18 6), .reg), (decide (48 ≤ fld w 12 6), .reg)] (.mop (fld w 31 1 == 1) (BitVec.ofNat 6 (fld w 18 6)) (BitVec.ofNat 6 (fld w 12 6)) (BitVec.ofNat 4 (fld w 8 4)) (BitVec.ofNat 3 (fld w 5 3)) (BitVec.ofNat 5 (fld w 0 5)))

/-- OP 0x60. -/
def decOp60 (w : Nat) : Except DecErr Instr :=
  check [(decide (fld w 18 2 ≠ 0), .field), (decide (fld w 20 4 = fld w 8 4), .field), (decide (48 ≤ fld w 12 6), .reg)] (.mopa (fld w 31 1 == 1) (BitVec.ofNat 4 (fld w 20 4)) (BitVec.ofNat 6 (fld w 12 6)) (BitVec.ofNat 4 (fld w 8 4)) (BitVec.ofNat 3 (fld w 5 3)) (BitVec.ofNat 5 (fld w 0 5)))

/-- OP 0x61. -/
def decOp61 (w : Nat) : Except DecErr Instr :=
  match fld w 0 1 with
  | 0 => check [(decide (fld w 18 6 ≠ 0), .field), (decide (fld w 1 3 ≠ 0), .field)] (.mlda (fld w 31 1 == 1) (BitVec.ofNat 5 (fld w 13 5)) (BitVec.ofNat 5 (fld w 8 5)) (BitVec.ofNat 4 (fld w 4 4)))
  | 1 => check [(decide (fld w 18 6 ≠ 0), .field), (decide (fld w 1 3 ≠ 0), .field)] (.msta (fld w 31 1 == 1) (BitVec.ofNat 5 (fld w 13 5)) (BitVec.ofNat 5 (fld w 8 5)) (BitVec.ofNat 4 (fld w 4 4)))
  | _ => .error .func

/-- OP 0x62. -/
def decOp62 (w : Nat) : Except DecErr Instr :=
  check [(decide (fld w 8 5 ≠ 0), .field), (decide (48 ≤ fld w 18 6), .reg)] (.mrd (fld w 31 1 == 1) (BitVec.ofNat 6 (fld w 18 6)) (BitVec.ofNat 5 (fld w 13 5)) (BitVec.ofNat 4 (fld w 4 4)) (BitVec.ofNat 4 (fld w 0 4)))

/-- OP 0x63. -/
def decOp63 (w : Nat) : Except DecErr Instr :=
  check [(decide (fld w 18 6 ≠ 0), .field), (decide (fld w 8 5 ≠ 0), .field)] (.mrank (fld w 31 1 == 1) (BitVec.ofNat 5 (fld w 13 5)) (BitVec.ofNat 4 (fld w 4 4)) (BitVec.ofNat 4 (fld w 0 4)))

/-- OP 0x64. -/
def decOp64 (w : Nat) : Except DecErr Instr :=
  check [(decide (fld w 18 6 ≠ 0), .field), (decide (fld w 8 5 ≠ 0), .field), (decide (fld w 0 4 ≠ 0), .field)] (.mrmerge (fld w 31 1 == 1) (BitVec.ofNat 5 (fld w 13 5)) (BitVec.ofNat 4 (fld w 4 4)))

/-- OP 0x65. -/
def decOp65 (w : Nat) : Except DecErr Instr :=
  check [(decide (fld w 8 10 ≠ 0), .field), (decide (fld w 0 4 ≠ 0), .field), (decide (48 ≤ fld w 18 6), .reg)] (.mthr (fld w 31 1 == 1) (BitVec.ofNat 6 (fld w 18 6)) (BitVec.ofNat 4 (fld w 4 4)))

/-- OP 0x66. -/
def decOp66 (w : Nat) : Except DecErr Instr :=
  check [(decide (fld w 0 24 ≠ 0), .field), (decide (fld w 31 1 ≠ 0), .convoy)] (.mwait )

/-- OP 0x68. -/
def decOp68 (w : Nat) : Except DecErr Instr :=
  if fld w 0 4 = 15 then check [(decide (fld w 8 5 ≠ 0), .field), (decide (48 ≤ fld w 18 6), .reg), (decide (fld w 31 1 ≠ 0), .convoy)] (.streamReg (BitVec.ofNat 6 (fld w 18 6)) (BitVec.ofNat 5 (fld w 13 5)) (BitVec.ofNat 4 (fld w 4 4)))
  else check [(decide (fld w 2 2 = 3), .func), (decide (fld w 0 2 = 3), .func), (decide (48 ≤ fld w 18 6), .reg), (decide (fld w 8 5 % 2 = 1), .reg), (decide (fld w 31 1 ≠ 0), .convoy)] (.stream (BitVec.ofNat 6 (fld w 18 6)) (BitVec.ofNat 5 (fld w 13 5)) (BitVec.ofNat 5 (fld w 8 5)) (BitVec.ofNat 4 (fld w 4 4)) (BitVec.ofNat 2 (fld w 2 2)) (BitVec.ofNat 2 (fld w 0 2)))

/-- OP 0x69. -/
def decOp69 (w : Nat) : Except DecErr Instr :=
  check [(decide (fld w 2 2 = 3), .func), (decide (fld w 0 2 = 3), .func), (decide (fld w 23 1 ≠ 0), .reg), (decide (fld w 8 5 % 2 = 1), .reg), (decide (fld w 31 1 ≠ 0), .convoy)] (.swalk (BitVec.ofNat 5 (fld w 18 5)) (BitVec.ofNat 5 (fld w 13 5)) (BitVec.ofNat 5 (fld w 8 5)) (BitVec.ofNat 4 (fld w 4 4)) (BitVec.ofNat 2 (fld w 2 2)) (BitVec.ofNat 2 (fld w 0 2)))

/-- OP 0x6A. -/
def decOp6A (w : Nat) : Except DecErr Instr :=
  check [(decide (fld w 2 2 = 3), .func), (decide (fld w 0 2 = 3), .func), (decide (fld w 23 1 ≠ 0), .reg), (decide (fld w 8 5 % 2 = 1), .reg), (decide (fld w 31 1 ≠ 0), .convoy)] (.scow (BitVec.ofNat 5 (fld w 18 5)) (BitVec.ofNat 5 (fld w 13 5)) (BitVec.ofNat 5 (fld w 8 5)) (BitVec.ofNat 4 (fld w 4 4)) (BitVec.ofNat 2 (fld w 2 2)) (BitVec.ofNat 2 (fld w 0 2)))

/-- OP 0x6B. -/
def decOp6B (w : Nat) : Except DecErr Instr :=
  match fld w 0 1 with
  | 0 => check [(decide (fld w 8 16 ≠ 0), .field), (decide (fld w 1 3 ≠ 0), .field), (decide (fld w 31 1 ≠ 0), .convoy)] (.swaitRelease (BitVec.ofNat 4 (fld w 4 4)))
  | 1 => check [(decide (fld w 8 16 ≠ 0), .field), (decide (fld w 1 3 ≠ 0), .field), (decide (fld w 31 1 ≠ 0), .convoy)] (.swaitVisible (BitVec.ofNat 4 (fld w 4 4)))
  | _ => .error .func

/-- OP 0x6C. -/
def decOp6C (w : Nat) : Except DecErr Instr :=
  check [(decide (fld w 8 16 ≠ 0), .field), (decide (fld w 0 4 ≠ 0), .field), (decide (fld w 31 1 ≠ 0), .convoy)] (.commit (BitVec.ofNat 4 (fld w 4 4)))

/-- OP 0x6D. -/
def decOp6D (w : Nat) : Except DecErr Instr :=
  check [(decide (fld w 0 8 ≠ 0), .field), (decide (fld w 23 1 ≠ 0), .reg), (decide (fld w 31 1 ≠ 0), .convoy)] (.tdef (BitVec.ofNat 5 (fld w 18 5)) (BitVec.ofNat 5 (fld w 13 5)) (BitVec.ofNat 5 (fld w 8 5)))

/-- OP 0x6E. -/
def decOp6E (w : Nat) : Except DecErr Instr :=
  check [(decide (fld w 18 6 ≠ 0), .field), (decide (fld w 0 8 ≠ 0), .field), (decide (fld w 31 1 ≠ 0), .convoy)] (.tdec (BitVec.ofNat 5 (fld w 13 5)) (BitVec.ofNat 5 (fld w 8 5)))

/-- OP 0x6F. -/
def decOp6F (w : Nat) : Except DecErr Instr :=
  check [(decide (fld w 0 8 ≠ 0), .field), (decide (fld w 23 1 ≠ 0), .reg), (decide (fld w 31 1 ≠ 0), .convoy)] (.tspawn (BitVec.ofNat 5 (fld w 18 5)) (BitVec.ofNat 5 (fld w 13 5)) (BitVec.ofNat 5 (fld w 8 5)))

/-- OP 0x70. -/
def decOp70 (w : Nat) : Except DecErr Instr :=
  match fld w 0 1 with
  | 0 => check [(decide (fld w 1 17 ≠ 0), .field), (decide (fld w 23 1 ≠ 0), .reg), (decide (fld w 31 1 ≠ 0), .convoy)] (.evrd (BitVec.ofNat 5 (fld w 18 5)))
  | 1 => check [(decide (fld w 18 6 ≠ 0), .field), (decide (fld w 1 7 ≠ 0), .field), (decide (fld w 31 1 ≠ 0), .convoy)] (.evpost (BitVec.ofNat 5 (fld w 13 5)) (BitVec.ofNat 5 (fld w 8 5)))
  | _ => .error .func

/-- OP 0x71. -/
def decOp71 (w : Nat) : Except DecErr Instr :=
  check [(decide (fld w 8 16 ≠ 0), .field), (decide (fld w 31 1 ≠ 0), .convoy)] (.bar (BitVec.ofNat 8 (fld w 0 8)))

/-- OP 0x72. -/
def decOp72 (w : Nat) : Except DecErr Instr :=
  check [(decide (fld w 0 8 ≠ 0), .field), (decide (fld w 31 1 ≠ 0), .convoy)] (.mark (BitVec.ofNat 16 (fld w 8 16)))

/-- OP 0x73. -/
def decOp73 (w : Nat) : Except DecErr Instr :=
  check [(decide (fld w 0 2 = 3), .func), (decide (fld w 18 6 ≠ 0), .field), (decide (fld w 2 6 ≠ 0), .field), (decide (fld w 31 1 ≠ 0), .convoy)] (.ttbind (BitVec.ofNat 5 (fld w 13 5)) (BitVec.ofNat 5 (fld w 8 5)) (BitVec.ofNat 2 (fld w 0 2)))

/-- OP 0x74. -/
def decOp74 (w : Nat) : Except DecErr Instr :=
  check [(decide (fld w 0 13 ≠ 0), .field), (decide (fld w 23 1 ≠ 0), .reg), (decide (fld w 31 1 ≠ 0), .convoy)] (.ttstat (BitVec.ofNat 5 (fld w 18 5)) (BitVec.ofNat 5 (fld w 13 5)))

/-- OP 0x75. -/
def decOp75 (w : Nat) : Except DecErr Instr :=
  match fld w 0 1 with
  | 0 => check [(decide (fld w 18 6 ≠ 0), .field), (decide (fld w 1 7 ≠ 0), .field), (decide (fld w 31 1 ≠ 0), .convoy)] (.tierpin (BitVec.ofNat 5 (fld w 13 5)) (BitVec.ofNat 5 (fld w 8 5)))
  | 1 => check [(decide (fld w 18 6 ≠ 0), .field), (decide (fld w 1 7 ≠ 0), .field), (decide (fld w 31 1 ≠ 0), .convoy)] (.tierfree (BitVec.ofNat 5 (fld w 13 5)) (BitVec.ofNat 5 (fld w 8 5)))
  | _ => .error .func

/-- OP 0x76. -/
def decOp76 (w : Nat) : Except DecErr Instr :=
  check [(decide (fld w 0 8 ≠ 0), .field), (decide (48 ≤ fld w 18 6), .reg), (decide (fld w 31 1 ≠ 0), .convoy)] (.rowsend (BitVec.ofNat 6 (fld w 18 6)) (BitVec.ofNat 5 (fld w 13 5)) (BitVec.ofNat 5 (fld w 8 5)))

/-- OP 0x77. -/
def decOp77 (w : Nat) : Except DecErr Instr :=
  check [(decide (fld w 0 13 ≠ 0), .field), (decide (fld w 23 1 ≠ 0), .reg), (decide (fld w 31 1 ≠ 0), .convoy)] (.rowack (BitVec.ofNat 5 (fld w 18 5)) (BitVec.ofNat 5 (fld w 13 5)))

/-- OP 0x78. -/
def decOp78 (w : Nat) : Except DecErr Instr :=
  check [(decide (fld w 18 6 ≠ 0), .field), (decide (fld w 0 8 ≠ 0), .field), (decide (fld w 31 1 ≠ 0), .convoy)] (.arrwait (BitVec.ofNat 5 (fld w 13 5)) (BitVec.ofNat 5 (fld w 8 5)))

/-- OP 0x79. -/
def decOp79 (w : Nat) : Except DecErr Instr :=
  check [(decide (fld w 0 8 ≠ 0), .field), (decide (fld w 23 1 ≠ 0), .reg), (decide (fld w 31 1 ≠ 0), .convoy)] (.replsel (BitVec.ofNat 5 (fld w 18 5)) (BitVec.ofNat 5 (fld w 13 5)) (BitVec.ofNat 5 (fld w 8 5)))

/-- OP 0x7A. -/
def decOp7A (w : Nat) : Except DecErr Instr :=
  check [(decide (fld w 0 24 ≠ 0), .field), (decide (fld w 31 1 ≠ 0), .convoy)] (.ctxyield )

/-- OP 0x7B. -/
def decOp7B (w : Nat) : Except DecErr Instr :=
  check [(decide (fld w 0 13 ≠ 0), .field), (decide (fld w 23 1 ≠ 0), .reg), (decide (fld w 31 1 ≠ 0), .convoy)] (.enchk (BitVec.ofNat 5 (fld w 18 5)) (BitVec.ofNat 5 (fld w 13 5)))

/-- The instruction a 32-bit word stands for (R74, R85, R89 to R91). -/
def decodeWord (w : Nat) : Except DecErr Instr :=
  match fld w 24 7 with
  | 0x01 => decOp01 w
  | 0x02 => decOp02 w
  | 0x03 => decOp03 w
  | 0x04 => decOp04 w
  | 0x05 => decOp05 w
  | 0x06 => decOp06 w
  | 0x07 => decOp07 w
  | 0x08 => decOp08 w
  | 0x09 => decOp09 w
  | 0x0A => decOp0A w
  | 0x0B => decOp0B w
  | 0x0C => decOp0C w
  | 0x0D => decOp0D w
  | 0x0E => decOp0E w
  | 0x0F => decOp0F w
  | 0x10 => decOp10 w
  | 0x11 => decOp11 w
  | 0x12 => decOp12 w
  | 0x13 => decOp13 w
  | 0x14 => decOp14 w
  | 0x15 => decOp15 w
  | 0x16 => decOp16 w
  | 0x17 => decOp17 w
  | 0x18 => decOp18 w
  | 0x19 => decOp19 w
  | 0x1A => decOp1A w
  | 0x1B => decOp1B w
  | 0x1C => decOp1C w
  | 0x1D => decOp1D w
  | 0x1E => decOp1E w
  | 0x1F => decOp1F w
  | 0x20 => decOp20 w
  | 0x21 => decOp21 w
  | 0x22 => decOp22 w
  | 0x23 => decOp23 w
  | 0x24 => decOp24 w
  | 0x25 => decOp25 w
  | 0x26 => decOp26 w
  | 0x27 => decOp27 w
  | 0x28 => decOp28 w
  | 0x29 => decOp29 w
  | 0x2A => decOp2A w
  | 0x2B => decOp2B w
  | 0x2C => decOp2C w
  | 0x2D => decOp2D w
  | 0x2E => decOp2E w
  | 0x2F => decOp2F w
  | 0x30 => decOp30 w
  | 0x31 => decOp31 w
  | 0x32 => decOp32 w
  | 0x33 => decOp33 w
  | 0x34 => decOp34 w
  | 0x35 => decOp35 w
  | 0x36 => decOp36 w
  | 0x37 => decOp37 w
  | 0x38 => decOp38 w
  | 0x39 => decOp39 w
  | 0x3A => decOp3A w
  | 0x3B => decOp3B w
  | 0x3C => decOp3C w
  | 0x3D => decOp3D w
  | 0x3E => decOp3E w
  | 0x3F => decOp3F w
  | 0x48 => decOp48 w
  | 0x49 => decOp49 w
  | 0x4A => decOp4A w
  | 0x4B => decOp4B w
  | 0x4C => decOp4C w
  | 0x4D => decOp4D w
  | 0x4E => decOp4E w
  | 0x4F => decOp4F w
  | 0x50 => decOp50 w
  | 0x51 => decOp51 w
  | 0x52 => decOp52 w
  | 0x54 => decOp54 w
  | 0x55 => decOp55 w
  | 0x56 => decOp56 w
  | 0x57 => decOp57 w
  | 0x58 => decOp58 w
  | 0x59 => decOp59 w
  | 0x5A => decOp5A w
  | 0x5B => decOp5B w
  | 0x5C => decOp5C w
  | 0x5D => decOp5D w
  | 0x5E => decOp5E w
  | 0x5F => decOp5F w
  | 0x60 => decOp60 w
  | 0x61 => decOp61 w
  | 0x62 => decOp62 w
  | 0x63 => decOp63 w
  | 0x64 => decOp64 w
  | 0x65 => decOp65 w
  | 0x66 => decOp66 w
  | 0x68 => decOp68 w
  | 0x69 => decOp69 w
  | 0x6A => decOp6A w
  | 0x6B => decOp6B w
  | 0x6C => decOp6C w
  | 0x6D => decOp6D w
  | 0x6E => decOp6E w
  | 0x6F => decOp6F w
  | 0x70 => decOp70 w
  | 0x71 => decOp71 w
  | 0x72 => decOp72 w
  | 0x73 => decOp73 w
  | 0x74 => decOp74 w
  | 0x75 => decOp75 w
  | 0x76 => decOp76 w
  | 0x77 => decOp77 w
  | 0x78 => decOp78 w
  | 0x79 => decOp79 w
  | 0x7A => decOp7A w
  | 0x7B => decOp7B w
  | _ => .error .opcode

/-- The instruction at the head of a run of bytes, lowest address first (R74: little-endian), and the bytes
after it. -/
def decodeBytes : List Byte → Except DecErr (Instr × List Byte)
  | b0 :: b1 :: b2 :: b3 :: rest =>
    match decodeWord (b0.toNat + 2 ^ 8 * b1.toNat + 2 ^ 16 * b2.toNat + 2 ^ 24 * b3.toNat) with
    | .ok i => .ok (i, rest)
    | .error e => .error e
  | _ => .error .short

/-- The four bytes of a word as the hardware stores them (R74). -/
def wordBytes (w : Nat) : List Byte :=
  [BitVec.ofNat 8 w, BitVec.ofNat 8 (w / 2 ^ 8), BitVec.ofNat 8 (w / 2 ^ 16), BitVec.ofNat 8 (w / 2 ^ 24)]

/-- What the decoder reads from an instruction whose bits are `w`, numbered as opcode_table.json numbers them:
every word of this device is 32 bits, so bits from `nbits` up are zero. -/
def decodeTableWord (nbits w : Nat) : Option Instr :=
  match decodeBytes (wordBytes (w % 2 ^ nbits)) with
  | .ok (i, _) => some i
  | .error _ => none
/-- A word from its fixed bits and its fields, each a value and the bit it starts at. -/
def pack : Nat → List (Nat × Nat) → Nat
  | base, [] => base
  | base, (v, lo) :: fs => v * 2 ^ lo + pack base fs
/-- The word of an instruction, from the same encoding tables; the steps without an encoding have none. -/
def encodeNat : Instr → Option Nat
  | .add d a b => some (pack 0x1000000 [(d.toNat, 19), (a.toNat, 14), (b.toNat, 9)])
  | .sub d a b => some (pack 0x1000001 [(d.toNat, 19), (a.toNat, 14), (b.toNat, 9)])
  | .and d a b => some (pack 0x1000002 [(d.toNat, 19), (a.toNat, 14), (b.toNat, 9)])
  | .or d a b => some (pack 0x1000003 [(d.toNat, 19), (a.toNat, 14), (b.toNat, 9)])
  | .xor d a b => some (pack 0x1000004 [(d.toNat, 19), (a.toNat, 14), (b.toNat, 9)])
  | .sll d a b => some (pack 0x1000005 [(d.toNat, 19), (a.toNat, 14), (b.toNat, 9)])
  | .srl d a b => some (pack 0x1000006 [(d.toNat, 19), (a.toNat, 14), (b.toNat, 9)])
  | .sra d a b => some (pack 0x1000007 [(d.toNat, 19), (a.toNat, 14), (b.toNat, 9)])
  | .slt d a b => some (pack 0x1000008 [(d.toNat, 19), (a.toNat, 14), (b.toNat, 9)])
  | .sltu d a b => some (pack 0x1000009 [(d.toNat, 19), (a.toNat, 14), (b.toNat, 9)])
  | .min d a b => some (pack 0x100000A [(d.toNat, 19), (a.toNat, 14), (b.toNat, 9)])
  | .max d a b => some (pack 0x100000B [(d.toNat, 19), (a.toNat, 14), (b.toNat, 9)])
  | .minu d a b => some (pack 0x100000C [(d.toNat, 19), (a.toNat, 14), (b.toNat, 9)])
  | .maxu d a b => some (pack 0x100000D [(d.toNat, 19), (a.toNat, 14), (b.toNat, 9)])
  | .clz d a => some (pack 0x1000010 [(d.toNat, 19), (a.toNat, 14)])
  | .ctz d a => some (pack 0x1000011 [(d.toNat, 19), (a.toNat, 14)])
  | .popc d a => some (pack 0x1000012 [(d.toNat, 19), (a.toNat, 14)])
  | .mul d a b => some (pack 0x1000020 [(d.toNat, 19), (a.toNat, 14), (b.toNat, 9)])
  | .mulh d a b => some (pack 0x1000021 [(d.toNat, 19), (a.toNat, 14), (b.toNat, 9)])
  | .mulhu d a b => some (pack 0x1000022 [(d.toNat, 19), (a.toNat, 14), (b.toNat, 9)])
  | .div d a b => some (pack 0x1000023 [(d.toNat, 19), (a.toNat, 14), (b.toNat, 9)])
  | .divu d a b => some (pack 0x1000024 [(d.toNat, 19), (a.toNat, 14), (b.toNat, 9)])
  | .rem d a b => some (pack 0x1000025 [(d.toNat, 19), (a.toNat, 14), (b.toNat, 9)])
  | .remu d a b => some (pack 0x1000026 [(d.toNat, 19), (a.toNat, 14), (b.toNat, 9)])
  | .slli d a n => some (pack 0x1000040 [(d.toNat, 19), (a.toNat, 14), (n.toNat, 0)])
  | .srli d a n => some (pack 0x1000080 [(d.toNat, 19), (a.toNat, 14), (n.toNat, 0)])
  | .srai d a n => some (pack 0x10000C0 [(d.toNat, 19), (a.toNat, 14), (n.toNat, 0)])
  | .addi d a i => some (pack 0x2000000 [(d.toNat, 19), (a.toNat, 14), (i.toNat, 0)])
  | .andi d a i => some (pack 0x3000000 [(d.toNat, 19), (a.toNat, 14), (i.toNat, 0)])
  | .ori d a i => some (pack 0x4000000 [(d.toNat, 19), (a.toNat, 14), (i.toNat, 0)])
  | .xori d a i => some (pack 0x5000000 [(d.toNat, 19), (a.toNat, 14), (i.toNat, 0)])
  | .slti d a i => some (pack 0x6000000 [(d.toNat, 19), (a.toNat, 14), (i.toNat, 0)])
  | .sltiu d a i => some (pack 0x7000000 [(d.toNat, 19), (a.toNat, 14), (i.toNat, 0)])
  | .lih d i => some (pack 0x8000000 [(d.toNat, 19), (i.toNat, 0)])
  | .auipc d i => some (pack 0x9000000 [(d.toNat, 19), (i.toNat, 0)])
  | .beq a b o => some (pack 0xA000000 [(a.toNat, 19), (b.toNat, 14), (o.toNat, 0)])
  | .bne a b o => some (pack 0xB000000 [(a.toNat, 19), (b.toNat, 14), (o.toNat, 0)])
  | .blt a b o => some (pack 0xC000000 [(a.toNat, 19), (b.toNat, 14), (o.toNat, 0)])
  | .bge a b o => some (pack 0xD000000 [(a.toNat, 19), (b.toNat, 14), (o.toNat, 0)])
  | .bltu a b o => some (pack 0xE000000 [(a.toNat, 19), (b.toNat, 14), (o.toNat, 0)])
  | .bgeu a b o => some (pack 0xF000000 [(a.toNat, 19), (b.toNat, 14), (o.toNat, 0)])
  | .jal d i => some (pack 0x10000000 [(d.toNat, 19), (i.toNat, 0)])
  | .jalr d a i => some (pack 0x11000000 [(d.toNat, 19), (a.toNat, 14), (i.toNat, 0)])
  | .lb d a i => some (pack 0x12000000 [(d.toNat, 19), (a.toNat, 14), (i.toNat, 0)])
  | .lbu d a i => some (pack 0x13000000 [(d.toNat, 19), (a.toNat, 14), (i.toNat, 0)])
  | .lh d a i => some (pack 0x14000000 [(d.toNat, 19), (a.toNat, 14), (i.toNat, 0)])
  | .lhu d a i => some (pack 0x15000000 [(d.toNat, 19), (a.toNat, 14), (i.toNat, 0)])
  | .lw d a i => some (pack 0x16000000 [(d.toNat, 19), (a.toNat, 14), (i.toNat, 0)])
  | .lwu d a i => some (pack 0x17000000 [(d.toNat, 19), (a.toNat, 14), (i.toNat, 0)])
  | .ld d a i => some (pack 0x18000000 [(d.toNat, 19), (a.toNat, 14), (i.toNat, 0)])
  | .sb d a i => some (pack 0x19000000 [(d.toNat, 19), (a.toNat, 14), (i.toNat, 0)])
  | .sh d a i => some (pack 0x1A000000 [(d.toNat, 19), (a.toNat, 14), (i.toNat, 0)])
  | .sw d a i => some (pack 0x1B000000 [(d.toNat, 19), (a.toNat, 14), (i.toNat, 0)])
  | .sd d a i => some (pack 0x1C000000 [(d.toNat, 19), (a.toNat, 14), (i.toNat, 0)])
  | .amoswap d a b o s z => some (pack 0x1D000000 [(d.toNat, 19), (a.toNat, 14), (b.toNat, 9), (o.toNat, 4), (s.toNat, 1), (z.toNat, 0)])
  | .amoadd d a b o s z => some (pack 0x1D000040 [(d.toNat, 19), (a.toNat, 14), (b.toNat, 9), (o.toNat, 4), (s.toNat, 1), (z.toNat, 0)])
  | .amoand d a b o s z => some (pack 0x1D000080 [(d.toNat, 19), (a.toNat, 14), (b.toNat, 9), (o.toNat, 4), (s.toNat, 1), (z.toNat, 0)])
  | .amoor d a b o s z => some (pack 0x1D0000C0 [(d.toNat, 19), (a.toNat, 14), (b.toNat, 9), (o.toNat, 4), (s.toNat, 1), (z.toNat, 0)])
  | .amomax d a b o s z => some (pack 0x1D000100 [(d.toNat, 19), (a.toNat, 14), (b.toNat, 9), (o.toNat, 4), (s.toNat, 1), (z.toNat, 0)])
  | .amomin d a b o s z => some (pack 0x1D000140 [(d.toNat, 19), (a.toNat, 14), (b.toNat, 9), (o.toNat, 4), (s.toNat, 1), (z.toNat, 0)])
  | .amocas d a b o s z => some (pack 0x1D000180 [(d.toNat, 19), (a.toNat, 14), (b.toNat, 9), (o.toNat, 4), (s.toNat, 1), (z.toNat, 0)])
  | .csrrd d c => some (pack 0x1E000000 [(d.toNat, 19), (c.toNat, 0)])
  | .csrwr d a c => some (pack 0x1E001000 [(d.toNat, 19), (a.toNat, 14), (c.toNat, 0)])
  | .csrset d a c => some (pack 0x1E002000 [(d.toNat, 19), (a.toNat, 14), (c.toNat, 0)])
  | .csrclr d a c => some (pack 0x1E003000 [(d.toNat, 19), (a.toNat, 14), (c.toNat, 0)])
  | .fence k s => some (pack 0x1F000000 [(k.toNat, 19), (s.toNat, 3)])
  | .sys c => some (pack 0x1F000040 [(c.toNat, 9)])
  | .eret  => some (pack 0x1F000080 [])
  | .brk c => some (pack 0x1F0000C0 [(c.toNat, 9)])
  | .wfe  => some (pack 0x1F000100 [])
  | .setvl c d a => some (pack 0x20000000 [(c.toNat, 31), (d.toNat, 19), (a.toNat, 14)])
  | .setvt c t => some (pack 0x21000000 [(c.toNat, 31), (t.toNat, 8)])
  | .setvtReg c a => some (pack 0x21000001 [(c.toNat, 31), (a.toNat, 19)])
  | .setsv c s => some (pack 0x2200003C [(c.toNat, 31), (s.toNat, 12)])
  | .setsvOff c => some (pack 0x2200003D [(c.toNat, 31)])
  | .vadd c d a b m => some (pack 0x23000000 [(c.toNat, 31), (d.toNat, 18), (a.toNat, 12), (b.toNat, 6), (m.toNat, 2)])
  | .vsub c d a b m => some (pack 0x23000001 [(c.toNat, 31), (d.toNat, 18), (a.toNat, 12), (b.toNat, 6), (m.toNat, 2)])
  | .vmul c d a b m => some (pack 0x23000002 [(c.toNat, 31), (d.toNat, 18), (a.toNat, 12), (b.toNat, 6), (m.toNat, 2)])
  | .vdiv c d a b m => some (pack 0x23000003 [(c.toNat, 31), (d.toNat, 18), (a.toNat, 12), (b.toNat, 6), (m.toNat, 2)])
  | .vmin c d a b m => some (pack 0x24000000 [(c.toNat, 31), (d.toNat, 18), (a.toNat, 12), (b.toNat, 6), (m.toNat, 2)])
  | .vmax c d a b m => some (pack 0x24000001 [(c.toNat, 31), (d.toNat, 18), (a.toNat, 12), (b.toNat, 6), (m.toNat, 2)])
  | .vmulh c d a b m => some (pack 0x24000002 [(c.toNat, 31), (d.toNat, 18), (a.toNat, 12), (b.toNat, 6), (m.toNat, 2)])
  | .vabsd c d a b m => some (pack 0x24000003 [(c.toNat, 31), (d.toNat, 18), (a.toNat, 12), (b.toNat, 6), (m.toNat, 2)])
  | .vand c d a b m => some (pack 0x25000000 [(c.toNat, 31), (d.toNat, 18), (a.toNat, 12), (b.toNat, 6), (m.toNat, 2)])
  | .vor c d a b m => some (pack 0x25000001 [(c.toNat, 31), (d.toNat, 18), (a.toNat, 12), (b.toNat, 6), (m.toNat, 2)])
  | .vxor c d a b m => some (pack 0x25000002 [(c.toNat, 31), (d.toNat, 18), (a.toNat, 12), (b.toNat, 6), (m.toNat, 2)])
  | .vsll c d a b m => some (pack 0x26000000 [(c.toNat, 31), (d.toNat, 18), (a.toNat, 12), (b.toNat, 6), (m.toNat, 2)])
  | .vsrl c d a b m => some (pack 0x26000001 [(c.toNat, 31), (d.toNat, 18), (a.toNat, 12), (b.toNat, 6), (m.toNat, 2)])
  | .vsra c d a b m => some (pack 0x26000002 [(c.toNat, 31), (d.toNat, 18), (a.toNat, 12), (b.toNat, 6), (m.toNat, 2)])
  | .vaddi c d a i m => some (pack 0x27000000 [(c.toNat, 31), (d.toNat, 18), (a.toNat, 12), (i.toNat, 6), (m.toNat, 2)])
  | .vslli c d a i m => some (pack 0x27000001 [(c.toNat, 31), (d.toNat, 18), (a.toNat, 12), (i.toNat, 6), (m.toNat, 2)])
  | .vsrli c d a i m => some (pack 0x27000002 [(c.toNat, 31), (d.toNat, 18), (a.toNat, 12), (i.toNat, 6), (m.toNat, 2)])
  | .vsrai c d a i m => some (pack 0x27000003 [(c.toNat, 31), (d.toNat, 18), (a.toNat, 12), (i.toNat, 6), (m.toNat, 2)])
  | .vaddVx c d a b x => some (pack 0x28000000 [(c.toNat, 31), (d.toNat, 18), (a.toNat, 12), (b.toNat, 6), (x.toNat, 0)])
  | .vsubVx c d a b x => some (pack 0x29000000 [(c.toNat, 31), (d.toNat, 18), (a.toNat, 12), (b.toNat, 6), (x.toNat, 0)])
  | .vmulVx c d a b x => some (pack 0x2A000000 [(c.toNat, 31), (d.toNat, 18), (a.toNat, 12), (b.toNat, 6), (x.toNat, 0)])
  | .vminVx c d a b x => some (pack 0x2B000000 [(c.toNat, 31), (d.toNat, 18), (a.toNat, 12), (b.toNat, 6), (x.toNat, 0)])
  | .vmaxVx c d a b x => some (pack 0x2C000000 [(c.toNat, 31), (d.toNat, 18), (a.toNat, 12), (b.toNat, 6), (x.toNat, 0)])
  | .vfma c d a b m => some (pack 0x2D000000 [(c.toNat, 31), (d.toNat, 18), (a.toNat, 12), (b.toNat, 6), (m.toNat, 2)])
  | .vfms c d a b m => some (pack 0x2D000001 [(c.toNat, 31), (d.toNat, 18), (a.toNat, 12), (b.toNat, 6), (m.toNat, 2)])
  | .vfnma c d a b m => some (pack 0x2D000002 [(c.toNat, 31), (d.toNat, 18), (a.toNat, 12), (b.toNat, 6), (m.toNat, 2)])
  | .vfnms c d a b m => some (pack 0x2D000003 [(c.toNat, 31), (d.toNat, 18), (a.toNat, 12), (b.toNat, 6), (m.toNat, 2)])
  | .vrec c d a m => some (pack 0x2E000000 [(c.toNat, 31), (d.toNat, 18), (a.toNat, 12), (m.toNat, 2)])
  | .vrsq c d a m => some (pack 0x2E000001 [(c.toNat, 31), (d.toNat, 18), (a.toNat, 12), (m.toNat, 2)])
  | .vfexp2 c d a m => some (pack 0x2E000002 [(c.toNat, 31), (d.toNat, 18), (a.toNat, 12), (m.toNat, 2)])
  | .vabs c d a m => some (pack 0x2E000003 [(c.toNat, 31), (d.toNat, 18), (a.toNat, 12), (m.toNat, 2)])
  | .vneg c d a m => some (pack 0x2F000000 [(c.toNat, 31), (d.toNat, 18), (a.toNat, 12), (m.toNat, 2)])
  | .vnot c d a m => some (pack 0x2F000001 [(c.toNat, 31), (d.toNat, 18), (a.toNat, 12), (m.toNat, 2)])
  | .vclz c d a m => some (pack 0x2F000002 [(c.toNat, 31), (d.toNat, 18), (a.toNat, 12), (m.toNat, 2)])
  | .vpopc c d a m => some (pack 0x2F000003 [(c.toNat, 31), (d.toNat, 18), (a.toNat, 12), (m.toNat, 2)])
  | .vcvt c d a t m => some (pack 0x30000000 [(c.toNat, 31), (d.toNat, 18), (a.toNat, 12), (t.toNat, 6), (m.toNat, 2)])
  | .vwiden c d a t m => some (pack 0x30000001 [(c.toNat, 31), (d.toNat, 18), (a.toNat, 12), (t.toNat, 6), (m.toNat, 2)])
  | .vnarrow c d a t m => some (pack 0x30000002 [(c.toNat, 31), (d.toNat, 18), (a.toNat, 12), (t.toNat, 6), (m.toNat, 2)])
  | .vquant c d a t => some (pack 0x3100003C [(c.toNat, 31), (d.toNat, 18), (a.toNat, 12), (t.toNat, 6)])
  | .vdeq c d a t m => some (pack 0x31000001 [(c.toNat, 31), (d.toNat, 18), (a.toNat, 12), (t.toNat, 6), (m.toNat, 2)])
  | .vcmpEq c d a b m => some (pack 0x32000000 [(c.toNat, 31), (d.toNat, 18), (a.toNat, 12), (b.toNat, 6), (m.toNat, 2)])
  | .vcmpNe c d a b m => some (pack 0x32000001 [(c.toNat, 31), (d.toNat, 18), (a.toNat, 12), (b.toNat, 6), (m.toNat, 2)])
  | .vcmpLt c d a b m => some (pack 0x32000002 [(c.toNat, 31), (d.toNat, 18), (a.toNat, 12), (b.toNat, 6), (m.toNat, 2)])
  | .vcmpLe c d a b m => some (pack 0x32000003 [(c.toNat, 31), (d.toNat, 18), (a.toNat, 12), (b.toNat, 6), (m.toNat, 2)])
  | .vcmpiEq c d a i m => some (pack 0x33000000 [(c.toNat, 31), (d.toNat, 18), (a.toNat, 12), (i.toNat, 6), (m.toNat, 2)])
  | .vcmpiNe c d a i m => some (pack 0x33000001 [(c.toNat, 31), (d.toNat, 18), (a.toNat, 12), (i.toNat, 6), (m.toNat, 2)])
  | .vcmpiLt c d a i m => some (pack 0x33000002 [(c.toNat, 31), (d.toNat, 18), (a.toNat, 12), (i.toNat, 6), (m.toNat, 2)])
  | .vcmpiGt c d a i m => some (pack 0x33000003 [(c.toNat, 31), (d.toNat, 18), (a.toNat, 12), (i.toNat, 6), (m.toNat, 2)])
  | .mand c d a b => some (pack 0x3400003C [(c.toNat, 31), (d.toNat, 18), (a.toNat, 12), (b.toNat, 6)])
  | .mor c d a b => some (pack 0x3400003D [(c.toNat, 31), (d.toNat, 18), (a.toNat, 12), (b.toNat, 6)])
  | .mxor c d a b => some (pack 0x3400003E [(c.toNat, 31), (d.toNat, 18), (a.toNat, 12), (b.toNat, 6)])
  | .mandn c d a b => some (pack 0x3400003F [(c.toNat, 31), (d.toNat, 18), (a.toNat, 12), (b.toNat, 6)])
  | .mpop c d a => some (pack 0x3500003C [(c.toNat, 31), (d.toNat, 18), (a.toNat, 12)])
  | .mfirst c d a => some (pack 0x3500003D [(c.toNat, 31), (d.toNat, 18), (a.toNat, 12)])
  | .vmerge c d a b m => some (pack 0x35000002 [(c.toNat, 31), (d.toNat, 18), (a.toNat, 12), (b.toNat, 6), (m.toNat, 2)])
  | .vid c d m => some (pack 0x35000003 [(c.toNat, 31), (d.toNat, 18), (m.toNat, 2)])
  | .vcompress c d a s m => some (pack 0x36000000 [(c.toNat, 31), (d.toNat, 18), (a.toNat, 12), (s.toNat, 6), (m.toNat, 2)])
  | .vexpand c d a m => some (pack 0x36000001 [(c.toNat, 31), (d.toNat, 18), (a.toNat, 12), (m.toNat, 2)])
  | .vperm c d a b m => some (pack 0x36000002 [(c.toNat, 31), (d.toNat, 18), (a.toNat, 12), (b.toNat, 6), (m.toNat, 2)])
  | .viota c d a m => some (pack 0x36000003 [(c.toNat, 31), (d.toNat, 18), (a.toNat, 12), (m.toNat, 2)])
  | .vslup c d a s m => some (pack 0x37000000 [(c.toNat, 31), (d.toNat, 18), (a.toNat, 12), (s.toNat, 6), (m.toNat, 2)])
  | .vsldn c d a s m => some (pack 0x37000001 [(c.toNat, 31), (d.toNat, 18), (a.toNat, 12), (s.toNat, 6), (m.toNat, 2)])
  | .vbcast c d s m => some (pack 0x37000002 [(c.toNat, 31), (d.toNat, 18), (s.toNat, 6), (m.toNat, 2)])
  | .vmov c d a x m => some (pack 0x38000000 [(c.toNat, 31), (d.toNat, 18), (a.toNat, 12), (x.toNat, 6), (m.toNat, 2)])
  | .vxlane c d a s => some (pack 0x3900003C [(c.toNat, 31), (d.toNat, 18), (a.toNat, 12), (s.toNat, 6)])
  | .vredsum c d a m => some (pack 0x3A000000 [(c.toNat, 31), (d.toNat, 18), (a.toNat, 12), (m.toNat, 2)])
  | .vredmax c d a m => some (pack 0x3A000001 [(c.toNat, 31), (d.toNat, 18), (a.toNat, 12), (m.toNat, 2)])
  | .vredmin c d a m => some (pack 0x3A000002 [(c.toNat, 31), (d.toNat, 18), (a.toNat, 12), (m.toNat, 2)])
  | .vredand c d a m => some (pack 0x3B000000 [(c.toNat, 31), (d.toNat, 18), (a.toNat, 12), (m.toNat, 2)])
  | .vredor c d a m => some (pack 0x3B000001 [(c.toNat, 31), (d.toNat, 18), (a.toNat, 12), (m.toNat, 2)])
  | .vredxor c d a m => some (pack 0x3B000002 [(c.toNat, 31), (d.toNat, 18), (a.toNat, 12), (m.toNat, 2)])
  | .vscansum c d a m => some (pack 0x3C000000 [(c.toNat, 31), (d.toNat, 18), (a.toNat, 12), (m.toNat, 2)])
  | .vscanmax c d a m => some (pack 0x3C000001 [(c.toNat, 31), (d.toNat, 18), (a.toNat, 12), (m.toNat, 2)])
  | .vscanmin c d a m => some (pack 0x3C000002 [(c.toNat, 31), (d.toNat, 18), (a.toNat, 12), (m.toNat, 2)])
  | .vscansumX c d a m => some (pack 0x3D000000 [(c.toNat, 31), (d.toNat, 18), (a.toNat, 12), (m.toNat, 2)])
  | .vscanmaxX c d a m => some (pack 0x3D000001 [(c.toNat, 31), (d.toNat, 18), (a.toNat, 12), (m.toNat, 2)])
  | .vscanminX c d a m => some (pack 0x3D000002 [(c.toNat, 31), (d.toNat, 18), (a.toNat, 12), (m.toNat, 2)])
  | .vfoldSum c d a i => some (pack 0x3E00003C [(c.toNat, 31), (d.toNat, 18), (a.toNat, 12), (i.toNat, 6)])
  | .vfoldMax c d a i => some (pack 0x3E00003D [(c.toNat, 31), (d.toNat, 18), (a.toNat, 12), (i.toNat, 6)])
  | .vfoldMin c d a i => some (pack 0x3E00003E [(c.toNat, 31), (d.toNat, 18), (a.toNat, 12), (i.toNat, 6)])
  | .vcsx c d a m => some (pack 0x3F000000 [(c.toNat, 31), (d.toNat, 18), (a.toNat, 12), (m.toNat, 2)])
  | .vld c d b m => some (pack 0x48000000 [(c.toNat, 31), (d.toNat, 18), (b.toNat, 13), (m.toNat, 4)])
  | .vlds c d b s m => some (pack 0x49000000 [(c.toNat, 31), (d.toNat, 18), (b.toNat, 13), (s.toNat, 8), (m.toNat, 4)])
  | .vldb c d b m o => some (pack 0x4A000000 [(c.toNat, 31), (d.toNat, 18), (b.toNat, 13), (m.toNat, 4), (o.toNat, 0)])
  | .vldw c d b m x r => some (pack 0x4B000000 [(c.toNat, 31), (d.toNat, 18), (b.toNat, 13), (m.toNat, 4), (x.toNat, 3), (r.toNat, 0)])
  | .vldwScaled c d b s m x r => some (pack 0x4B000004 [(c.toNat, 31), (d.toNat, 18), (b.toNat, 13), (s.toNat, 8), (m.toNat, 4), (x.toNat, 3), (r.toNat, 0)])
  | .vst c d b m => some (pack 0x4C000000 [(c.toNat, 31), (d.toNat, 18), (b.toNat, 13), (m.toNat, 4)])
  | .vsts c d b s m => some (pack 0x4D000000 [(c.toNat, 31), (d.toNat, 18), (b.toNat, 13), (s.toNat, 8), (m.toNat, 4)])
  | .loopv n p => some (pack 0x4E0000F0 [(n.toNat, 13), (p.toNat, 0)])
  | .endv  => some (pack 0x4F0000F0 [])
  | .brkv m => some (pack 0x50000000 [(m.toNat, 4)])
  | .vbr m o => some (pack 0x51000000 [(m.toNat, 19), (o.toNat, 0)])
  | .vjoin  => some (pack 0x520000F0 [])
  | .plan x a b w => some (pack 0x54000000 [(x.toNat, 18), (a.toNat, 13), (b.toNat, 8), (w.toNat, 0)])
  | .papply v a b t r => some (pack 0x55000000 [(v.toNat, 18), (a.toNat, 13), (b.toNat, 8), (t.toNat, 4), (r.toNat, 1)])
  | .papplySpm x a b r => some (pack 0x55000001 [(x.toNat, 18), (a.toNat, 13), (b.toNat, 8), (r.toNat, 1)])
  | .pscat v a b m o => some (pack 0x56000000 [(v.toNat, 18), (a.toNat, 13), (b.toNat, 8), (m.toNat, 4), (o.toNat, 0)])
  | .pinv x a => some (pack 0x57000000 [(x.toNat, 18), (a.toNat, 13)])
  | .pcomp x a b => some (pack 0x58000000 [(x.toNat, 18), (a.toNat, 13), (b.toNat, 8)])
  | .pstat x a => some (pack 0x59000000 [(x.toNat, 18), (a.toNat, 13)])
  | .pfree a => some (pack 0x5A000000 [(a.toNat, 13)])
  | .pspill a => some (pack 0x5B000000 [(a.toNat, 13)])
  | .pfill a => some (pack 0x5B000001 [(a.toNat, 13)])
  | .mattach n => some (pack 0x5C000000 [(n.toNat, 4)])
  | .mdetach  => some (pack 0x5C000001 [])
  | .mdeclF32 s => some (pack 0x5D000000 [(s.toNat, 4)])
  | .mdeclI32 s => some (pack 0x5D000001 [(s.toNat, 4)])
  | .mdeclRank k s => some (pack 0x5D000002 [(k.toNat, 13), (s.toNat, 4)])
  | .mzero c s => some (pack 0x5E000000 [(c.toNat, 31), (s.toNat, 4)])
  | .mop c a b s r p => some (pack 0x5F000000 [(c.toNat, 31), (a.toNat, 18), (b.toNat, 12), (s.toNat, 8), (r.toNat, 5), (p.toNat, 0)])
  | .mopa c q b s r p => some (pack 0x60000000 [(c.toNat, 31), (q.toNat, 20), (b.toNat, 12), (s.toNat, 8), (r.toNat, 5), (p.toNat, 0)])
  | .mlda c a b s => some (pack 0x61000000 [(c.toNat, 31), (a.toNat, 13), (b.toNat, 8), (s.toNat, 4)])
  | .msta c a b s => some (pack 0x61000001 [(c.toNat, 31), (a.toNat, 13), (b.toNat, 8), (s.toNat, 4)])
  | .mrd c d a t s => some (pack 0x62000000 [(c.toNat, 31), (d.toNat, 18), (a.toNat, 13), (t.toNat, 4), (s.toNat, 0)])
  | .mrank c a t q => some (pack 0x63000000 [(c.toNat, 31), (a.toNat, 13), (t.toNat, 4), (q.toNat, 0)])
  | .mrmerge c a t => some (pack 0x64000000 [(c.toNat, 31), (a.toNat, 13), (t.toNat, 4)])
  | .mthr c d s => some (pack 0x65000000 [(c.toNat, 31), (d.toNat, 18), (s.toNat, 4)])
  | .mwait  => some (pack 0x66000000 [])
  | .stream x a n t v r => some (pack 0x68000000 [(x.toNat, 18), (a.toNat, 13), (n.toNat, 8), (t.toNat, 4), (v.toNat, 2), (r.toNat, 0)])
  | .streamReg d a t => some (pack 0x6800000F [(d.toNat, 18), (a.toNat, 13), (t.toNat, 4)])
  | .swalk x a n t v r => some (pack 0x69000000 [(x.toNat, 18), (a.toNat, 13), (n.toNat, 8), (t.toNat, 4), (v.toNat, 2), (r.toNat, 0)])
  | .scow x a n t v r => some (pack 0x6A000000 [(x.toNat, 18), (a.toNat, 13), (n.toNat, 8), (t.toNat, 4), (v.toNat, 2), (r.toNat, 0)])
  | .swaitRelease t => some (pack 0x6B000000 [(t.toNat, 4)])
  | .swaitVisible t => some (pack 0x6B000001 [(t.toNat, 4)])
  | .commit t => some (pack 0x6C000000 [(t.toNat, 4)])
  | .tdef x a b => some (pack 0x6D000000 [(x.toNat, 18), (a.toNat, 13), (b.toNat, 8)])
  | .tdec a b => some (pack 0x6E000000 [(a.toNat, 13), (b.toNat, 8)])
  | .tspawn x a b => some (pack 0x6F000000 [(x.toNat, 18), (a.toNat, 13), (b.toNat, 8)])
  | .evrd x => some (pack 0x70000000 [(x.toNat, 18)])
  | .evpost a b => some (pack 0x70000001 [(a.toNat, 13), (b.toNat, 8)])
  | .bar g => some (pack 0x71000000 [(g.toNat, 0)])
  | .mark m => some (pack 0x72000000 [(m.toNat, 8)])
  | .ttbind a b o => some (pack 0x73000000 [(a.toNat, 13), (b.toNat, 8), (o.toNat, 0)])
  | .ttstat x a => some (pack 0x74000000 [(x.toNat, 18), (a.toNat, 13)])
  | .tierpin a b => some (pack 0x75000000 [(a.toNat, 13), (b.toNat, 8)])
  | .tierfree a b => some (pack 0x75000001 [(a.toNat, 13), (b.toNat, 8)])
  | .rowsend v a b => some (pack 0x76000000 [(v.toNat, 18), (a.toNat, 13), (b.toNat, 8)])
  | .rowack x a => some (pack 0x77000000 [(x.toNat, 18), (a.toNat, 13)])
  | .arrwait a b => some (pack 0x78000000 [(a.toNat, 13), (b.toNat, 8)])
  | .replsel x a b => some (pack 0x79000000 [(x.toNat, 18), (a.toNat, 13), (b.toNat, 8)])
  | .ctxyield  => some (pack 0x7A000000 [])
  | .enchk x a => some (pack 0x7B000000 [(x.toNat, 18), (a.toNat, 13)])
  | .evConvoyStart _ => none
  | .evVseqAdvance _ _ => none
  | .evScalarResultWrite _ _ => none
  | .evVxlaneExchange _ _ => none
  | .evLandingDelivered _ _ => none
  | .evWaitSatisfied _ => none
  | .evEnter _ _ => none
  | .evTake _ _ => none
  | .evSend _ _ => none
  | .evPass _ => none
  | .evApply _ => none
  | .evDrop _ _ => none
  | .evAccept _ => none
  | .evEaccess _ _ => none
  | .evPoint _ _ => none
  | .evWriteback _ => none
  | .evTableLockRetry _ => none
  | .evPlanBuildComplete _ => none
  | .evTaskDispatch _ => none
  | .evTaskEnd _ => none
  | .evEventRecordDelivered _ => none
  | .evBarRelease _ _ => none
  | .evTimetableLineRead _ => none
  | .evTimetableEntryStart _ _ => none
  | .evTimetableEntryDone _ _ => none
  | .evMarkCheckComplete _ => none
  | .evRowArrive _ => none
  | .evRowCounterIncrement _ => none
  | .evRowAnswer _ => none
  | .evWindowBoundary  => none
  | .evReplayBoundary _ => none
  | .evPreemptSave _ => none
  | .evForcedPreemption _ => none
  | .evResume _ => none
  | .evTranslationWalk _ _ => none
  | .evLaunchPortWrite _ _ _ => none
  | .evLaunchPlace _ _ => none
  | .evLaunchEnd _ => none
  | .evTenantSetLive _ _ => none
  | .evTenantEnd _ => none
  | .evPartaddrWrite _ _ => none
  | .evShareWrite _ _ => none
  | .evCapujWrite _ => none
  | .evTvectWrite _ _ => none
  | .evPreemptWrite _ => none
  | .evRegisterWrite _ _ => none
  | .evShootdownCommand _ _ => none
  | .evShootdownComplete _ => none
  | .evHdmctlEnable _ => none
  | .evBiascmd _ => none
  | .evBiasFlipComplete  => none
  | .evMemrd _ => none
  | .evMemwr _ _ => none
  | .evMeminv _ => none
  | .evSnpdata _ => none
  | .evSnpinv _ => none
  | .evSnpcur _ => none
  | .evBirsp _ _ => none
  | .evBiconflict _ => none
  | .evRds _ _ => none
  | .evRdx _ _ => none
  | .evUpg _ _ => none
  | .evFwd _ => none
  | .evInv _ => none
  | .evBinv _ => none
  | .evData _ => none
  | .evWb _ _ => none
  | .evAck _ => none
  | .evDone _ => none
  | .evVexconFlitReceive _ _ => none
  | .evVexconPortDown _ => none
  | .evPeerRequest _ => none
  | .evDomctlEnable _ => none
  | .evPatrolScrub _ => none
  | .evDieLoss _ => none
  | .evRetclWrite _ => none
  | .evRetlgWrite _ _ => none
  | .evRepair _ _ => none
  | .evRepairComplete  => none
  | .evPowerOn  => none
  | .evConventionalReset  => none
  | .evAbruptReset  => none
  | .evPfReset  => none
  | .evVfReset _ => none
  | .evFeataccWrite _ _ => none
  | .evFeatctlLock  => none
  | .evGetVersion  => none
  | .evGetCapabilities  => none
  | .evNegotiateAlgorithms  => none
  | .evGetDigests  => none
  | .evGetCertificate  => none
  | .evChallenge _ => none
  | .evGetMeasurements _ _ => none
  | .evKeyExchange _ => none
  | .evMatrixWordComplete _ => none
  | .evUncorrectableError _ => none
  | .evDieLinkDown _ _ => none
  | .evHostLinkDown  => none
  | .evHostLinkTraining _ _ _ => none
  | .evPowerOff  => none

/-- The encoded word as 32 bits. -/
def encode (i : Instr) : Option (BitVec 32) := (encodeNat i).map (BitVec.ofNat 32)

end Sys2Proof
end

