-- ==== Sys2Proof/Machine/Bits.lean ====
section
/-! DEFINITION. Bit-field, two's-complement, byte-order and list helpers that every other file of the model uses.
Everything is structural recursion over numerals or lists, so the kernel can evaluate it. -/

namespace Sys2Proof.Machine

/-- Bits [lo, lo + n) of x (R26: x[h:l]). -/
def bits (x lo n : Nat) : Nat := (x >>> lo) % 2 ^ n

/-- Bit i of x. -/
def bit (x i : Nat) : Bool := Nat.testBit x i

/-- 1 for true. -/
def b2n (b : Bool) : Nat := if b then 1 else 0

/-- A w-bit code read as two's complement (R56). -/
def sgn (w x : Nat) : Int := if 2 * (x % 2 ^ w) < 2 ^ w then ((x % 2 ^ w : Nat) : Int) else ((x % 2 ^ w : Nat) : Int) - 2 ^ w

/-- The low w bits of an integer's two's complement. -/
def codeOf (w : Nat) (n : Int) : Nat := (n % (2 ^ w : Nat)).toNat

/-- SignExt(x, w) of R27: a w-bit field extended to 64 bits. -/
def sext64 (w x : Nat) : Word := BitVec.ofInt 64 (sgn w x)

/-- Ones among bits [0, n) of x. -/
def popN : Nat → Nat → Nat
  | 0, _ => 0
  | n + 1, x => popN n x + b2n (bit x n)

/-- Leading zero bits of a w-bit code. -/
def clzN (w x : Nat) : Nat := if x = 0 then w else w - 1 - Nat.log2 x

/-- Position of the lowest set bit of x among [i, i + n), or i + n. -/
def firstOne : Nat → Nat → Nat → Nat
  | 0, i, _ => i
  | n + 1, i, x => if bit x i then i else firstOne n (i + 1) x

/-- Trailing zero bits of a w-bit code. -/
def ctzN (w x : Nat) : Nat := firstOne w 0 x

/-- ceil(a / b). -/
def ceilDiv (a b : Nat) : Nat := (a + b - 1) / b

/-- ceil(log2 n) for n ≥ 1. -/
def clog2 (n : Nat) : Nat := if n ≤ 1 then 0 else Nat.log2 (n - 1) + 1

/-- floor(sqrt n), bit by bit from bit b down. -/
def isqrtFrom (n : Nat) : Nat → Nat → Nat
  | 0, r => if (r + 1) * (r + 1) ≤ n then r + 1 else r
  | b + 1, r => isqrtFrom n b (if (r + 2 ^ (b + 1)) * (r + 2 ^ (b + 1)) ≤ n then r + 2 ^ (b + 1) else r)

/-- floor(sqrt n). -/
def isqrt (n : Nat) : Nat := isqrtFrom n (Nat.log2 n / 2) 0

/-- The n bytes of x, lowest first. -/
def bytesLE : Nat → Nat → List Byte
  | 0, _ => []
  | n + 1, x => BitVec.ofNat 8 x :: bytesLE n (x / 256)

/-- The number whose bytes, lowest first, are bs. -/
def natLE : List Byte → Nat
  | [] => 0
  | b :: bs => b.toNat + 256 * natLE bs

/-- A string of w-bit codes, element 0 lowest (R46, R55). -/
def packCodes (w : Nat) : List Nat → Nat
  | [] => 0
  | x :: xs => x % 2 ^ w + 2 ^ w * packCodes w xs

/-- The first n w-bit codes of a string. -/
def unpackCodes (w : Nat) : Nat → Nat → List Nat
  | 0, _ => []
  | n + 1, x => x % 2 ^ w :: unpackCodes w n (x >>> w)

/-- A string of bits, bit 0 first. -/
def packBits : List Bool → Nat
  | [] => 0
  | b :: bs => b2n b + 2 * packBits bs

/-- Replaces entry i of a list. -/
def setNth (l : List α) (i : Nat) (x : α) : List α := l.set i x

/-- Entry i of a list of numbers, 0 outside it. -/
def nth0 (l : List Nat) (i : Nat) : Nat := l.getD i 0

/-- The value of key k in an association list. -/
def aget [BEq κ] (l : List (κ × α)) (k : κ) (d : α) : α := ((l.find? (fun p => p.1 == k)).map (·.2)).getD d

/-- An association list without key k. -/
def adel [BEq κ] (l : List (κ × α)) (k : κ) : List (κ × α) := l.filter (fun p => !(p.1 == k))

/-- An association list with key k at value x. -/
def aset [BEq κ] (l : List (κ × α)) (k : κ) (x : α) : List (κ × α) := (k, x) :: adel l k

/-- The sum of a list of numbers. -/
def sumN (l : List Nat) : Nat := l.foldl (· + ·) 0

/-- The largest of a list of numbers, 0 for none. -/
def maxN (l : List Nat) : Nat := l.foldl max 0

/-- The smallest of a list of numbers, d for none. -/
def minN (l : List Nat) (d : Nat) : Nat := l.foldl min d

/-- The entry with the least key, the first among equals. -/
def argMin (f : α → Nat) : List α → Option α
  | [] => none
  | x :: xs =>
    match argMin f xs with
    | none => some x
    | some y => if f y < f x then some y else some x

/-- Insertion into a list ascending in f; equal keys keep their order. -/
def insertBy (f : α → Nat) (x : α) : List α → List α
  | [] => [x]
  | y :: ys => if f x < f y then x :: y :: ys else y :: insertBy f x ys

/-- A list sorted ascending in f; equal keys keep their order. -/
def sortBy (f : α → Nat) (l : List α) : List α := l.foldl (fun acc x => insertBy f x acc) []

/-- A list without repeats, the first of each kept. -/
def dedupN (l : List Nat) : List Nat := l.foldl (fun acc x => if acc.contains x then acc else acc ++ [x]) []

/-- A 64-bit word from a number. -/
def w64 (n : Nat) : Word := BitVec.ofNat 64 n

/-- Bits [lo, lo + n) of a word. -/
def wbits (x : Word) (lo n : Nat) : Nat := bits x.toNat lo n

/-- A field at its place. -/
def fieldAt (x lo : Nat) : Nat := x <<< lo

end Sys2Proof.Machine
end

