-- ==== Sys2Proof/Machine/Float.lean ====
section
/-! DEFINITION. Number formats, exact values and Convert: R37, R55 to R68, and the exact results of R126 to R129
that are no sums or products. -/

namespace Sys2Proof.Machine

/-- An exact value (R62): NaN, an infinity, or ±(m + ε) × 2^e, where ε is 0, or, when `st` is set, some number
strictly between 0 and 1 (an inexact quotient or power, whose m then has more bits than any format keeps). -/
inductive FVal where
  | nan
  | inf (neg : Bool)
  | fin (neg : Bool) (m : Nat) (e : Int) (st : Bool)
  deriving DecidableEq, Repr

/-- The rounding modes (R36, R62). -/
inductive RMode where
  | rne | rtz | rdn | rup
  deriving DecidableEq, Repr

/-- VTYPE.RM. -/
def rmodeOf : Nat → RMode
  | 0 => .rne
  | 1 => .rtz
  | 2 => .rdn
  | _ => .rup

/-- A floating layout (R57): exponent and mantissa bits, bias, bits below the code that are zero (fx19), whether
it has infinities, the magnitude codes of its NaN and of its largest finite number. -/
structure FFmt where
  eb : Nat
  mb : Nat
  bias : Nat
  low : Nat
  hasInf : Bool
  nan : Option Nat
  maxc : Nat
  deriving DecidableEq, Repr

/-- An element encoding. -/
inductive EFmt where
  | flt (f : FFmt)
  | int (w : Nat) (signed : Bool)
  | pair
  deriving DecidableEq, Repr

def ieeeFmt (eb mb low : Nat) : FFmt :=
  ⟨eb, mb, 2 ^ (eb - 1) - 1, low, true, some ((2 ^ eb - 1) * 2 ^ mb + 2 ^ (mb - 1)), (2 ^ eb - 1) * 2 ^ mb - 1⟩

def f64F : FFmt := ieeeFmt 11 52 0
def f32F : FFmt := ieeeFmt 8 23 0
def fx19F : FFmt := ieeeFmt 8 10 13
def bf16F : FFmt := ieeeFmt 8 7 0
def f16F : FFmt := ieeeFmt 5 10 0
def e5m2F : FFmt := ieeeFmt 5 2 0
def e4m3F : FFmt := ⟨4, 3, 7, 0, false, some 0x7F, 0x7E⟩
def e3m2F : FFmt := ⟨3, 2, 3, 0, false, none, 0x1F⟩
def e2m3F : FFmt := ⟨2, 3, 1, 0, false, none, 0x1F⟩
def e2m1F : FFmt := ⟨2, 1, 1, 0, false, none, 0x7⟩

/-- The format codes of R37; none for a reserved code. -/
def fmtOf : Nat → Option EFmt
  | 0 => some (.flt f32F)
  | 1 => some (.flt fx19F)
  | 2 => some (.flt bf16F)
  | 3 => some (.flt f16F)
  | 4 => some (.flt e4m3F)
  | 5 => some (.flt e5m2F)
  | 6 => some (.flt e3m2F)
  | 7 => some (.flt e2m3F)
  | 8 => some (.flt e2m1F)
  | 9 => some (.int 16 true)
  | 10 => some (.int 8 true)
  | 11 => some (.int 8 false)
  | 12 => some (.int 6 true)
  | 13 => some (.int 4 true)
  | 14 => some .pair
  | 15 => some .pair
  | 16 => some (.flt e4m3F)
  | 17 => some (.flt e5m2F)
  | 18 => some (.flt e3m2F)
  | 19 => some (.flt e2m3F)
  | 20 => some (.flt e2m1F)
  | 21 => some (.int 8 true)
  | 22 => some (.int 8 false)
  | 23 => some (.int 6 true)
  | 24 => some (.int 4 true)
  | 25 => some (.flt e2m1F)
  | 26 => some (.int 4 true)
  | 27 => some (.int 16 true)
  | 32 => some (.int 32 true)
  | 33 => some (.int 32 false)
  | 34 => some (.int 64 true)
  | 35 => some (.int 64 false)
  | 36 => some (.int 16 false)
  | 37 => some (.flt f64F)
  | _ => none

/-- The element encoding of a code (R37); a reserved code never stands in VTYPE (R38). -/
def efmt (c : Nat) : EFmt := (fmtOf c).getD (.int 32 true)

/-- The element width of a code, R37. -/
def fwidth (c : Nat) : Nat :=
  match efmt c with
  | .flt f => 1 + f.eb + f.mb + f.low
  | .int w _ => w
  | .pair => 4

/-- Codes with a block scale (R37): 15 to 27. -/
def isScaled (c : Nat) : Bool := decide (15 ≤ c ∧ c ≤ 27)

/-- Codes whose scale is unsigned E4M3 (`:e43`). -/
def isE43 (c : Nat) : Bool := c == 25 || c == 26

/-- Classes of R83. -/
def classN (c : Nat) : Bool := decide (c ≤ 13) || decide (32 ≤ c ∧ c ≤ 37)
def classI (c : Nat) : Bool := decide (9 ≤ c ∧ c ≤ 13) || decide (32 ≤ c ∧ c ≤ 36)
def classF (c : Nat) : Bool := decide (c ≤ 8) || c == 37
def classS (c : Nat) : Bool := decide (14 ≤ c ∧ c ≤ 27)
def classD (c : Nat) : Bool := (fmtOf c).isSome

/-- The exact value of an integer. -/
def FVal.ofInt (n : Int) : FVal := .fin (decide (n < 0)) n.natAbs 0 false

/-- +0. -/
def FVal.zero : FVal := .fin false 0 0 false

/-- 1. -/
def FVal.one : FVal := .fin false 1 0 false

/-- Whether the value is a NaN. -/
def FVal.isNan : FVal → Bool
  | .nan => true
  | _ => false

/-- Whether the value is zero. -/
def FVal.isZero : FVal → Bool
  | .fin _ m _ st => m == 0 && !st
  | _ => false

/-- The sign bit, false for NaN. -/
def FVal.sign : FVal → Bool
  | .nan => false
  | .inf n => n
  | .fin n _ _ _ => n

/-- The value with its sign changed. -/
def FVal.neg : FVal → FVal
  | .nan => .nan
  | .inf n => .inf (!n)
  | .fin n m e st => .fin (!n) m e st

/-- abs(x). -/
def FVal.abs : FVal → FVal
  | .nan => .nan
  | .inf _ => .inf false
  | .fin _ m e st => .fin false m e st

/-- The signed integer m × 2^e / 2^e0, for e0 ≤ e. -/
def scaledInt (neg : Bool) (m : Nat) (e e0 : Int) : Int :=
  let k : Int := ((m <<< (e - e0).toNat : Nat) : Int)
  if neg then -k else k

/-- Exact sum (R68). An exact zero sum of unlike signs is +0, and −0 under RDN, by the IEEE rules R68 names. -/
def FVal.add (mode : RMode) : FVal → FVal → FVal
  | .nan, _ => .nan
  | _, .nan => .nan
  | .inf a, .inf b => if a = b then .inf a else .nan
  | .inf a, .fin .. => .inf a
  | .fin .., .inf b => .inf b
  | .fin n1 m1 e1 _, .fin n2 m2 e2 _ =>
    if m1 = 0 ∧ m2 = 0 then .fin (if n1 = n2 then n1 else decide (mode = .rdn)) 0 0 false
    else
      let e := min e1 e2
      let t := scaledInt n1 m1 e1 e + scaledInt n2 m2 e2 e
      if t = 0 then .fin (decide (mode = .rdn)) 0 0 false
      else .fin (decide (t < 0)) t.natAbs e false

/-- Exact product (R68). -/
def FVal.mul : FVal → FVal → FVal
  | .nan, _ => .nan
  | _, .nan => .nan
  | .inf a, .inf b => .inf (a != b)
  | .inf a, .fin b m _ _ => if m = 0 then .nan else .inf (a != b)
  | .fin a m _ _, .inf b => if m = 0 then .nan else .inf (a != b)
  | .fin a m1 e1 _, .fin b m2 e2 _ => .fin (a != b) (m1 * m2) (e1 + e2) false

/-- The IEEE quotient (R127), with at least 128 significant bits and 4 bits below the unit, and the rest as `st`: what
rounding to any format, or to an integer that wraps, looks at. -/
def FVal.div : FVal → FVal → FVal
  | .nan, _ => .nan
  | _, .nan => .nan
  | .inf _, .inf _ => .nan
  | .inf a, .fin b _ _ _ => .inf (a != b)
  | .fin a _ _ _, .inf b => .fin (a != b) 0 0 false
  | .fin a m1 e1 _, .fin b m2 e2 _ =>
    if m2 = 0 then (if m1 = 0 then .nan else .inf (a != b))
    else
      let k := max (128 + Nat.log2 m2) (e1 - e2 + 4).toNat
      let q := (m1 <<< k) / m2
      .fin (a != b) q (e1 - e2 - (k : Int)) (decide ((m1 <<< k) % m2 ≠ 0))

/-- Exact comparison of two numbers that are no NaN: less, equal, greater. -/
def FVal.cmp : FVal → FVal → Ordering
  | .inf a, .inf b => if a = b then .eq else if a then .lt else .gt
  | .inf a, _ => if a then .lt else .gt
  | _, .inf b => if b then .gt else .lt
  | .fin n1 m1 e1 _, .fin n2 m2 e2 _ =>
    let e := min e1 e2
    compare (scaledInt n1 m1 e1 e) (scaledInt n2 m2 e2 e)
  | _, _ => .eq

def FVal.lt (a b : FVal) : Bool := a.cmp b == .lt
def FVal.eqv (a b : FVal) : Bool := a.cmp b == .eq

/-- The larger or smaller of two values by R126. -/
def FVal.pick (wantMax : Bool) (a b : FVal) : FVal :=
  if a.isNan then b
  else if b.isNan then a
  else if a.isZero && b.isZero then (if wantMax then .fin (a.sign && b.sign) 0 0 false else .fin (a.sign || b.sign) 0 0 false)
  else if wantMax then (if a.lt b then b else a)
  else (if b.lt a then b else a)

/-- x truncated toward zero to 8 significant bits (R129), for a magnitude of at least 8 bits. -/
def trunc8 (n : Bool) (q : Nat) (e : Int) : FVal :=
  let k := Nat.log2 q - 7
  .fin n (q >>> k) (e + (k : Int)) false

/-- E(1 / a), R129. -/
def FVal.recip8 : FVal → FVal
  | .nan => .nan
  | .inf n => .fin n 0 0 false
  | .fin n m e _ =>
    if m = 0 then .inf n
    else
      let k := 16 + Nat.log2 m
      trunc8 n ((1 <<< k) / m) (-e - (k : Int))

/-- E(1 / sqrt(a)), R129. With a = m × 2^e and e even, floor(2^k / sqrt m) is isqrt(2^(2k) / m). -/
def FVal.rsqrt8 : FVal → FVal
  | .nan => .nan
  | .inf n => if n then .nan else .fin false 0 0 false
  | .fin n m e _ =>
    if m = 0 then .inf n
    else if n then .nan
    else
      let odd := e % 2 ≠ 0
      let m' := if odd then 2 * m else m
      let e' := if odd then e - 1 else e
      let k := 16 + Nat.log2 m'
      trunc8 false (isqrt ((1 <<< (2 * k)) / m')) (-(e' / 2) - (k : Int))

/-- Working bits of VFEXP2. -/
def expBits : Nat := 192

/-- 2^(b_1/2 + b_2/4 + …) × 2^expBits, cut down to an integer at each factor; `frac` holds the bits b_1 b_2 … from
its bit n − 1 down, `root` is 2^(2^−i) × 2^expBits. -/
def expFrac : Nat → Nat → Nat → Nat → Nat
  | 0, _, _, acc => acc
  | n + 1, frac, root, acc =>
    let r := isqrt (root <<< expBits)
    expFrac n frac r (if bit frac n then (acc * r) >>> expBits else acc)

/-- 2^a, R129: 192 significant bits and the rest as `st` (log 20). Powers far outside every format are cut to
2^±6000, which every format rounds alike. -/
def FVal.exp2 : FVal → FVal
  | .nan => .nan
  | .inf n => if n then .zero else .inf false
  | .fin n m e _ =>
    if m = 0 then .fin false 1 0 false
    else if (Nat.log2 m : Int) + e ≥ 12 then .fin false 1 (if n then -6000 else 6000) false
    else if e ≥ 0 then .fin false 1 (if n then -((m <<< e.toNat : Nat) : Int) else ((m <<< e.toNat : Nat) : Int)) false
    else
      let s := (-e).toNat
      let v : Int := if n then -(m : Int) else (m : Int)
      let whole := v / ((2 ^ s : Nat) : Int)
      let frac := (v % ((2 ^ s : Nat) : Int)).toNat
      if frac = 0 then .fin false 1 whole false
      else
        -- bits of the fraction below 2^−200 only decide `st`
        let s' := min s 200
        .fin false (expFrac s' (frac >>> (s - s')) (2 <<< expBits) (1 <<< expBits)) (whole - (expBits : Int)) true

/-- Whether a magnitude cut at a unit is raised by one unit: `half` the bit below the unit, `rest` whether anything
lies below that. -/
def roundsUp (mode : RMode) (neg odd half rest : Bool) : Bool :=
  match mode with
  | .rne => half && (rest || odd)
  | .rtz => false
  | .rdn => neg && (half || rest)
  | .rup => !neg && (half || rest)

/-- The magnitude (m + ε) × 2^e in units of 2^q, rounded. -/
def roundAt (mode : RMode) (neg : Bool) (m : Nat) (e q : Int) (st : Bool) : Nat :=
  if q ≤ e then m <<< (e - q).toNat
  else
    let k := (q - e).toNat
    let n := m >>> k
    let half := bit m (k - 1)
    let rest := st || decide (m % 2 ^ (k - 1) ≠ 0)
    if roundsUp mode neg (bit n 0) half rest then n + 1 else n

/-- RoundInt(x, mode) of R62, for a finite x. -/
def roundInt (mode : RMode) : FVal → Int
  | .fin n m e st =>
    let k : Int := (roundAt mode n m e 0 st : Nat)
    if n then -k else k
  | _ => 0

/-- IMax and IMin of R56. -/
def iMax (w : Nat) (signed : Bool) : Int := if signed then 2 ^ (w - 1) - 1 else 2 ^ w - 1
def iMin (w : Nat) (signed : Bool) : Int := if signed then -2 ^ (w - 1) else 0

/-- An integer in w bits: saturated or wrapped (R62). -/
def convertInt (w : Nat) (signed sat : Bool) (n : Int) : Nat :=
  codeOf w (if sat then min (max n (iMin w signed)) (iMax w signed) else n)

/-- A magnitude code with its sign, at its place in the container. -/
def FFmt.code (f : FFmt) (neg : Bool) (mag : Nat) : Nat := (b2n neg * 2 ^ (f.eb + f.mb) + mag) <<< f.low

/-- The infinity's magnitude code. -/
def FFmt.infc (f : FFmt) : Nat := (2 ^ f.eb - 1) * 2 ^ f.mb

/-- What an overflow or an infinity becomes where R62 gives infinity. -/
def FFmt.toInf (f : FFmt) (neg : Bool) : Nat :=
  if f.hasInf then f.code neg f.infc
  else
    match f.nan with
    | some c => f.code false c
    | none => f.code neg f.maxc

/-- Convert(x, fmt, mode, sat) for a floating format, R62. -/
def convertFlt (f : FFmt) (mode : RMode) (sat : Bool) : FVal → Nat
  | .nan =>
    match f.nan with
    | some c => f.code false c
    | none => 0
  | .inf n => if sat then f.code n f.maxc else f.toInf n
  | .fin n m e st =>
    if m = 0 then f.code n 0
    else
      let qmin : Int := 1 - (f.bias : Int) - (f.mb : Int)
      let q := max ((Nat.log2 m : Int) + e - (f.mb : Int)) qmin
      let k := roundAt mode n m e q st
      -- k ≤ 2^(mb + 1); the code counts 2^mb steps for each unit of q above qmin
      let mag := k + (q - qmin).toNat * 2 ^ f.mb
      if mag ≤ f.maxc then f.code n mag
      else if sat || (f.nan.isNone) then f.code n f.maxc
      else
        match mode with
        | .rne => f.toInf n
        | .rtz => f.code n f.maxc
        | .rdn => if n then f.toInf n else f.code n f.maxc
        | .rup => if n then f.code n f.maxc else f.toInf n

/-- Convert(x, fmt, mode, sat) of R62 for the format codes that convert one element at a time. -/
def convertE (ef : EFmt) (mode : RMode) (sat : Bool) (x : FVal) : Nat :=
  match ef with
  | .flt f => convertFlt f mode sat x
  | .int w sg =>
    match x with
    | .nan => 0
    | .inf n => if sat then codeOf w (if n then iMin w sg else iMax w sg) else 0
    | .fin .. => convertInt w sg sat (roundInt mode x)
  | .pair => 0

/-- Convert to a format code. -/
def convert (c : Nat) (mode : RMode) (sat : Bool) (x : FVal) : Nat := convertE (efmt c) mode sat x

/-- The exact value of a floating code, R58. -/
def FFmt.val (f : FFmt) (code : Nat) : FVal :=
  let c := code >>> f.low
  let neg := bit c (f.eb + f.mb)
  let mag := c % 2 ^ (f.eb + f.mb)
  let ef := mag >>> f.mb
  let mant := mag % 2 ^ f.mb
  if f.hasInf && ef == 2 ^ f.eb - 1 then (if mant = 0 then .inf neg else .nan)
  else if !f.hasInf && f.nan == some mag then .nan
  else if ef = 0 then .fin neg mant (1 - (f.bias : Int) - (f.mb : Int)) false
  else .fin neg (2 ^ f.mb + mant) ((ef : Int) - (f.bias : Int) - (f.mb : Int)) false

/-- The exact value of one code of an encoding that is no pair encoding. -/
def EFmt.val (ef : EFmt) (code : Nat) : FVal :=
  match ef with
  | .flt f => f.val code
  | .int w sg => .ofInt (if sg then sgn w code else ((code % 2 ^ w : Nat) : Int))
  | .pair => .zero

/-- DecodePair of R66: the two values, position 2j first. -/
def decodePair (lo hi : Nat) : FVal × FVal :=
  let outv (vic : Nat) : FVal := .fin (bit vic 3) (2 ^ (3 + vic % 8)) 0 false
  if lo % 16 = 8 then (outv (hi % 16), .zero)
  else if hi % 16 = 8 then (.zero, outv (lo % 16))
  else (.ofInt (sgn 4 lo), .ofInt (sgn 4 hi))

/-- A scale byte: E8M0 (R63) or unsigned E4M3 (R64). -/
def scaleVal (e43 : Bool) (c : Nat) : FVal :=
  if e43 then (if c ≥ 0x7F then .nan else e4m3F.val c)
  else if c = 255 then .nan else .fin false 1 ((c : Int) - 127) false

/-- The value of element i of an operand of a format from its codes, before its block's scale (R58, R66). -/
def elemCode (c : Nat) (code : Nat → Nat) (i : Nat) : FVal :=
  match efmt c with
  | .pair =>
    let p := decodePair (code (2 * (i / 2))) (code (2 * (i / 2) + 1))
    if i % 2 = 0 then p.1 else p.2
  | ef => ef.val (code i)

/-- The value of element i of an operand of a format (R58, R65, R66), its codes and its blocks' scale bytes given. -/
def elemVal (c : Nat) (code : Nat → Nat) (scale : Nat → Nat) (i : Nat) : FVal :=
  if isScaled c then (elemCode c code i).mul (scaleVal (isE43 c) (scale (i / 64))) else elemCode c code i

/-- floor(log2 |x|) for a finite x that is not 0. -/
def FVal.flog2 : FVal → Int
  | .fin _ m e _ => (Nat.log2 m : Int) + e
  | _ => 0

/-- Whether PairEncode keeps a value as an integer of magnitude 7 or less (R67). -/
def smallInPair (mode : RMode) : FVal → Bool
  | .inf _ => false
  | x => decide ((roundInt mode x).natAbs ≤ 7)

/-- PairEncode of R67: the low and the high code. NaN counts as 0, and in m an infinity as 1,024. -/
def pairEncode (mode : RMode) (a b : FVal) : Nat × Nat :=
  let a := if a.isNan then .zero else a
  let b := if b.isNan then .zero else b
  if smallInPair mode a && smallInPair mode b then (codeOf 4 (roundInt mode a), codeOf 4 (roundInt mode b))
  else
    let low := !(a.abs.lt b.abs)
    let x := if low then a else b
    let m := match x with | .inf _ => .fin false 1024 0 false | y => y.abs
    let e0 := (min (max (m.flog2 - 3) 0) 7).toNat
    let up := decide (e0 < 7) &&
      FVal.lt (FVal.add .rne (.fin false (2 ^ (4 + e0)) 0 false) m.neg) (FVal.add .rne m (.fin true (2 ^ (3 + e0)) 0 false))
    let e := if up then e0 + 1 else e0
    let vic := b2n x.sign * 8 + e
    if low then (8, vic) else (vic, 8)

/-- PairEncode over a list from element 0; a missing partner counts as 0. -/
def pairEncodeList (mode : RMode) : List FVal → List Nat
  | [] => []
  | [a] => [(pairEncode mode a .zero).1]
  | a :: b :: rest =>
    let p := pairEncode mode a b
    p.1 :: p.2 :: pairEncodeList mode rest

/-- The format's lowest and highest value as codes (R27): −∞ and +∞ where the format has them, else the bounds
of R56 and R57. -/
def lowestCode (c : Nat) : Nat :=
  match efmt c with
  | .flt f => if f.hasInf then f.code true f.infc else f.code true f.maxc
  | .int w sg => codeOf w (iMin w sg)
  | .pair => 0

def highestCode (c : Nat) : Nat :=
  match efmt c with
  | .flt f => if f.hasInf then f.code false f.infc else f.code false f.maxc
  | .int w sg => codeOf w (iMax w sg)
  | .pair => 0

/-- The operations of nodes (R69 to R71). -/
inductive NodeOp where
  | sum | max | min
  deriving DecidableEq, Repr

/-- Node(op, a, b) on codes: one Convert (R68, R69). -/
def nodeCode (c : Nat) (mode : RMode) (sat : Bool) (op : NodeOp) (a b : Nat) : Nat :=
  let va := (efmt c).val a
  let vb := (efmt c).val b
  convert c mode sat
    (match op with
     | .sum => va.add mode vb
     | .max => va.pick true vb
     | .min => va.pick false vb)

/-- Identity(op) as a code (R27). -/
def identityCode (c : Nat) : NodeOp → Nat
  | .sum => 0
  | .max => lowestCode c
  | .min => highestCode c

/-- One pass of Tree: adjacent pairs combine, an odd last one is carried (R69). -/
def treePass (f : Nat → Nat → Nat) : List Nat → List Nat
  | a :: b :: rest => f a b :: treePass f rest
  | l => l

/-- Tree(x, n, op) of R69; `fuel` passes suffice when 2^fuel is at least the length. -/
def treeFrom (f : Nat → Nat → Nat) : Nat → List Nat → List Nat
  | 0, l => l
  | k + 1, l => treeFrom f k (treePass f l)

/-- Tree over a list, the identity for none. -/
def tree (f : Nat → Nat → Nat) (ident : Nat) (l : List Nat) : Nat :=
  (treeFrom f (clog2 l.length) l).headD ident

/-- Combines two chunks position by position; positions the second lacks keep the first's value. -/
def chunkAdd (f : Nat → Nat → Nat) : List Nat → List Nat → List Nat
  | a :: as, b :: bs => f a b :: chunkAdd f as bs
  | as, [] => as
  | [], _ => []

/-- The chunks of t positions of a list, at most `fuel` of them. -/
def chunksOf (t : Nat) : Nat → List α → List (List α)
  | 0, _ => []
  | k + 1, l => if l.isEmpty then [] else l.take t :: chunksOf t k (l.drop t)

/-- One pass of Fold: the chunks from h up are added into those from 0 up (R71). -/
def foldPass (f : Nat → Nat → Nat) (cs : List (List Nat)) : List (List Nat) :=
  let h := (cs.length + 1) / 2
  let hi := cs.drop h
  (cs.take h).zipIdx.map (fun p => match hi[p.2]? with | some b => chunkAdd f p.1 b | none => p.1)

def foldFrom (f : Nat → Nat → Nat) : Nat → List (List Nat) → List (List Nat)
  | 0, cs => cs
  | k + 1, cs => foldFrom f k (if cs.length ≤ 1 then cs else foldPass f cs)

/-- Fold of a list of chunks, R71. -/
def foldChunks (f : Nat → Nat → Nat) (cs : List (List Nat)) : List Nat :=
  (foldFrom f (clog2 cs.length + 1) cs).headD []

/-- Fold(x, n, t, op) of R71. -/
def foldR71 (f : Nat → Nat → Nat) (t : Nat) (l : List Nat) : List Nat :=
  foldChunks f (chunksOf t (ceilDiv l.length t) l)

/-- A scan of R70 over codes: the running values, one per element, from a start value. -/
def scanFrom (f : Nat → Nat → Nat) (acc : Nat) : List Nat → List Nat
  | [] => []
  | x :: xs => let y := f acc x; y :: scanFrom f y xs

end Sys2Proof.Machine
end

