-- ==== Sys2Proof/Machine/Mem.lean ====
section
/-! DEFINITION. Memory as a list of (address, byte) pairs: addresses strictly rising, no entry equal to 0x00,
which is what an unlisted address reads as (log 1). The physical byte addresses are the module's PA below 2^52
(R9), then the TCMs and the scratchpads, which have no PA (log 2). -/

namespace Sys2Proof.Machine

abbrev Memory := List Host.Cell

/-- What a byte that nothing has written reads as (log 1: DESIGN CHOICE). -/
def unlisted : Byte := 0

/-- The byte at an address. -/
def Memory.get (m : Memory) (a : Nat) : Byte :=
  match m with
  | [] => unlisted
  | (b, x) :: rest => if b = a then x else Memory.get rest a

/-- The memory with one byte written; an entry equal to the unlisted byte is removed. -/
def Memory.set (m : Memory) (a : Nat) (x : Byte) : Memory :=
  match m with
  | [] => if x = unlisted then [] else [(a, x)]
  | (b, y) :: rest =>
    if a < b then (if x = unlisted then (b, y) :: rest else (a, x) :: (b, y) :: rest)
    else if a = b then (if x = unlisted then rest else (a, x) :: rest)
    else (b, y) :: Memory.set rest a x

/-- Every address of m is above a, addresses rise strictly, and no entry is the unlisted byte. -/
def Memory.wfFrom : Memory → Nat → Bool
  | [], _ => true
  | (b, y) :: rest, a => decide (a ≤ b) && decide (y ≠ unlisted) && Memory.wfFrom rest (b + 1)

/-- The canonical form. -/
def Memory.wf (m : Memory) : Bool := Memory.wfFrom m 0

/-- Bytes from an address up. -/
def Memory.getN (m : Memory) (a : Nat) : Nat → List Byte
  | 0 => []
  | n + 1 => Memory.get m a :: Memory.getN m (a + 1) n

/-- Writes bytes from an address up. -/
def Memory.setN (m : Memory) (a : Nat) : List Byte → Memory
  | [] => m
  | x :: xs => Memory.setN (Memory.set m a x) (a + 1) xs

/-- Writes the bits of data that en enables into the 8-byte word at a (R154, R203). -/
def Memory.setWord (m : Memory) (a data en : Nat) : Memory :=
  (List.range 8).foldl (fun m i =>
    let e := bits en (8 * i) 8
    if e = 0 then m else
      let old := (Memory.get m (a + i)).toNat
      Memory.set m (a + i) (BitVec.ofNat 8 ((old &&& (255 - e)) ||| (bits data (8 * i) 8 &&& e)))) m

/-- Base of the TCM bytes in the model's physical address space: core c of the module (0 to 255) at
2^52 + c × 2^18 (log 2). -/
def tcmBase : Nat := 2 ^ 52

/-- Base of the scratchpads: cluster c of the module (0 to 63) at 2^53 + c × 2^22 (log 2). -/
def spmBase : Nat := 2 ^ 53

end Sys2Proof.Machine
end

