-- ==== Sys2Proof/Machine/State.lean ====
section
/-! DEFINITION. Everything the spec gives the machine to hold, as plain data, and the machine right after reset.
`State.me` is the flow whose turn it is, `State.rest` the other flows that a launch has placed; `State.sched`
says which part of the device moves next where the environment has an opinion (see Step.lean). -/

namespace Sys2Proof.Machine

/-- The reasons the model stops. -/
inductive Fault where
  /-- Raised by `step` alone: the module has no power (R6), so no part of it takes a step. Safe: nothing is
  claimed of a module without power. -/
  | poweredOff
  deriving DecidableEq, Repr

/-- The refusals. -/
inductive Refusal where
  /-- An instruction that has no meaning yet, by its mnemonic; raised by exec's arm alone. Safe: nothing can be
  proved of it. -/
  | notModelled (mnemonic : String)
  deriving DecidableEq, Repr

/-- Where a flow runs (R44). -/
structure Loc where
  die : Nat
  cluster : Nat
  core : Nat
  fid : Nat
  deriving DecidableEq, Repr

/-- What a Waiting flow waits for (R178). -/
inductive WaitCond where
  | wfe
  /-- A SETVL, or a LOOPV, that waits for its grant. -/
  | grant (loop : Bool)
  | bar (group inst : Nat)
  | vxlane (partner inst : Nat) (vd va : Nat)
  | commit (tag : Nat)
  | swait (tag : Nat) (visible : Bool)
  | arrwait (addr expect : Nat)
  deriving DecidableEq, Repr

/-- The states of a hardware flow (R178). -/
inductive FlowStatus where
  | free | idle | running | waiting (w : WaitCond) | saved
  deriving DecidableEq, Repr

/-- The converted elements a VLDW `.mx` left in the matrix feed, marked with its register (R157, R271):
per position the code, or none where nothing was fed. -/
structure Feed where
  reg : Nat
  elems : List (Option Nat)
  deriving DecidableEq, Repr

/-- The open convoy of a flow (R79 to R82). `fresh`: the next word starts a convoy whatever its C bit (R82). -/
structure Convoy where
  isOpen : Bool
  fresh : Bool
  words : Nat
  a : Nat
  l : Nat
  s : Nat
  p : Nat
  x : Nat
  feed : Option Feed
  deriving DecidableEq, Repr

/-- The operations of an AMO (R107). -/
inductive AmoKind where
  | swap | add | and | or | max | min | cas
  deriving DecidableEq, Repr

/-- What an AMO that waits in the strip buffer does at its APPLY (R107): operation, operand, expected value, acquire,
release, scope. -/
structure AmoReq where
  kind : AmoKind
  opnd : Nat
  expect : Nat
  acq : Bool
  rel : Bool
  scope : Nat
  deriving DecidableEq, Repr

/-- One access of a flow (R194, R203). A store covers one naturally aligned 8-byte word: `data` where `en` has
ones. A load delivers `size` bytes at `addr`, for a scalar load to register `dst`, and fills the L1 unless its page is
uncached (`fill`, R393); so does an AMO, which is a load with `amo` set. `seq` is its place in program order, `va` its
virtual address, `vec` whether a vector word made it (R94), `grain` its page's (R410). The access of an engine has its cluster as
`ival`; a write-back is of the one byte at `addr`. -/
structure Access where
  load : Bool
  seq : Nat
  ival : Nat
  addr : Nat
  data : Word
  en : Word
  key : Nat
  dst : Nat
  size : Nat
  sext : Bool
  fill : Bool
  va : Nat
  grain : Nat
  vec : Bool
  amo : Option AmoReq
  deriving DecidableEq, Repr

/-- A FENCE whose earlier accesses have not all performed at its scope (R200): those of smaller `seq` are earlier.
Earlier loads and stores, later loads and stores, engine commands. -/
structure FenceRec where
  seq : Nat
  pr : Bool
  pw : Bool
  qr : Bool
  qw : Bool
  e : Bool
  scope : Nat
  deriving DecidableEq, Repr

/-- The queues an access passes (R194, R196). -/
inductive QueueId where
  | tcm (core : Nat)
  | bank (cluster bank : Nat)
  | slice (die slice : Nat)
  | dieLink (src dst : Nat)
  | peer (dev : Nat)
  /-- HQ, towards the host or from it. -/
  | host (toDev : Bool)
  deriving DecidableEq, Repr

/-- Who issued an access on its way. -/
inductive Origin where
  | flow (k : FlowKey) (core : Nat)
  | job (id : Nat)
  | row (id : Nat)
  | device
  /-- A write-back of a byte of W_n (R439): who must see it performed, the tag it goes under, and the tenant it is logged by. -/
  | back (owe : List FlowKey) (tag tenant : Nat)
  /-- The posted write of an MSI-X vector of a function (R433). -/
  | msi (fn v : Nat)
  deriving DecidableEq, Repr

/-- An access on its way: the queues it has still to leave, the one it stands in first. The order of the list
that holds it is the order of arrival. -/
structure Flight where
  path : List QueueId
  acc : Access
  origin : Origin
  deriving DecidableEq, Repr

/-- A store of the open strip, waiting in the vector store queue with the position of each write (R163, R170), and the
address of its word where a fault stopped it: the word that runs again takes no entries a second time. -/
structure WaitStore where
  entries : Nat
  writes : List (Nat × Access)
  part : Option Word
  deriving DecidableEq, Repr

/-- A landing-buffer entry (R51): destination group, element width, recorded VL, the positions it will write and
their codes, the positions inside the active set at issue, and VTYPE.MP. `src` is the word whose fault left the
entry unfinished (R243). -/
structure Landing where
  dst : Nat
  grp : Nat
  width : Nat
  vl : Nat
  wrote : MReg
  act : MReg
  data : List (Nat × Nat)
  mz : Bool
  src : Option Word
  complete : Bool
  deriving DecidableEq, Repr

/-- The states of a transfer tag (R51). -/
inductive TagSt where
  | free | pending (e : Landing) | landed (e : Landing) | lost
  deriving DecidableEq, Repr

/-- The record of an open strip loop (R165). `carried`: the first register of each carried group and its
operation, 0 sum, 1 max, 2 min; `cgrp`: the registers of such a group. -/
structure LoopRec where
  n : BitVec 5
  body : Word
  par : Bool
  strip : Nat
  carried : List (Nat × Nat)
  cgrp : Nat
  deriving DecidableEq, Repr

/-- An entry of the pending-fragment buffer (R173). -/
inductive Frag where
  | parked (m : MReg) (target : Word)
  | join (m : MReg)
  deriving DecidableEq, Repr

/-- A slot of an attached flow (R259): `sums` holds one 128 × 32-bit row per flow row, `lists` one ranked list
of (value, index) codes per flow row. -/
structure Slot where
  kind : Nat
  k : Nat
  sums : List (BitVec 4096)
  lists : List (List (BitVec 32 × BitVec 32))
  z : Bool
  p : Bool
  rc : Nat
  link : Option Nat
  nanc : BitVec 32
  dropc : BitVec 32
  deriving DecidableEq, Repr

/-- Who translates: the context, its mode, the core (none for an engine) and cluster, and the scratchpad range of
its launch (R212, R352, R390). -/
structure Ctx where
  tenant : Nat
  user : Bool
  core : Option Nat
  cluster : Nat
  spmLo : Nat
  spmHi : Nat
  deriving DecidableEq, Repr

/-- A translated byte address: physical address, key, cache policy and coherence grain (R393), the leaf's address
and whether its D bit is clear; `index` for the save index of R213, whose bytes are computed. -/
structure Xl where
  pa : Nat
  key : Nat
  pol : Nat
  grain : Nat
  pte : Nat
  dClear : Bool
  index : Bool
  deriving DecidableEq, Repr

/-- A chunk of an entry that a lane of the Sluice moves: its bytes of the entry, and its home side's translation, held
from its start to its last access (R317). -/
structure Lane where
  lo : Nat
  hi : Nat
  home : Xl
  deriving DecidableEq, Repr

/-- An entry of a bound timetable that the Sluice has read (R314, R317). `after`: the place in program order of the MARK
that made it Queued (R323). -/
structure TtEnt where
  idx : Nat
  st : Nat
  start : Nat
  need : Nat
  act : Nat
  tiers : Nat
  wb : Bool
  va : Word
  len : Nat
  doff : Nat
  chk : Bool
  miss : Bool
  cause : Nat
  sub : Nat
  /-- Bytes moved so far. -/
  moved : Nat
  lane : Option Lane
  after : Nat
  /-- Evicted since the last MARK (R322). -/
  evNew : Bool
  lineBad : Bool
  deriving DecidableEq, Repr

/-- A held record of a binding (R316): the creating entry, local tier (1 pool, 2 scratchpad), place and flags, and the
translations its chunks were fetched under, by the offset they start at (R327). -/
structure TtRec where
  ent : Nat
  tier : Nat
  doff : Nat
  va : Word
  len : Nat
  wb : Bool
  pinned : Bool
  home : List (Nat × Xl)
  deriving DecidableEq, Repr

/-- A timetable binding (R313). `check`: the marker of a MARK whose check is not complete; `begun`: it has read what
it needs and started entries, and waits for the entries of `cset` (R322), some of which had not ended when the MARK arrived
(`late`); `stopping`: an unbind waits for Running entries (R321). -/
structure Binding where
  table : Word
  count : Nat
  mode : Nat
  ents : List TtEnt
  next : Nat
  recs : List TtRec
  misses : Nat
  stall : Nat
  check : Option Nat
  begun : Bool
  cset : List Nat
  late : Bool
  stopping : Bool
  ctx : Ctx
  deriving DecidableEq, Repr

/-- The states of a copy tag (R283). -/
inductive CTagSt where
  | free | active | released | faulted (sub : Nat) (eval : Word)
  deriving DecidableEq, Repr

/-- The send log (R342, R343): rows not acknowledged, the refused rows kept, refusals counted, overflow. -/
structure SendLog where
  pending : Nat
  refs : List (Nat × Word × Word)
  refN : Nat
  ovf : Bool
  deriving DecidableEq, Repr

/-- A vector-class word that VQ holds for its element-beats (R183, R188): whether it starts its convoy, uses an
A pipe, loads and stores (R112), its operand width, grouping and VL, the lane groups its elements lie in, and its strip (0 outside a loop);
how many accesses the flow had issued with it, the mask register it writes (R184), and, where it is a load that has issued without
its value, the number of that load (R187). -/
structure VWork where
  starts : Bool
  isA : Bool
  ld : Bool
  st : Bool
  width : Nat
  grp : Nat
  vl : Nat
  gnt : BitVec 8
  strip : Nat
  seq : Nat
  mdst : Option Nat
  due : Option Nat
  deriving DecidableEq, Repr

/-- The convoy that a flow's lane groups advance: its words, and, per lane group, the element groups advanced and those
there are (R187). -/
structure RunConvoy where
  ws : List VWork
  done : List Nat
  total : List Nat
  deriving DecidableEq, Repr

/-- The words that EQ holds until ACCEPT (R183, R194). -/
inductive Cmd where
  /-- A plan word that Prepare holds (R241). -/
  | plan (i : Instr)
  /-- STREAM: layout (extents, strides), source, destination. -/
  | stream (tag : Nat) (ext : List Nat) (str : List Int) (src dst comp : Word) (rel vis : Nat)
  | swalk (tag : Nat) (desc : Word) (pos cnt : Nat) (dst comp : Word) (rel vis : Nat)
  | scow (tag : Nat) (desc : Word) (entry : Nat) (res comp : Word) (rel vis : Nat)
  | row (hdr dst : Word) (data : List Byte)
  /-- Another engine word, with the scalar registers as it has read them (R93). -/
  | word (i : Instr) (regs : List Word)
  deriving DecidableEq, Repr

/-- A command of EQ with the context its engine translates in and its place in program order (R183, R200). -/
structure EqEnt where
  cmd : Cmd
  ctx : Ctx
  seq : Nat
  deriving DecidableEq, Repr

/-- The places a pre-emption can be taken at (R376, R379). -/
inductive Point where
  | setvl | loopv | endv | wait | yield | forced
  deriving DecidableEq, Repr

/-- A register that holds an uncorrectable error (R442). -/
inductive RegRef where
  | s (r : Nat) | v (r : Nat) | m (r : Nat) | acc (r : Nat) | land (tag : Nat)
  deriving DecidableEq, Repr

/-- Everything a flow holds (02, and the state each later chapter adds to a flow). -/
structure Flow where
  key : FlowKey
  loc : Loc
  tenant : Nat
  status : FlowStatus
  pc : Word
  /-- s0 to s31 (R30). -/
  s : List Word
  /-- Scalar registers marked busy, with the result under way (R148). -/
  busy : List (Nat × Word)
  v : List VReg
  m : List MReg
  /-- The active set (R151). -/
  act : MReg
  vl : BitVec 16
  vtype : Word
  svp : Word
  vprog : Word
  vgnt : BitVec 8
  convoy : Convoy
  tags : List TagSt
  /-- Transfer tags that words held in EQ have reserved (R241). -/
  reserved : List Nat
  loop : Option LoopRec
  frags : List Frag
  vsq : List WaitStore
  /-- Interval number and number of accesses issued (R194, R199). -/
  ival : Nat
  seq : Nat
  /-- Strips started: the model's own number of a strip (R189). -/
  strips : Nat
  sb : List Access
  cq : List Access
  fences : List FenceRec
  /-- Stores of other flows of the core from which loads of this one have taken a value (R202). -/
  rf : List (FlowKey × Nat)
  /-- Number of the word its sequencer issued last for it (R182). -/
  issued : Nat
  /-- Commands not ACCEPTed. -/
  eq : List EqEnt
  vq : List VWork
  cv : Option RunConvoy
  age : List Nat
  cause : Word
  epc : Word
  eval : Word
  /-- STATUS without PREQ (R369). -/
  status3 : BitVec 3
  preq : Bool
  /-- Who has asked for its pre-emption (R375): 0 the PF, 1 + 4t + p the head record of level p of tenant t. -/
  asked : List Nat
  point : Option Point
  /-- The word at pc runs although a request is pending, for want of room for its save record (R378). -/
  skipPoint : Bool
  /-- A save of the pending request has found no room: it is not forced (R378). -/
  noRoom : Bool
  /-- Row quarters held (R255) and the slots of the attachment. -/
  qm : BitVec 4
  slots : List Slot
  /-- Matrix words not completed, oldest first; for MSTA the number of its last store (R263, R280). -/
  mxq : List (Option Nat)
  tt : Option Binding
  ttcur : Word
  ttmiss : Word
  ctags : List CTagSt
  /-- Scope of the copy that last used each copy tag (R300). -/
  cscope : List Nat
  log : SendLog
  /-- Event records held, oldest first, each with the scope of the point that posted it (R205, R310). -/
  events : List (Word × Nat)
  evOvf : Bool
  /-- Handle of the task the flow runs; 0 for none. -/
  task : Word
  /-- The BAR instance the flow has arrived at and not passed (R312). -/
  barInst : Option (Nat × Nat)
  /-- The request of its last SETVL or LOOPV (R379). -/
  avl : Word
  enTrapped : Bool
  /-- The PAPPLY at pc has had its plan rebuilt (R253). -/
  rebuilt : Bool
  /-- The loads of the word at pc leave one by one (R198, R203): the bytes that have come, by address and key. -/
  fetch : Option (List (Nat × Nat × Byte))
  bad : List RegRef
  /-- Replay (R209): beats of the quantum, whether it has ended, whether a boundary has let the ending word run,
  and the bytes logged. -/
  qBeats : Nat
  qEnd : Bool
  qGo : Bool
  deriving DecidableEq, Repr

/-- What a vector load that has no value yet writes (R152, R158): its destination, mask field and first position, and
per position the bit offset and the bytes that hold it, none where it is inactive. -/
structure VecDefer where
  v : Nat
  m : BitVec 4
  start : Nat
  elems : List (Nat × List Nat)
  deriving DecidableEq, Repr

/-- A load or an AMO whose word has issued and has no value yet (R105, R161): its place in program order, the flow
before it, the bytes that have arrived, the parts still out, how many words have run ahead of it, and what its word and they
have been charged, in femtojoules. -/
structure Defer where
  seq : Nat
  before : Flow
  vec : Option VecDefer
  got : List (Nat × Byte)
  left : Nat
  ran : Nat
  cost : Nat
  deriving DecidableEq, Repr

/-- A block of a core's L1 (R410, R428): tag (address, key, grain), the bytes held with their values, and the words the
core has issued since its fill (R206). -/
structure L1Blk where
  core : Nat
  addr : Nat
  key : Nat
  grain : Nat
  held : BitVec 512
  data : BitVec 4096
  age : Nat
  /-- Bytes of entered stores to memory that the L1 does not cache: no way of it is taken. -/
  aside : Bool
  deriving DecidableEq, Repr

/-- An entry of a slice's registration table (R409): a 128-byte line under a key, the core, its words. -/
structure RegEnt where
  line : Nat
  key : Nat
  core : Nat
  mask : BitVec 16
  deriving DecidableEq, Repr

/-- Successive AMOs of one core to a line of its die, with no other agent's access between them (R109). -/
structure AmoRun where
  line : Nat
  key : Nat
  core : Nat
  n : Nat
  deriving DecidableEq, Repr

/-- A byte of W_n (R194) under a key (R417): its value, whether it is dirty; the flows whose release must see it written back
(R200, R202), an engine's command of number n standing as ⟨0, n⟩; the cores that have read it, and the words they have issued since
(R206); the tenant and the launch that wrote it last. -/
structure PeerByte where
  addr : Nat
  key : Nat
  val : Byte
  dirty : Bool
  owe : List FlowKey
  cores : List Nat
  age : Nat
  /-- The domain tag under which the peer has accepted it (R438, R439). -/
  tag : Nat
  tenant : Nat
  launch : Nat
  deriving DecidableEq, Repr

/-- A live launch (R352, R353, R181, R312, R357). -/
structure Launch where
  id : Nat
  tenant : Nat
  counts : List Nat
  kdesc : Word
  arg : Word
  stack : Word
  stacksz : Nat
  est : Nat
  done : Word
  prio : Nat
  lgreq : Nat
  affin : Bool
  vec : Nat
  roots : Bool
  spmOff : Nat
  spmLen : Nat
  entry : Word
  inv : Nat
  carry : Nat
  carryop : Nat
  vllo : Nat
  vlhi : Nat
  groups : List (Nat × Nat)
  /-- Charges of the launch, femtojoules. -/
  charged : Nat
  /-- Per (LFLOW, group), the BARs issued; per group, the instances passed. -/
  barArr : List ((Nat × Nat) × Nat)
  barDone : List (Nat × Nat)
  /-- Per (LFLOW, partner), the VXLANEs issued. -/
  xlCnt : List ((Nat × Nat) × Nat)
  /-- END code decided before the launch ends: 1 by the PF, 3 by die loss (R357). -/
  ending : Nat
  deriving DecidableEq, Repr

/-- The states of an HTS entry that is not Free (R304). -/
inductive TaskSt where
  | defined | ready | running
  deriving DecidableEq, Repr

/-- An HTS entry in use (R302 to R307). -/
structure Task where
  die : Nat
  entry : Nat
  gen : Nat
  st : TaskSt
  pc : Word
  arg : Word
  tenant : Nat
  launch : Nat
  count : Nat
  prio : Nat
  lgreq : Nat
  groups : List Nat
  est : Nat
  done : Nat
  bound : Option Nat
  order : Nat
  deriving DecidableEq, Repr

/-- An event record on its way to a flow (R311). -/
structure EvFlight where
  dest : FlowKey
  word : Word
  scope : Nat
  deriving DecidableEq, Repr

/-- How far a row has come (R335, R337): on its way, written and to be counted, or answered (0 accepted, else the
reason). -/
inductive RowSt where
  | sent | written | answered (reason : Nat)
  deriving DecidableEq, Repr

/-- A token row (R332 to R335). -/
structure Row where
  id : Nat
  sender : FlowKey
  tenant : Nat
  hdr : Word
  dst : Word
  data : List Byte
  st : RowSt
  deriving DecidableEq, Repr

/-- How far a copy engine command has come (R290, R297 to R299). -/
inductive CopyPhase where
  | lock | retry | table | move | finish | unlock | done
  deriving DecidableEq, Repr

/-- What a copy moves. -/
inductive CopyForm where
  | stream (ext : List Nat) (str : List Int) (src : Word)
  /-- Positions gathered: block base, positions per block, bytes per position, first position, entries read. -/
  | walk (desc : Word) (pos cnt : Nat) (base : Word) (ppb pb : Nat) (ents : List Nat)
  /-- Copy-on-write: descriptor, entry index, result address; block numbers old and new once known, table fields, the
  old block's count and the free count. -/
  | cow (desc : Word) (entry : Nat) (res : Word) (old new : Nat) (base : Word) (blk : Nat) (rc free : Word) (cnt n : Nat)
  deriving DecidableEq, Repr

/-- A chunk of a copy in a lane of the Aqueduct (R282): bytes [off, off + len) of the copy, both sides with the
translations held from its start to its last access (no source for zeros), the accesses not yet sent by their offset and
size, the bytes that have arrived, and a failure met on the way. -/
structure Chunk where
  off : Nat
  len : Nat
  sva : Nat
  src : Option Xl
  dva : Nat
  dst : Xl
  reads : List (Nat × Nat)
  got : List (Nat × Byte)
  writes : List (Nat × Nat)
  err : Option (Nat × Nat)
  deriving DecidableEq, Repr

/-- An accepted copy (R282 to R299): how many of its bytes a lane has taken, which (offset and bytes, a pair for each chunk), and
its chunks in lanes. -/
structure Copy where
  tag : Nat
  form : CopyForm
  phase : CopyPhase
  dst : Word
  total : Nat
  next : Nat
  begun : List (Nat × Nat)
  chunks : List Chunk
  /-- Completion word fields (R285) and actions (R286). -/
  task : Nat
  evv : Nat
  scope : Nat
  rel : Nat
  vis : Nat
  released : Bool
  /-- Where the table lock stands while this copy holds it, and the translations that a SCOW holds with it (R299). -/
  lock : Option Xl
  held : List (Nat × Xl)
  deriving DecidableEq, Repr

/-- A plan build of the object at `off` (R240): whether a watched write was seen (R230); `pre`, the indices and the
fingerprint of a plan derived from others, which are not read again (R246, R247); the inner and the outer or only indices
read so far, the outer words of a composite that no inner index names, which the fingerprint alone takes in (none for one that
cannot be read), and the failure met. -/
structure Build where
  off : Nat
  hit : Bool
  pre : Option (List Nat × Nat)
  inner : List Nat
  outer : List Nat
  spare : List (Option Nat)
  err : Option (Nat × Nat × Nat)
  deriving DecidableEq, Repr

/-- What an engine does. -/
inductive JobKind where
  | copy (c : Copy)
  | build (b : Build)
  deriving DecidableEq, Repr

/-- An accepted engine command (R194). -/
structure Job where
  id : Nat
  die : Nat
  cluster : Nat
  tenant : Nat
  flow : FlowKey
  ctx : Ctx
  kind : JobKind
  deriving DecidableEq, Repr

/-- A live plan object (R226, R228): its place, generation and size, the bound its source is judged by (R240), and
when it was last applied (R234). -/
structure PlanRec where
  tenant : Nat
  off : Nat
  gen : Nat
  size : Nat
  bound : Nat
  used : Nat
  deriving DecidableEq, Repr

/-- A watch on an 8-byte word of memory for a plan: its physical and virtual address, and its way in the slice's filter
(R232, R234, R402). -/
structure Watch where
  addr : Nat
  va : Nat
  tenant : Nat
  off : Nat
  way : Nat
  deriving DecidableEq, Repr

/-- A save record's entry in the save index (R213, R378), and what the device keeps of the saved flow with its
launch (R380, R385); `lost`: the entries of its binding evicted since its last MARK (R327). -/
structure SaveRec where
  key : FlowKey
  tenant : Nat
  off : Nat
  size : Nat
  lost : List Nat
  deriving DecidableEq, Repr

/-- A lane group's vector sequencer (R187 to R189): charges by tenant, the precedent tenant, element-beats since the
last revision, and the flow last advanced with its strip. -/
structure Seqr where
  core : Nat
  lane : Nat
  charge : List (Nat × Nat)
  prec : Option Nat
  since : Nat
  last : Option (FlowKey × Nat)
  deriving DecidableEq, Repr

/-- Which TLB (R398): a core's of 256 entries, or a cluster's of 4,096. -/
inductive TlbAt where
  | core (c : Nat)
  | cluster (c : Nat)
  deriving DecidableEq, Repr

/-- A cached translation (R398): the leaf of a page, its size and its leaf address. -/
structure TlbEnt where
  place : TlbAt
  tenant : Nat
  vbase : Nat
  size : Nat
  leaf : Word
  pte : Nat
  deriving DecidableEq, Repr

/-- A table pointer in a die's walk cache (R398): the table that a walk of the context reads at a level for the
addresses [vbase, vbase + 2^(21 + 9 level)). -/
structure WalkPtr where
  die : Nat
  tenant : Nat
  level : Nat
  vbase : Nat
  table : Nat
  deriving DecidableEq, Repr

/-- A shootdown command (R400). -/
structure Shoot where
  va : Nat
  npages : Nat
  vec : Nat
  seq : Word
  started : Bool
  deriving DecidableEq, Repr

/-- A tenant's record, ports and accounts (R348, R350, R362 to R366, R370, R373, R375, R400, R437). -/
structure Tenant where
  live : Bool
  replay : Bool
  entrap : Bool
  wbase : Word
  wlimit : Word
  ptroot : Word
  keys : BitVec 32
  weight : Nat
  arena : Word
  pool : Word
  partaddr : Word
  part : List Byte
  share : Nat
  /-- Handler address of the context, and the one it starts with (R370). -/
  tvec : Word
  tvect : Word
  dtag : BitVec 16
  /-- DTAG 63:16, which hold what is written (R437). -/
  dtagRsvd : BitVec 48
  /-- Charges of the current window, femtojoules. -/
  spent : Nat
  /-- The narrowed grant of an energy overrun is in force (R366). -/
  capped : Bool
  queue : List (List Byte)
  lstOvf : Bool
  lstBad : Bool
  ucause : Word
  uepc : Word
  ueval : Word
  ucount : Nat
  sdq : List Shoot
  sddone : Word
  sdOvf : Bool
  sdBad : Bool
  preempt : Bool
  deriving DecidableEq, Repr

/-- Directory states of a granule (R411). -/
inductive DirSt where
  | i | s | e | m | o
  deriving DecidableEq, Repr

/-- The directory's record of a granule (R411); `lost`: its owner die was lost while it held it modified (R427). -/
structure DirEnt where
  g : Granule
  st : DirSt
  pres : List Nat
  own : Nat
  lost : Bool
  deriving DecidableEq, Repr

/-- The requests that open a transaction (R413, R414). -/
inductive DirReq where
  | rds | rdx | upg
  /-- A back-invalidation of the block (R415). -/
  | binv
  deriving DecidableEq, Repr

/-- An open transaction at a home (R414): answers still due, whether the requester has said Done, and whether the home
sends it Data when the last answer is there (R413). -/
structure DirTxn where
  g : Granule
  req : DirReq
  die : Nat
  acks : Nat
  done : Bool
  owed : Bool
  deriving DecidableEq, Repr

/-- Coherence messages under way on the die links (R412). -/
inductive CMsg where
  /-- To the owner: serve the requester, for sharing or exclusive. -/
  | fwd (g : Granule) (owner requester : Nat) (excl : Bool)
  | inv (g : Granule) (sharer : Nat)
  | binv (g : Granule) (holder : Nat)
  | data (g : Granule) (requester : Nat) (grant : DirSt)
  | ack (g : Granule) (holder : Nat) (forward : Bool) (dirty : Bool) (found : Bool)
  | done (g : Granule) (requester : Nat)
  deriving DecidableEq, Repr

/-- A line of the host coherence agent's cache (R423): its state and the value the host's memory holds while the
line is modified. -/
structure HcaLine where
  addr : Nat
  key : Nat
  st : DirSt
  old : BitVec 512
  deriving DecidableEq, Repr

/-- A bias flip (R420, R422). -/
structure BiasCmd where
  page : Nat
  toHost : Bool
  seq : Word
  started : Bool
  /-- Lines for which a BISnpInv is unanswered. -/
  waiting : List Nat
  deriving DecidableEq, Repr

/-- A back-invalidate snoop of the HCA (R421): BISnpInv or BISnpData; 0 sent, 1 answered, 2 the answer is used. -/
structure Snoop where
  line : Nat
  inv : Bool
  st : Nat
  deriving DecidableEq, Repr

/-- The coherence state across dies and towards the host (R408 to R429). -/
structure Coherence where
  dir : List DirEnt
  txns : List DirTxn
  msgs : List CMsg
  hca : List HcaLine
  holders : List Nat
  flips : List BiasCmd
  /-- Copies each die's L1s hold of other dies' granules, with the grant they hold them under. -/
  copies : List (Nat × Granule × DirSt)
  /-- After an Abrupt reset every host-bias line counts as held until a BISnpInv has been sent (R426). -/
  allHeld : Bool
  /-- Lines for which one has been sent since. -/
  sent : List Nat
  /-- Snoops of the HCA unanswered or not used, those that the step under way lacks (line, BISnpInv), and lines of which a
  BIConflictAck has been sent and the BIRsp is due (R421, R422). -/
  snoops : List Snoop
  need : List (Nat × Bool)
  acks : List Nat
  deriving DecidableEq, Repr

/-- A Vexcon port (R435): up or down, the sequence number due, the last received intact, and how often the flit due
has failed its CRC. -/
structure VexPort where
  up : Bool
  nextSeq : Nat
  lastAck : Nat
  fails : Nat
  deriving DecidableEq, Repr

/-- A peer device as the domain's environment gives it: the ports that reach it, the tags it has live and the
offsets it serves for each (R436, R438). -/
structure Peer where
  dev : Nat
  ports : List Nat
  windows : List (Nat × Nat × Nat)
  deriving DecidableEq, Repr

/-- A row repair under way (R451). -/
structure RepairCmd where
  row : Nat
  hard : Bool
  seq : Word
  deriving DecidableEq, Repr

/-- A firmware image in a flash slot, as the boot ROM finds it (R453): whether its signature verifies is the
device's to compute from these. -/
structure Image where
  body : List Byte
  signature : List Byte
  key : List Byte
  version : Nat
  svn : Nat
  raises : Bool
  deriving DecidableEq, Repr

/-- An SPDM answer left in the DOE mailbox (R459): the request it answers, its content, its signature. -/
structure SpdmMsg where
  request : String
  content : List (BitVec 512)
  signature : Option (BitVec 512)
  deriving DecidableEq, Repr

/-- The device's registers and the hours-and-repairs state (R6, R362, R420, R437, R446, R451, R454, R459). -/
structure Device where
  power : Bool
  capuj : Nat
  pfStatus : Bool
  poolWays : Nat
  hdmEn : Bool
  hdmBase : Word
  hdmSize : Nat
  /-- HDMCTL 62:10, which hold what is written (R420). -/
  hdmRsvd : BitVec 53
  biasBase : Word
  biasDone : Word
  biasOvf : Bool
  biasBad : Bool
  domEn : Bool
  domDev : BitVec 10
  /-- DOMCTL 62:10, the same (R437). -/
  domRsvd : BitVec 53
  ports : List VexPort
  peers : List Peer
  linkDown : List (Nat × Nat)
  hostUp : Bool
  hostWidth : Nat
  hostRate : Nat
  hostCxl : Bool
  ideKey : Option Word
  elBase : Word
  elEn : Bool
  elSize : Nat
  elHead : BitVec 32
  elTail : BitVec 32
  elOvf : BitVec 32
  ceCount : Word
  dieLost : BitVec 4
  salv : List Word
  retcl : Word
  retlg : List Byte
  spares : List (Nat × Bool × Nat)
  repairs : List RepairCmd
  repDone : Word
  clock : Nat
  bootResult : Nat
  bootSlot : Nat
  bootStage : Nat
  fwver : Word
  featOff : List Word
  featAcc : List Word
  featLock : Bool
  fusedSvn : Nat
  fusedKey : BitVec 512
  fusedRetcl : Word
  fusedRetlg : List Byte
  hardRepairs : List Nat
  /-- The firmware's stored list of soft repairs (R451, R453). -/
  softStored : List Nat
  romDigest : BitVec 512
  flashA : Image
  flashB : Image
  meas : List (BitVec 512)
  mailbox : List SpdmMsg
  /-- MSI-X vectors whose posted write has reached the host, oldest first: function (0 PF, n VF n) and vector (R433). -/
  irqs : List (Nat × Nat)
  msixTable : List ((Nat × Nat) × Word)
  /-- Addresses that the CXL RAS header log has reported as lost or bad (R426, R444). -/
  ras : List Nat
  deriving DecidableEq, Repr

/-- What moves next where the environment says so: a flow's word, a scalar load of a flow issued without waiting
for its value (R105, R199), or a step of another part. -/
inductive Turn where
  | flow (k : FlowKey)
  | ahead (k : FlowKey)
  | event (i : Instr)
  deriving DecidableEq, Repr

/-- The machine. -/
structure State where
  me : Flow
  rest : List Flow
  sched : List Turn
  /-- Set by `step` for a Turn.ahead: a scalar load issues and leaves its value to TAKE or SEND and APPLY. -/
  ahead : Bool
  dev : Device
  tenants : List Tenant
  launches : List Launch
  tasks : List Task
  /-- Generation of HTS places that have been used, by (die, entry). -/
  taskGens : List ((Nat × Nat) × Nat)
  /-- Memory M, by the model's physical byte address (Machine/Mem.lean), in canonical form. -/
  mem : Memory
  /-- The key identifier each byte was last written under, in the same form. -/
  memKey : Memory
  /-- Aligned 8-byte words that hold an uncorrectable error and have not been rewritten (R444). -/
  bad : List Nat
  /-- The same of a copy in an L1 or an L2. -/
  badCache : List Nat
  /-- Registration of 8-byte words to cores (R194, R409), the latest registered first. -/
  reg : List RegEnt
  amoRuns : List AmoRun
  /-- The cores' L1s (V_c), the block hit or filled last first. -/
  l1 : List L1Blk
  /-- Bytes of peer memory held in this device's L2 (W_n). -/
  peerCopies : List PeerByte
  net : List Flight
  jobs : List Job
  rows : List Row
  evFlight : List EvFlight
  plans : List PlanRec
  planGens : List ((Nat × Nat) × Nat)
  watches : List Watch
  /-- Plans resident in each cluster's store, most recently applied first (R235). -/
  resident : List (Nat × Nat × Nat)
  saves : List SaveRec
  seqrs : List Seqr
  /-- The TLBs and walk caches, the latest filled first. -/
  tlb : List TlbEnt
  walks : List WalkPtr
  coh : Coherence
  /-- The words that have issued without their value, latest first. -/
  ckpts : List Defer
  /-- A replay boundary in progress (R209): flows still to be taken, first for their stores and their AMO (false),
  then for their commands (true). -/
  replayQ : List (FlowKey × Bool)
  /-- Memory, with the keys it was written under, as the last boundary of a context in replay mode left it (R209). -/
  snaps : List (Nat × Memory × Memory)
  /-- The model's own counters: identifiers given out, free values drawn. -/
  nextId : Nat
  freeCtr : Nat
  /-- Words issued so far. -/
  issueCtr : Nat
  deriving DecidableEq, Repr

/-- A convoy that is closed. -/
def Convoy.none : Convoy := ⟨false, false, 0, 0, 0, 0, 0, 0, Option.none⟩

/-- A slot as MATTACH leaves it for a flow of `rows` rows (R257). -/
def Slot.init (rows : Nat) : Slot :=
  ⟨0, 0, List.replicate rows 0, List.replicate rows [], true, false, 0, none, 0, 0⟩

/-- A flow as R54 and the chapters after it create one, at a place. -/
def Flow.init (key : FlowKey) (loc : Loc) (tenant : Nat) : Flow where
  key := key
  loc := loc
  tenant := tenant
  status := .free
  pc := 0
  s := List.replicate 32 0
  busy := []
  v := List.replicate 48 0
  m := List.replicate 12 0
  act := BitVec.allOnes 32768
  vl := 0
  vtype := 0x0F20
  svp := 0
  vprog := 0
  vgnt := 0
  convoy := Convoy.none
  tags := List.replicate 16 .free
  reserved := []
  loop := none
  frags := []
  vsq := []
  ival := 0
  seq := 0
  strips := 0
  sb := []
  cq := []
  fences := []
  rf := []
  issued := 0
  eq := []
  vq := []
  cv := none
  age := List.replicate 8 0
  cause := 0
  epc := 0
  eval := 0
  status3 := 0
  preq := false
  asked := []
  point := none
  skipPoint := false
  noRoom := false
  qm := 0
  slots := List.replicate 16 (Slot.init 0)
  mxq := []
  tt := none
  ttcur := 0
  ttmiss := 0
  ctags := List.replicate 16 .free
  cscope := List.replicate 16 0
  log := ⟨0, [], 0, false⟩
  events := []
  evOvf := false
  task := 0
  barInst := none
  avl := 0
  enTrapped := false
  rebuilt := false
  fetch := none
  bad := []
  qBeats := 0
  qEnd := false
  qGo := false

/-- A tenant record right after power-on. -/
def Tenant.init : Tenant where
  live := false
  replay := false
  entrap := false
  wbase := 0
  wlimit := 0
  ptroot := 0
  keys := 0
  weight := 0
  arena := 0
  pool := 0
  partaddr := 0
  part := List.replicate 256 0
  share := 0
  tvec := 0
  tvect := 0
  dtag := 0
  dtagRsvd := 0
  spent := 0
  capped := false
  queue := []
  lstOvf := false
  lstBad := false
  ucause := 0
  uepc := 0
  ueval := 0
  ucount := 0
  sdq := []
  sddone := 0
  sdOvf := false
  sdBad := false
  preempt := false

/-- A firmware slot with nothing in it. -/
def Image.empty : Image := ⟨[], [], [], 0, 0, false⟩

/-- The device's registers as the spec's tables give them at reset: power is applied, and the boot sequence of R453
has not run. -/
def Device.init : Device where
  power := true
  capuj := 3200000
  pfStatus := false
  poolWays := 0
  hdmEn := false
  hdmBase := 0
  hdmSize := 0
  hdmRsvd := 0
  biasBase := 0
  biasDone := 0
  biasOvf := false
  biasBad := false
  domEn := false
  domDev := 0
  domRsvd := 0
  ports := List.replicate 64 ⟨false, 0, 0, 0⟩
  peers := []
  linkDown := []
  hostUp := false
  hostWidth := 0
  hostRate := 0
  hostCxl := false
  ideKey := none
  elBase := 0
  elEn := false
  elSize := 0
  elHead := 0
  elTail := 0
  elOvf := 0
  ceCount := 0
  dieLost := 0
  salv := List.replicate 4 0
  retcl := 0
  retlg := List.replicate 256 0
  spares := []
  repairs := []
  repDone := 0
  clock := 0
  bootResult := 0
  bootSlot := 0
  bootStage := 0
  fwver := 0
  featOff := List.replicate 4 0
  featAcc := [1, 0, 0, 0]
  featLock := false
  fusedSvn := 0
  fusedKey := 0
  fusedRetcl := 0
  fusedRetlg := List.replicate 256 0
  hardRepairs := []
  softStored := []
  romDigest := 0
  flashA := Image.empty
  flashB := Image.empty
  meas := List.replicate 5 0
  mailbox := []
  irqs := []
  msixTable := []
  ras := []

/-- No coherence state. -/
def Coherence.init : Coherence := ⟨[], [], [], [], [], [], [], false, [], [], [], []⟩

/-- The machine right after reset: no tenant is live, no launch is placed and every hardware flow is Free, so
nothing runs until the host writes launch records (R9, R178, R348). -/
def State.reset : State where
  me := Flow.init ⟨0, 0⟩ ⟨0, 0, 0, 0⟩ 0
  rest := []
  sched := []
  ahead := false
  dev := Device.init
  tenants := List.replicate 17 Tenant.init
  launches := []
  tasks := []
  taskGens := []
  mem := []
  memKey := []
  bad := []
  badCache := []
  reg := []
  amoRuns := []
  l1 := []
  peerCopies := []
  net := []
  jobs := []
  rows := []
  evFlight := []
  plans := []
  planGens := []
  watches := []
  resident := []
  saves := []
  seqrs := []
  tlb := []
  walks := []
  coh := Coherence.init
  ckpts := []
  replayQ := []
  snaps := []
  nextId := 1
  freeCtr := 0
  issueCtr := 0

end Sys2Proof.Machine
end

