-- ==== Sys2Proof/Machine/Operands.lean ====
section
/-! DEFINITION. The operands of a flow: scalar registers (R30), VTYPE and VL (R36 to R41), the logical strings of
vector registers and groups (R46 to R50), masks and the active set (R32, R151), cross-lane sources (R17, R78),
destination writes (R27, R49, R169), and scales (R42). -/

namespace Sys2Proof.Machine

/-- A scalar register as the next word reads it: s0 is zero, and a result under way is the value (R30, R148). -/
def Flow.rd (f : Flow) (r : BitVec 5) : Word :=
  if r = 0 then 0
  else
    match f.busy.lookup r.toNat with
    | some x => x
    | none => f.s.getD r.toNat 0

/-- Writes a scalar register; a write to s0 is discarded (R30). A result under way is written first (R148), so
the new value stands. A whole write clears an uncorrectable error (R444). -/
def Flow.wr (f : Flow) (r : BitVec 5) (x : Word) : Flow :=
  if r = 0 then f
  else { f with
    s := f.s.set r.toNat x
    busy := f.busy.filter (fun p => p.1 != r.toNat)
    bad := f.bad.filter (fun b => b != .s r.toNat) }

/-- Marks a scalar register busy with the result under way (R148). -/
def Flow.wrBusy (f : Flow) (r : BitVec 5) (x : Word) : Flow :=
  if r = 0 then f
  else { f with
    busy := (r.toNat, x) :: f.busy.filter (fun p => p.1 != r.toNat)
    bad := f.bad.filter (fun b => b != .s r.toNat) }

/-- The low five bits of a 6-bit scalar field (R77). -/
def s5 (x : BitVec 6) : BitVec 5 := x.setWidth 5

def Flow.fmtc (f : Flow) : Nat := wbits f.vtype 0 6
def Flow.grp (f : Flow) : Nat := 2 ^ wbits f.vtype 6 2
/-- Row length of the tile shape, R36. -/
def Flow.tile (f : Flow) : Nat := 16 * (wbits f.vtype 8 4 + 1)
def Flow.mz (f : Flow) : Bool := f.vtype.getLsbD 12
def Flow.rm (f : Flow) : RMode := rmodeOf (wbits f.vtype 13 2)
def Flow.sat (f : Flow) : Bool := f.vtype.getLsbD 15
/-- The VTYPE element width. -/
def Flow.ew (f : Flow) : Nat := fwidth f.fmtc
def Flow.vlN (f : Flow) : Nat := f.vl.toNat

/-- The granted lane groups, ascending (R41). -/
def Flow.lgs (f : Flow) : List Nat := (List.range 8).filter (fun j => f.vgnt.getLsbD j)

/-- The sequencer that issues a flow's words (R182). -/
def Flow.sequencer (f : Flow) : Nat := f.loc.fid / 2

/-- popcount(VGNT). -/
def Flow.granted (f : Flow) : Nat := f.lgs.length

/-- VLMAX() of R40 for G lane groups, grouping g and a format code. -/
def vlmaxOf (G g c : Nat) : Nat :=
  let n := G * 2048 * g / fwidth c
  if isScaled c then n - n % 64 else n

def Flow.vlmax (f : Flow) : Nat := vlmaxOf f.granted f.grp f.fmtc

/-- VLMAX1 of R171. -/
def Flow.vlmax1 (f : Flow) : Nat := vlmaxOf 1 f.grp f.fmtc

/-- Whether a `.par` loop is open. -/
def Flow.par (f : Flow) : Bool :=
  match f.loop with
  | some l => l.par
  | none => false

/-- The bits of each register that a vector word sees: offset and length. Under `.par` the slice of copy
(strip mod G) (R171, log 21), else all L bits (R46). -/
def Flow.view (f : Flow) : Nat × Nat :=
  match f.loop with
  | some l => if l.par then (2048 * (l.strip % f.granted), 2048) else (0, 2048 * f.granted)
  | none => (0, 2048 * f.granted)

/-- VLMAX of the words of the open strip (R167). -/
def Flow.vlmaxNow (f : Flow) : Nat := if f.par then f.vlmax1 else f.vlmax

/-- Bits [off, off + len) of register v. -/
def Flow.slice (f : Flow) (v off len : Nat) : Nat := bits (f.v.getD v 0).toNat off len

/-- The logical string of the group of g registers at v (R46). -/
def Flow.gstr (f : Flow) (v : Nat) : Nat → Nat
  | 0 => 0
  | g + 1 => f.slice v f.view.1 f.view.2 + Flow.gstr f (v + 1) g <<< f.view.2

/-- A register with bits [off, off + len) replaced. -/
def putSlice (r : VReg) (off len x : Nat) : VReg :=
  BitVec.ofNat 16384 (r.toNat - (bits r.toNat off len) <<< off + (x % 2 ^ len) <<< off)

/-- The registers with a group's string written. -/
def setGroupRegs (vs : List VReg) (v off len x : Nat) : Nat → List VReg
  | 0 => vs
  | g + 1 => setGroupRegs (vs.set v (putSlice (vs.getD v 0) off len x)) (v + 1) off len (x >>> len) g

/-- Writes a group's whole string. -/
def Flow.setGstr (f : Flow) (v g x : Nat) : Flow := { f with v := setGroupRegs f.v v f.view.1 f.view.2 x g }

/-- The first n elements of width w of the group of g registers at v (R46, R48). -/
def Flow.elems (f : Flow) (v g w n : Nat) : List Nat := unpackCodes w n (f.gstr v g)

/-- Elem(v, i, w) of R27. -/
def Flow.elem (f : Flow) (v g w i : Nat) : Nat := bits (f.gstr v g) (i * w) w

/-- The bits a mask field selects: all for 15 (R77). -/
def Flow.maskN (f : Flow) (m : BitVec 4) : Nat :=
  if m = 15 then (BitVec.allOnes 32768).toNat else (f.m.getD m.toNat 0).toNat

/-- Whether the g registers at v hold one of the carried set of the open loop, whose groups have the size of VTYPE at its
LOOPV (R165, R169). -/
def Flow.isCarried (f : Flow) (v g : Nat) : Bool :=
  match f.loop with
  | some l => l.carried.any (fun p => decide (p.1 < v + g ∧ v < p.1 + l.cgrp))
  | none => false

/-- The destination elements of WriteDest (R27) under R151: outside the active set the old element stays; inside
it a masked-off position keeps its element or becomes zero by the policy. `mk` and `ac` hold the mask and active
bits from the first position of the lists on. -/
def mergeElems (mz : Bool) : Nat → Nat → List Nat → List Nat → List Nat
  | mk, ac, o :: os, x :: xs =>
    (if bit ac 0 then (if bit mk 0 then x else if mz then 0 else o) else o) ::
      mergeElems mz (mk / 2) (ac / 2) os xs
  | _, _, _, _ => []

/-- The new string of a destination group: `xs` at positions 0 to VL − 1, then zero (R49), save that a carried
group keeps its positions from VL to VLMAX (R169). -/
def Flow.destStr (f : Flow) (v g w : Nat) (xs : List Nat) : Nat :=
  packCodes w xs +
    (if f.isCarried v g then (bits (f.gstr v g) (f.vlN * w) ((f.vlmaxNow - f.vlN) * w)) <<< (f.vlN * w) else 0)

/-- The registers of a group. -/
def groupRefs (v g : Nat) : List RegRef := (List.range g).map (fun k => .v (v + k))

/-- A write of every bit of a group that the flow sees clears its uncorrectable errors (R444). -/
def Flow.clearGroup (f : Flow) (v g : Nat) : Flow := { f with bad := f.bad.filter (fun b => !(groupRefs v g).contains b) }

/-- Whether a write to the group at v through mask field m reaches every bit: no mask, every position active, no carried
tail kept, no `.par` copy left alone. -/
def Flow.wholeWrite (f : Flow) (v g : Nat) (m : BitVec 4) : Bool :=
  m = 15 && f.act == BitVec.allOnes 32768 && !f.isCarried v g && !f.par

/-- Writes elements 0 to VL − 1 of a destination group through mask and active set, and its tail (R27, R49, R151).
With VL = 0 no vector register is written (R211). -/
def Flow.writeElems (f : Flow) (v g w : Nat) (m : BitVec 4) (xs : List Nat) : Flow :=
  if f.vlN = 0 then f
  else
  let new := mergeElems f.mz (f.maskN m) f.act.toNat (f.elems v g w f.vlN) xs
  let f' := f.setGstr v g (f.destStr v g w new)
  if f.wholeWrite v g m then f'.clearGroup v g else f'

/-- The bits of mask-writing words: position by position as `mergeElems`. -/
def mergeBits (mz : Bool) : Nat → Nat → Nat → List Bool → List Bool
  | mk, ac, old, t :: ts =>
    (if bit ac 0 then (if bit mk 0 then t else if mz then false else bit old 0) else bit old 0) ::
      mergeBits mz (mk / 2) (ac / 2) (old / 2) ts
  | _, _, _, [] => []

/-- Writes mask md from the bits of positions 0 to VL − 1; bits from VL up are zero (R32, R134, R151); with VL = 0
nothing is written (R211). -/
def Flow.writeMask (f : Flow) (md : BitVec 6) (m : BitVec 4) (ts : List Bool) : Flow :=
  if f.vlN = 0 then f
  else
  let old := f.m.getD md.toNat 0
  let new := mergeBits f.mz (f.maskN m) f.act.toNat old.toNat ts
  { f with
    m := f.m.set md.toNat (BitVec.ofNat 32768 (packBits new))
    bad := if m = 15 && f.act == BitVec.allOnes 32768 then f.bad.filter (fun b => b != .m md.toNat) else f.bad }

/-- A cross-lane modifier (R78). -/
inductive XMod where
  | up (k : Nat) | dn (k : Nat) | rev | bc (j : Nat)
  deriving DecidableEq, Repr

/-- KIND and AMT of the mod field. -/
def xmodOf (kind amt : Nat) : XMod :=
  match kind with
  | 0 => .up (amt + 1)
  | 1 => .dn (amt + 1)
  | 2 => .rev
  | _ => .bc amt

/-- The source position at position i, none where R17 gives one outside [0, VL). -/
def XMod.pos (m : XMod) (vl i : Nat) : Option Nat :=
  match m with
  | .up k => if k ≤ i then some (i - k) else none
  | .dn k => if i + k < vl then some (i + k) else none
  | .rev => some (vl - 1 - i)
  | .bc j => if j < vl then some j else none

/-- Src(v, mod, i) of R27 at every position below VL, `ident` standing outside. -/
def Flow.srcElems (f : Flow) (v : Nat) (m : XMod) (ident : Nat) : List Nat :=
  let x := f.gstr v f.grp
  (List.range f.vlN).map (fun i =>
    match m.pos f.vlN i with
    | some j => bits x (j * f.ew) f.ew
    | none => ident)

/-- The first n scale bytes that SVP names, read as a single register (R42). -/
def Flow.scaleByte (f : Flow) (q : Nat) : Nat := bits (f.slice (wbits f.svp 0 6) f.view.1 f.view.2) (8 * q) 8

/-- Whether the check of R42 fails for a format code. -/
def Flow.svpBad (f : Flow) (c : Nat) : Bool :=
  isScaled c && (!f.svp.getLsbD 6 || decide (48 ≤ wbits f.svp 0 6))

/-- The same check as vector memory words make it, under block-scaled and outlier formats (R155). -/
def Flow.svpBadMem (f : Flow) : Bool := f.svpBad f.fmtc || (f.fmtc == 14 && (!f.svp.getLsbD 6 || decide (48 ≤ wbits f.svp 0 6)))

/-- The exact values of the first n elements of a group under a format code. -/
def Flow.vals (f : Flow) (v g c n : Nat) : List FVal :=
  let x := f.gstr v g
  let w := fwidth c
  (List.range n).map (elemVal c (fun i => bits x (i * w) w) f.scaleByte)

/-- The smallest power of two that is at least max(1, g × ws / w), R131. -/
def gsOf (g ws w : Nat) : Nat :=
  let n := ceilDiv (g * ws) w
  if n ≤ 1 then 1 else if n ≤ 2 then 2 else if n ≤ 4 then 4 else if n ≤ 8 then 8 else 16

/-- Re-forms every vector register under a new grant (R50) and takes it. -/
def Flow.regrant (f : Flow) (g : BitVec 8) : Flow :=
  if g = f.vgnt then f
  else
    let f' := { f with vgnt := g }
    let l := 2048 * min f.granted f'.granted
    { f' with v := f.v.map (fun r => BitVec.ofNat 16384 (r.toNat % 2 ^ l)) }

/-- Lowers VL to VLMAX() (R39). -/
def Flow.clampVl (f : Flow) : Flow := if f.vlmax < f.vlN then { f with vl := BitVec.ofNat 16 f.vlmax } else f

/-- The word after the one at pc. -/
def Flow.next (f : Flow) : Flow := { f with pc := f.pc + 4 }

/-- Whether the flow holds a pending or landed tag (R53). -/
def Flow.holdsTag (f : Flow) : Bool :=
  f.tags.any (fun t => match t with | .pending _ => true | .landed _ => true | _ => false)

/-- The core of the module a flow runs on, 0 to 255. -/
def Loc.coreIdx (l : Loc) : Nat := (l.die * 16 + l.cluster) * 4 + l.core

/-- The cluster of the module a flow runs in, 0 to 63. -/
def Loc.clusterIdx (l : Loc) : Nat := l.die * 16 + l.cluster

end Sys2Proof.Machine
end

