-- ==== Sys2Proof/Machine/Flags.lean ====
section
/-! DEFINITION. The MK-AX9 has no condition flags: arithmetic records none (R61). What an instruction leaves besides
its result is an exception; this file holds the causes and subcodes (R84, R236, R367, R396, R448) and the checks
on a word that need the flow's state: convoy (R79 to R82), type (R83), group (R31), feature (R457) and
uncorrectable registers (R443). -/

namespace Sys2Proof.Machine

/-- An exception: cause and subcode (R367), EVAL, and the address of the word it names when that is not pc. -/
structure Trap where
  cause : Nat
  sub : Nat
  eval : Word := 0
  epc : Option Word := none
  /-- Physical address for the error log (R445). -/
  pa : Nat := 0
  deriving DecidableEq, Repr

/-- ILLEGAL with a subcode of R84 or R367. -/
def ill (sub : Nat) : Trap := ⟨1, sub, 0, none, 0⟩

def subConvoy : Nat := 0x06
def subType : Nat := 0x07
def subGroup : Nat := 0x08
def subVtype : Nat := 0x09
def subSvp : Nat := 0x0A
def subCsr : Nat := 0x0B
def subCsrRo : Nat := 0x0C
def subTagBusy : Nat := 0x0D
def subLbFull : Nat := 0x0E
def subTagLost : Nat := 0x0F
def subLoop : Nat := 0x10
def subMxState : Nat := 0x11
def subLayout : Nat := 0x12
def subNotMember : Nat := 0x13
def subTemplate : Nat := 0x14
def subField : Nat := 0x03

/-- The subcode of a word the decoder refuses (R84, items 1 to 5; C = 1 on a scalar-class word is CONVOY). -/
def decErrSub : DecErr → Nat
  | .opcode => 1
  | .func => 2
  | .field => 3
  | .reg => 4
  | .mask => 5
  | .convoy => 6
  | .short => 1

def privT : Trap := ⟨2, 0, 0, none, 0⟩
def brkT (code : Word) : Trap := ⟨3, 0, code, none, 0⟩
def sysT (code : Word) : Trap := ⟨4, 0, code, none, 0⟩
def alignT (a : Word) : Trap := ⟨5, 0, a, none, 0⟩
def xlateT (sub : Nat) (a : Word) : Trap := ⟨6, sub, a, none, 0⟩
def dataErrT (sub : Nat) (a : Word) : Trap := ⟨7, sub, a, none, 0⟩

/-- The first condition that holds decides the exception (R28, R84). -/
def firstTrap : List (Bool × Trap) → Option Trap
  | [] => none
  | (b, t) :: rest => if b then some t else firstTrap rest

/-- The pipes of R80. -/
inductive Pipe where
  | a | l | s | p | x
  deriving DecidableEq, Repr

/-- Convoy claims with one pipe more. -/
def Convoy.claim (c : Convoy) : Pipe → Convoy
  | .a => { c with a := c.a + 1 }
  | .l => { c with l := c.l + 1 }
  | .s => { c with s := c.s + 1 }
  | .p => { c with p := c.p + 1 }
  | .x => { c with x := c.x + 1 }

/-- At most two A claims and one of every other pipe (R80). -/
def Convoy.within (c : Convoy) : Bool := decide (c.a ≤ 2 ∧ c.l ≤ 1 ∧ c.s ≤ 1 ∧ c.p ≤ 1 ∧ c.x ≤ 1)

/-- Whether a word with this C bit starts a convoy (R79, R82). -/
def Flow.starts (f : Flow) (c : Bool) : Bool := c || f.convoy.fresh

/-- Whether a vector-class word breaks R81: it continues no open convoy, would be the seventh word, or claims a
pipe beyond the limits. -/
def Flow.convoyBad (f : Flow) (c : Bool) (claims : List Pipe) : Bool :=
  !f.starts c &&
    (!f.convoy.isOpen || decide (6 ≤ f.convoy.words) || !(claims.foldl Convoy.claim f.convoy).within)

/-- The convoy after the word (R79): a word that ends its convoy closes it. -/
def Flow.convoyAfter (f : Flow) (c : Bool) (claims : List Pipe) (ends : Bool) : Convoy :=
  let base := if f.starts c then { Convoy.none with isOpen := true } else f.convoy
  let n := claims.foldl Convoy.claim { base with words := base.words + 1, fresh := false }
  if ends then Convoy.none else n

/-- The number of a register that holds an uncorrectable error, as EVAL reports it (R442; log 22 for masks and
landing entries). -/
def RegRef.num : RegRef → Nat
  | .s r => r
  | .v r => r
  | .m r => r
  | .acc r => 64 + r
  | .land t => t

/-- DATAERR of the first register read that holds an uncorrectable error (R443). -/
def regErr (f : Flow) (refs : List RegRef) : List (Bool × Trap) :=
  match refs.find? (fun r => f.bad.contains r) with
  | some r => [(true, dataErrT 4 (w64 r.num))]
  | none => []

/-- The registers a vector-class word checks: none with VL = 0 (R211). -/
def Flow.vRefs (f : Flow) (refs : List RegRef) : List RegRef := if f.vlN = 0 then [] else refs

/-- The scalar registers a word reads. -/
def sRefs (rs : List (BitVec 5)) : List RegRef := rs.map (fun r => .s r.toNat)

/-- The mask register a mask field names. -/
def mRef (m : BitVec 4) : List RegRef := if m = 15 then [] else [.m m.toNat]

/-- The instruction's own word (R74). -/
def wordOf (i : Instr) : Word := w64 ((encodeNat i).getD 0)

/-- FEATURE for a word whose feature bit is not accepted and locked (R455 to R457). -/
def featErr (d : Device) (fbit : Nat) (i : Instr) : List (Bool × Trap) :=
  [(!(d.featLock && (d.featAcc.getD 0 0).getLsbD fbit), ⟨0x12, fbit, wordOf i, none, 0⟩)]

/-- A first register that is no multiple of the group size (R31). -/
def groupBad (vs : List (BitVec 6)) (g : Nat) : Bool := vs.any (fun v => v.toNat % g != 0)

end Sys2Proof.Machine
end

