-- ==== Sys2Proof/Machine/Ops.lean ====
section
/-! DEFINITION. The shared operations over the whole state: looking parts up, charging energy (R363), raising
interrupts and logging errors, taking an exception (R371, R373) and returning (R374), translation (R390 to R397),
and the beginning of a word on the scalar sequencer or the vector pipes. -/

namespace Sys2Proof.Machine

abbrev Res := Host.Outcome State Fault Refusal

/-! ### Looking parts up and changing them -/

/-- A transfer of control here ends the task (R179, R180). -/
def sentinel : Word := 0xFFFFFFFFFFFFFFF0

def State.setMe (s : State) (f : Flow) : State := { s with me := f }
def State.modMe (s : State) (g : Flow → Flow) : State := { s with me := g s.me }

/-- Every flow. -/
def State.flows (s : State) : List Flow := s.me :: s.rest

def State.flow? (s : State) (k : FlowKey) : Option Flow := s.flows.find? (fun f => f.key == k)

/-- Changes the flow of a key. -/
def State.modFlow (s : State) (k : FlowKey) (g : Flow → Flow) : State :=
  if s.me.key = k then { s with me := g s.me }
  else { s with rest := s.rest.map (fun f => if f.key = k then g f else f) }

/-- Brings the flow of a key to its turn. -/
def State.swapIn (s : State) (k : FlowKey) : State :=
  if s.me.key = k then s
  else
    match s.rest.find? (fun f => f.key == k) with
    | some f => { s with me := f, rest := s.me :: s.rest.filter (fun g => g.key != k) }
    | none => s

def State.ten (s : State) (t : Nat) : Tenant := s.tenants.getD t Tenant.init
def State.modTen (s : State) (t : Nat) (g : Tenant → Tenant) : State := { s with tenants := s.tenants.modify t g }
def State.launch? (s : State) (id : Nat) : Option Launch := s.launches.find? (fun l => l.id == id)
def State.modLaunch (s : State) (id : Nat) (g : Launch → Launch) : State :=
  { s with launches := s.launches.map (fun l => if l.id = id then g l else l) }
def State.modDev (s : State) (g : Device → Device) : State := { s with dev := g s.dev }

/-- A free value of the machine, fresh at every draw (log 12). -/
def State.draw (s : State) : Word × State := (Config.freeValue s.freeCtr, { s with freeCtr := s.freeCtr + 1 })

/-! ### Energy, interrupts, the error log -/

/-- Charges a tenant and a launch (R363, R364). -/
def State.charge (s : State) (t launch fj : Nat) : State :=
  (s.modTen t (fun x => { x with spent := x.spent + fj })).modLaunch launch
    (fun l => { l with charged := l.charged + fj })

/-- ENUSED and ENBUDGET of R364. -/
def Tenant.enused (t : Tenant) : Nat := t.spent / 10 ^ 9
def Tenant.enbudget (t : Tenant) : Nat := t.share - t.enused
def Tenant.overrun (t : Tenant) : Bool := decide (t.share ≤ t.enused)

/-- Prices of R363 in femtojoules. -/
def priceA : Nat := 40000
def pricePipe : Nat := 24000
def priceScalar : Nat := 6000
def priceHbm : Nat := 4000
def priceL2 : Nat := 1500
def priceSpm : Nat := 300
def priceDie : Nat := 2000
def priceVex : Nat := 10000
def priceHost : Nat := 12000

/-- The posted write of MSI-X vector v of a function, to the address that its table entry holds (R433). -/
def Device.msi (d : Device) (fn v : Nat) : Flight :=
  ⟨[.host false], {
    load := false, seq := 0, ival := 0, key := 0, dst := 0, size := 4, sext := false, fill := false, va := 0, grain := 0, vec := false, amo := none
    addr := 0x8000000000000 + (aget d.msixTable (fn, 0x1000 + 16 * v) 0).toNat % 2 ^ 51
    data := aget d.msixTable (fn, 0x1008 + 16 * v) 0
    en := 0 }, .msi fn v⟩

/-- Whether a function is there: after a boot that stopped, the PF alone (R453). -/
def Device.served (d : Device) (fn : Nat) : Bool := fn == 0 || d.bootResult == 0

/-- Raises MSI-X vector v of a function: its posted write joins HQ (R433). -/
def State.irq (s : State) (fn v : Nat) : State := { s with net := s.net ++ [s.dev.msi fn v] }

/-- Appends a record to the error log (R445, R446): 32 bytes written to the ring, or dropped when it is full. The clock
stands at the last window boundary; the time since then is a free value (log 35). -/
def State.logErr (s : State) (kind cause sub tenant die pa va : Nat) : State :=
  if !s.dev.elEn then s
  else if (s.dev.elHead - s.dev.elTail).toNat = 2 ^ s.dev.elSize then
    (s.modDev (fun d => { d with elOvf := if d.elOvf = BitVec.allOnes 32 then d.elOvf else d.elOvf + 1 })).irq 0 0
  else
    let info := kind + cause <<< 8 + sub <<< 16 + tenant <<< 24 + die <<< 30
    let a := s.dev.elBase.toNat + 32 * (s.dev.elHead.toNat % 2 ^ s.dev.elSize)
    let time := s.dev.clock + (Config.freeValue s.freeCtr).toNat % 10 ^ 6
    { s with
      freeCtr := s.freeCtr + 1
      mem := s.mem.setN a (bytesLE 8 info ++ bytesLE 8 pa ++ bytesLE 8 va ++ bytesLE 8 time)
      memKey := s.memKey.setN a (List.replicate 32 0)
      bad := s.bad.filter (fun b => !decide (a ≤ b ∧ b < a + 32))
      badCache := s.badCache.filter (fun b => !decide (a ≤ b ∧ b < a + 32))
      dev := { s.dev with elHead := s.dev.elHead + 1 } }

/-! ### Exceptions -/

/-- The CAUSE word (R368). -/
def Trap.causeWord (t : Trap) : Word := w64 (t.cause + t.sub <<< 8)

/-- STATUS as read (R369). -/
def Flow.status64 (f : Flow) : Word := w64 (f.status3.toNat + b2n f.preq <<< 3)

/-- Whether the flow runs in supervisor mode. -/
def Flow.sup (f : Flow) : Bool := f.status3.getLsbD 0

/-- An unhandled trap (R373): the tenant's record is filled if free, UCOUNT counts it, vector 0 is raised, and the
flow goes to the return sentinel, where its task ends (R180). -/
def State.unhandled (s : State) (t : Trap) (epc : Word) : State :=
  let s1 := s.modTen s.me.tenant (fun x =>
    let x := if x.ucause.getLsbD 63 then x else { x with
      ucause := w64 (2 ^ 63 + s.me.key.lflow <<< 32 + t.causeWord.toNat), uepc := epc, ueval := t.eval }
    { x with ucount := min (x.ucount + 1) (2 ^ 32 - 1) })
  (s1.irq s.me.tenant 0).modMe (fun f => { f with pc := sentinel, convoy := Convoy.none, rebuilt := false })

/-- A handle (R226). -/
def planHandle (gen off : Nat) : Word := w64 (gen <<< 40 + off)

/-- The virtual address of a consumed error as far as EVAL is one (R445): not of a register, nor of a plan's own bytes, for which
EVAL holds a number or a handle. -/
def State.trapVa (s : State) (t : Trap) : Nat :=
  let x := s.ten s.me.tenant
  let arena := x.wbase.toNat + wbits x.arena 0 40
  let inPlan (p : PlanRec) : Bool := p.tenant == s.me.tenant && planHandle p.gen p.off == t.eval &&
    decide (arena + p.off ≤ t.pa ∧ t.pa < arena + p.off + p.size)
  if t.sub = 4 || s.plans.any inPlan then 0 else t.eval.toNat

/-- Trap entry (R371) of the flow whose turn it is. It closes an ordering interval (R199) and the open convoy; a
consumed uncorrectable error is logged (R445). -/
def State.trap (s : State) (t : Trap) : State :=
  let epc := t.epc.getD s.me.pc
  let s := if t.cause = 7 then s.logErr 2 7 t.sub s.me.tenant s.me.loc.die t.pa (s.trapVa t) else s
  let tvec := (s.ten s.me.tenant).tvec
  if s.me.status3.getLsbD 2 || tvec == 0 then s.unhandled t epc
  else s.modMe (fun f => { f with
    cause := t.causeWord
    epc := epc
    eval := t.eval
    status3 := (4 : BitVec 3) ||| (if f.status3.getLsbD 0 then 2 else 0) ||| 1
    pc := tvec
    ival := f.ival + 1
    convoy := Convoy.none
    rebuilt := false })

/-- The return of ERET (R374): the mode before the trap, INTRAP clear, an interval closed, a new convoy at EPC
whatever its C bit (R82). -/
def State.eret (s : State) : State :=
  s.modMe (fun f => { f with
    status3 := (if f.status3.getLsbD 1 then 3 else 0)
    ival := f.ival + 1
    pc := f.epc
    convoy := { Convoy.none with fresh := true } })

/-- The first exception of a list, or the effect. -/
def run (s : State) (cks : List (Bool × Trap)) (eff : State → State) : Res :=
  match firstTrap cks with
  | some t => .next (s.trap t)
  | none => .next (eff s)

/-! ### Addresses -/

/-- What a physical address names (R391, log 2). -/
inductive Region where
  | hbm | pool | peer (n off : Nat) | host (a : Nat) | tcm (core off : Nat) | spm (cluster off : Nat) | none
  deriving DecidableEq, Repr

def regionOf (pa : Nat) : Region :=
  if pa < 0xF000000000 then .hbm
  else if pa < 0x10000000000 then .none
  else if pa < 0x10010000000 then .pool
  else if pa < 0x4000000000000 then .none
  else if pa < 0x8000000000000 then .peer ((pa - 0x4000000000000) >>> 40) (pa % 2 ^ 40)
  else if pa < tcmBase then .host (pa - 0x8000000000000)
  else if pa < spmBase then .tcm ((pa - tcmBase) >>> 18) (pa % 2 ^ 18)
  else .spm ((pa - spmBase) >>> 22) (pa % 2 ^ 22)

/-- The place of i among 0 to n − 1 in the order of their keys. -/
def rankOf (key : Nat → Nat) (n i : Nat) : Nat :=
  ((List.range n).filter (fun j => decide (key j < key i ∨ (key j = key i ∧ j < i)))).length

/-- The home die of an address. Each die's two stacks hold 240 of the module's 1 GiB frames of HBM (R1), and each die
8 MiB of every 32 MiB way of the pool (R220); which ones, and the die that keeps a peer address's copy, is free
(log 8). Host memory is reached through die 0 (R109). -/
def homeDie (pa : Nat) : Nat :=
  match regionOf pa with
  | .hbm => rankOf Config.homeDie 960 (pa / 2 ^ 30) / 240
  | .pool => let u := (pa - 0x10000000000) / 2 ^ 23; rankOf (fun j => Config.homeDie (1024 + u / 4 * 4 + j)) 4 (u % 4)
  | .host _ => 0
  | .tcm c _ => c / 64
  | .spm c _ => c / 16
  | _ => Config.homeDie (2048 + pa / 4096) % 4

/-- The stack of an HBM address: its die's two stacks interleave at 4 KiB (R1). -/
def hbmStack (pa : Nat) : Nat := 2 * homeDie pa + pa / 4096 % 2

/-- The bank of an HBM row: its stack, and the bank within it (log 36). -/
def hbmBankOf (row : Nat) : Nat := hbmStack row + 8 * Config.hbmBank row

/-- The L2 slice within its die (R218). -/
def sliceOf (pa : Nat) : Nat := 8 * ((pa / 2048) % 4) + (pa / 256) % 8

/-- Whether an up port reaches peer n (R436). -/
def Device.reaches (d : Device) (n : Nat) : Bool :=
  d.peers.any (fun p => p.dev == n && p.ports.any (fun i => (d.ports.getD i ⟨false, 0, 0, 0⟩).up))

/-- The port by which a request from a die to peer n leaves, and its replies return: of the die's ports that are up and reach the
peer, by the address; where the die has none, of those of the other dies (R436, log 124). -/
def Device.portFor (d : Device) (die pa n : Nat) : Option Nat :=
  let ups := (List.range 64).filter (fun i => (d.ports.getD i ⟨false, 0, 0, 0⟩).up && d.peers.any (fun p => p.dev == n && p.ports.contains i))
  let mine := ups.filter (fun i => i / 16 == die)
  let ps := if mine.isEmpty then ups else mine
  ps[pa / 256 % 16 % ps.length]?

/-- Whether peer n serves a request under a tag at an offset (R438). -/
def Device.peerServes (d : Device) (n tag off : Nat) : Bool :=
  tag != 0 && d.peers.any (fun p => p.dev == n && p.windows.any (fun w => w.1 == tag && decide (w.2.1 ≤ off ∧ off < w.2.2)))

/-- HOME_LOST at an address, with its subcode (R448). -/
def State.homeLost (s : State) (pa : Nat) : Option Nat :=
  match regionOf pa with
  | .hbm => if s.dev.dieLost != 0 && s.dev.dieLost.getLsbD (homeDie pa) then some 1 else none
  | .pool => if s.dev.dieLost != 0 && s.dev.dieLost.getLsbD (homeDie pa) then some 1 else none
  | .peer n _ => if s.dev.domEn && s.dev.reaches n then none else some 2
  | _ => none

/-- Whether the 8-byte word at an address, or for HBM its 32-byte sector, holds an uncorrectable error, with the
subcode of R444; an error in a cached copy comes first. -/
def State.dataBad (s : State) (pa : Nat) : Option Nat :=
  if s.badCache.contains (pa / 8 * 8) then some 2
  else if s.bad.isEmpty then none
  else
    match regionOf pa with
    | .tcm .. => if s.bad.contains (pa / 8 * 8) then some 3 else none
    | .spm .. => if s.bad.contains (pa / 8 * 8) then some 3 else none
    | .pool => if s.bad.contains (pa / 8 * 8) then some 1 else none
    | _ => if s.bad.any (fun b => b / 32 == pa / 32) then some 1 else none

/-- The words that an error at a byte of memory makes uncorrectable: a sector of HBM, elsewhere one word (R444). -/
def badWords (a : Nat) : List Nat :=
  match regionOf a with
  | .hbm => (List.range 4).map (fun i => a / 32 * 32 + 8 * i)
  | _ => [a / 8 * 8]

/-- The lost granule that holds an address (R427), as first address and bytes, until its words have been rewritten. -/
def State.lostGranule (s : State) (pa : Nat) : Option (Nat × Nat) :=
  if s.dev.dieLost = 0 then none
  else
    (s.coh.dir.find? (fun e => e.lost && decide (e.g.addr ≤ pa ∧ pa < e.g.addr + e.g.size) &&
      s.bad.any (fun b => decide (e.g.addr ≤ b ∧ b < e.g.addr + e.g.size)))).map (fun e => (e.g.addr, e.g.size))

/-- Of the bytes that a store writes, the place of the first in a lost granule that the store does not write whole:
such a store raises DATAERR (R427). -/
def State.lostByte (s : State) (pas : List Nat) : Option Nat :=
  if s.dev.dieLost = 0 then none
  else
    (pas.zipIdx.find? (fun p =>
      match s.lostGranule p.1 with
      | some g => !(List.range g.2).all (fun i => pas.contains (g.1 + i))
      | none => false)).map (·.2)

/-- A byte read under a key (R393, log 9): the stored byte under the key it was written under. A pool byte as the
pool's setting leaves it reads zero under every key (R220), and so does one stored as zero under key 0 since, from which the model
does not tell it (log 105). A peer's byte is read and written under the key of the tenant that serves it there (R438), not under
the leaf's. -/
def byteUnder (mem memKey : Memory) (pa key : Nat) : Byte :=
  if (memKey.get pa).toNat = key then mem.get pa
  else
    match regionOf pa with
    | .peer .. => mem.get pa
    | .pool => if memKey.get pa = 0 ∧ mem.get pa = 0 then 0 else Config.wrongKey pa key
    | _ => Config.wrongKey pa key

/-- Memory's byte under a key. -/
def State.keyByte (s : State) (pa key : Nat) : Byte := byteUnder s.mem s.memKey pa key

/-- The same as the last boundary of a context in replay mode left it; before the first, as it stands (R209). -/
def State.snapByte (s : State) (tenant pa key : Nat) : Byte :=
  match s.snaps.find? (fun p => p.1 == tenant) with
  | some p => byteUnder p.2.1 p.2.2 pa key
  | none => s.keyByte pa key

def State.keyBytes (s : State) (pa key n : Nat) : List Byte := (List.range n).map (fun i => s.keyByte (pa + i) key)

/-- A byte written under a key. -/
def State.setByte (s : State) (pa key : Nat) (x : Byte) : State :=
  { s with mem := s.mem.set pa x, memKey := s.memKey.set pa (BitVec.ofNat 8 key) }

def State.setBytes (s : State) (pa key : Nat) : List Byte → State
  | [] => s
  | x :: xs => (s.setByte pa key x).setBytes (pa + 1) key xs

/-! ### Translation -/

/-- The permission an access needs (R395). -/
inductive Acc where
  | r | w | x
  deriving DecidableEq, Repr

/-- Cause and subcode of a failed access. -/
abbrev XErr := Nat × Nat

def xe (sub : Nat) : Except XErr α := .error (6, sub)

/-- The context of a flow. -/
def State.ctx (s : State) (f : Flow) : Ctx :=
  let r := match s.launch? f.key.launch with
    | some l => (l.spmOff * 4096, (l.spmOff + l.spmLen) * 4096)
    | none => (0, 0)
  ⟨f.tenant, !f.sup, some f.loc.coreIdx, f.loc.clusterIdx, r.1, r.2⟩

/-- The keys a tenant holds (R348). -/
def Tenant.hasKey (t : Tenant) (k : Nat) : Bool :=
  k == 0 || (List.range 4).any (fun i => bits t.keys.toNat (8 * i) 8 == k)

def Tenant.arenaBase (t : Tenant) : Nat := wbits t.arena 0 40
def Tenant.arenaSize (t : Tenant) : Nat := wbits t.arena 40 24 * 2 ^ 20
def Tenant.arenaPa (t : Tenant) (off : Nat) : Nat := t.wbase.toNat + t.arenaBase + off
/-- The key of the tables and the arena (R394, R227). -/
def Tenant.rootKey (t : Tenant) : Nat := wbits t.ptroot 52 8

/-- Whether a leaf of the tenant may map a physical address (R391). -/
def State.allowedPa (s : State) (t : Tenant) (pa : Nat) : Bool :=
  match regionOf pa with
  | .hbm => decide (t.wbase.toNat ≤ pa ∧ pa < t.wlimit.toNat)
  | .pool =>
    let lo := 0x10000000000 + wbits t.pool 0 40
    decide (lo ≤ pa ∧ pa < lo + wbits t.pool 40 24 * 2 ^ 20 ∧ pa < 0x10000000000 + s.dev.poolWays * 2 ^ 25)
  | .peer .. => true
  | .host _ => true
  | _ => false

/-- Page size of a leaf at a level (R392). -/
def pageSize (level : Nat) (c : Bool) : Nat :=
  match level with
  | 0 => if c then 2 ^ 16 else 2 ^ 12
  | 1 => 2 ^ 21
  | _ => 2 ^ 30

/-- Whether a valid entry breaks R393 at a level. -/
def pteBad (level e : Nat) : Bool :=
  let r := bit e 1
  let w := bit e 2
  let x := bit e 3
  let c := bit e 5
  if !r && !w && !x then
    level == 0 || e != (e % 2 ^ 52) / 2 ^ 12 * 2 ^ 12 + 1
  else
    bits e 62 2 == 3 || bits e 60 2 == 3 || bits e 7 5 != 0 || decide (3 ≤ level) || (c && level != 0)
      || (w && !r) || (bits e 12 40 * 4096) % pageSize level c != 0

/-- A walk from a table (R395): the leaf, its address and the page size. -/
def State.walkFrom (s : State) (t : Tenant) (va : Nat) : Nat → Nat → Except XErr (Nat × Nat × Nat)
  | level, table =>
    let a := table + 8 * bits va (12 + 9 * level) 9
    match s.homeLost a with
    | some sub => .error (0x0F, sub)
    | none =>
      match s.dataBad a with
      | some sub => .error (7, sub)
      | none =>
        if !(decide (t.wbase.toNat ≤ table ∧ table + 4096 ≤ t.wlimit.toNat)) then xe 5
        else
          let e := natLE (s.keyBytes a t.rootKey 8)
          if !bit e 0 then xe 2
          else if pteBad level e then xe 3
          else if bits e 1 3 = 0 then
            match level with
            | 0 => xe 3
            | l + 1 => s.walkFrom t va l (bits e 12 40 * 4096)
          else .ok (e, a, pageSize level (bit e 5))

/-- A fresh walk of R395 from the root. -/
def State.walkRoot (s : State) (tenant va : Nat) : Except XErr (Nat × Nat × Nat) :=
  let t := s.ten tenant
  s.walkFrom t va 4 (wbits t.ptroot 12 40 * 4096)

/-- Whether a command's range meets [a, a + n) (R400). -/
def Shoot.covers (c : Shoot) (a n : Nat) : Bool := c.npages == 0 || (decide (a < c.va + 4096 * c.npages) && decide (c.va < a + n))

/-- Whether a shootdown of the context that has started covers an address: its lookups walk afresh (R401). -/
def State.shooting (s : State) (tenant va : Nat) : Bool := (s.ten tenant).sdq.any (fun c => c.started && c.covers va 1)

/-- Where a walk by a die's walkers starts: at the lowest table that the walk cache names, else at the root (R395, R398). -/
def State.walkStart (s : State) (die tenant va : Nat) : Nat × Nat :=
  let root := (4, wbits (s.ten tenant).ptroot 12 40 * 4096)
  if s.walks.isEmpty || s.shooting tenant va then root
  else
    let near (p : WalkPtr) : Bool := p.die == die && p.tenant == tenant && p.vbase == va / 2 ^ (21 + 9 * p.level) * 2 ^ (21 + 9 * p.level)
    match argMin (fun p => p.level) (s.walks.filter near) with
    | none => root
    | some p => (p.level, p.table)

/-- A walk by a die's walkers; a fault is found on a fresh walk (R398). -/
def State.walk (s : State) (die tenant va : Nat) : Except XErr (Nat × Nat × Nat) :=
  if s.walks.isEmpty then s.walkRoot tenant va
  else
    let p := s.walkStart die tenant va
    match s.walkFrom (s.ten tenant) va p.1 p.2 with
    | .ok r => .ok r
    | .error _ => s.walkRoot tenant va

/-- The TLB entry that covers an address for an agent: its core's, else its cluster's (R398). -/
def State.tlbHit (s : State) (c : Ctx) (va : Nat) : Option TlbEnt :=
  if s.tlb.isEmpty || s.shooting c.tenant va then none
  else
    let hit (p : TlbAt) : Option TlbEnt :=
      s.tlb.find? (fun e => e.place == p && e.tenant == c.tenant && decide (e.vbase ≤ va ∧ va < e.vbase + e.size))
    match c.core with
    | some k => (hit (.core k)).orElse fun _ => hit (.cluster c.cluster)
    | none => hit (.cluster c.cluster)

/-- The leaf for an address: a cached translation, or a walk (R395, R398). -/
def State.leafOf (s : State) (c : Ctx) (va : Nat) : Except XErr (Nat × Nat × Nat) :=
  match s.tlbHit c va with
  | some e => .ok (e.leaf.toNat, e.pte, e.size)
  | none => s.walk (c.cluster / 16) c.tenant va

/-- Translates one byte address: local windows (R212), the arena window (R213), page tables (R395). -/
def State.translate (s : State) (c : Ctx) (va : Nat) (acc : Acc) : Except XErr Xl :=
  if 2 ^ 57 ≤ va then xe 1
  else if 0x1FFFFFFFFFC0000 ≤ va then
    match c.core with
    | some k => .ok ⟨tcmBase + k * 2 ^ 18 + va % 2 ^ 18, 0, 0, 0, 0, false, false⟩
    | none => xe 0
  else if 0x1FFFFFFFFC00000 ≤ va then xe 0
  else if 0x1FFFFFFFF800000 ≤ va then
    let o := va - 0x1FFFFFFFF800000
    if c.spmLo ≤ o ∧ o < c.spmHi then .ok ⟨spmBase + c.cluster * 2 ^ 22 + o, 0, 0, 0, 0, false, false⟩ else xe 0
  else if 0x1FE000000000000 ≤ va ∧ va < 0x1FF000000000000 then
    if c.user || acc = .x || c.core.isNone then xe 0
    else
      let t := s.ten c.tenant
      let o := va - 0x1FE000000000000
      if o < t.arenaSize then .ok ⟨t.arenaPa o, t.rootKey, 0, 1, 0, false, false⟩
      else if o < 0x800000000000 then xe 0
      else if 0x800000000000 + 16 * 4096 ≤ o || acc = .w then xe 0
      else .ok ⟨o - 0x800000000000, 0, 0, 0, 0, false, true⟩
  else
    match s.leafOf c va with
    | .error e => .error e
    | .ok (e, a, size) =>
      let t := s.ten c.tenant
      let key := bits e 52 8
      let pa := bits e 12 40 * 4096 / size * size + va % size
      if !t.hasKey key then xe 4
      else if !s.allowedPa t pa then xe 5
      else if c.user && !bit e 4 then xe 6
      else if !(match acc with | .r => bit e 1 | .w => bit e 2 | .x => bit e 3) then xe 7
      else .ok ⟨pa, key, bits e 62 2, bits e 60 2, a, !bit e 6, false⟩

/-- The checks of one byte access in the order of R105 and R158: translation, then HOME_LOST, then what a peer or
the host refuses (R434, R438). -/
def State.access (s : State) (c : Ctx) (va : Nat) (acc : Acc) : Except XErr Xl :=
  match s.translate c va acc with
  | .error e => .error e
  | .ok x =>
    if x.index then .ok x
    else
      match s.homeLost x.pa with
      | some sub => .error (0x0F, sub)
      | none =>
        match regionOf x.pa with
        | .peer n off => if s.dev.peerServes n (s.ten c.tenant).dtag.toNat off then .ok x else xe 8
        | .host a => if Config.hostRefuses c.tenant a then xe 9 else .ok x
        | _ => .ok x

/-- The trap of a failed access, with the EVAL the instruction states. -/
def errTrap (e : XErr) (eval : Word) : Trap := ⟨e.1, e.2, eval, none, 0⟩

/-! ### Words on the scalar sequencer and the vector pipes -/

/-- A scalar-class word begins: it ends the open convoy (R79), is charged (R363) and counts one element-beat of a
replay quantum (R209). -/
def State.beginScalar (s : State) : State :=
  (s.charge s.me.tenant s.me.key.launch priceScalar).modMe
    (fun f => { f with convoy := Convoy.none, qBeats := f.qBeats + 1 })

/-- Whether a flow's context is in replay mode (R209). -/
def State.replayOf (s : State) (f : Flow) : Bool := (s.ten f.tenant).replay

/-- A scalar-class word that cannot go on yet stays where it is; it has ended the open convoy all the same (R79). -/
def stall (s : State) : Res := .next (s.modMe (fun f => { f with convoy := Convoy.none }))

/-- A word that waits for an engine. In replay mode only a boundary can let it go on, so the flow's quantum ends (R209,
log 30). -/
def stallEngine (s : State) : Res :=
  .next (s.modMe (fun f => { f with convoy := Convoy.none, qEnd := f.qEnd || s.replayOf f }))

/-- The flow waits at its word (R178), which has ended the open convoy (R79). -/
def waitFor (s : State) (w : WaitCond) : Res :=
  .next (s.modMe (fun f => { f with status := .waiting w, convoy := Convoy.none }))

/-- A scalar-class word that falls through: its checks, then its effect on the flow. -/
def scalarWord (s : State) (cks : List (Bool × Trap)) (eff : Flow → Flow) : Res :=
  run s cks (fun s => s.beginScalar.modMe (fun f => (eff f).next))

/-- A scalar-class word whose effect reaches beyond the flow; the pc moves on. -/
def scalarWordS (s : State) (cks : List (Bool × Trap)) (eff : State → State) : Res :=
  run s cks (fun s => (eff s.beginScalar).modMe Flow.next)

/-- The lane groups the elements of a word lie in: the grant, or under `.par` the one of the strip's copy (R171). -/
def Flow.laneSet (f : Flow) : BitVec 8 :=
  match f.loop with
  | some l => if l.par then BitVec.ofNat 8 (2 ^ f.lgs.getD (l.strip % f.granted) 0) else f.vgnt
  | none => f.vgnt

/-- The number of the open strip, 0 outside a loop. -/
def Flow.stripNo (f : Flow) : Nat := if f.loop.isSome then f.strips else 0

/-- VQ's accounting of a vector-class word (R183, R188). -/
def Flow.pushVq (f : Flow) (starts isA ld st : Bool) (width grp : Nat) : Flow :=
  { f with vq := f.vq ++ [⟨starts, isA, ld, st, width, grp, f.vlN, f.laneSet, f.stripNo, f.seq, none, none⟩] }

/-- The word that joined VQ last, with more said of it. -/
def Flow.markVq (f : Flow) (g : VWork → VWork) : Flow :=
  { f with vq := f.vq.dropLast ++ (f.vq.getLast?.map g).toList }

/-- The words of the convoy at the head of VQ, and the rest. -/
def convoyHead : List VWork → List VWork × List VWork
  | [] => ([], [])
  | w :: ws => (w :: ws.takeWhile (fun x => !x.starts), ws.dropWhile (fun x => !x.starts))

/-- Element groups of a lane group's share of a string of n bits: share number i of registers of L bits (R187). -/
def laneGroups (n L i : Nat) : Nat → Nat
  | 0 => 0
  | r + 1 => ceilDiv (min 2048 (n - (L * r + 2048 * i))) 512 + laneGroups n L i r

/-! What a convoy's words say of it: how many there are, those on A pipes, whether one loads or stores, its strip and lane
groups, and the widest operand string's width and VL (R187). -/

def RunConvoy.words (c : RunConvoy) : Nat := c.ws.length
def RunConvoy.aWords (c : RunConvoy) : Nat := (c.ws.filter (fun w => w.isA)).length
def RunConvoy.ld (c : RunConvoy) : Bool := c.ws.any (fun w => w.ld)
def RunConvoy.st (c : RunConvoy) : Bool := c.ws.any (fun w => w.st)
def RunConvoy.strip (c : RunConvoy) : Nat := match c.ws with | w :: _ => w.strip | [] => 0
def RunConvoy.gnt (c : RunConvoy) : BitVec 8 := match c.ws with | w :: _ => w.gnt | [] => 0

/-- The word of the widest operand string: its width and VL. -/
def widest : List VWork → Nat × Nat
  | [] => (0, 0)
  | w :: ws => ws.foldl (fun b x => if b.1 * b.2 < x.width * x.vl then (x.width, x.vl) else b) (w.width, w.vl)

def RunConvoy.width (c : RunConvoy) : Nat := (widest c.ws).1
def RunConvoy.vl (c : RunConvoy) : Nat := (widest c.ws).2

/-- The element groups of the widest string of a list of words, per lane group. -/
def groupsOf (ws : List VWork) (gnt : BitVec 8) : List Nat :=
  let n := (widest ws).1 * (widest ws).2
  let lanes := (List.range 8).filter (fun j => gnt.getLsbD j)
  let L := 2048 * lanes.length
  (List.range 8).map (fun j =>
    if lanes.contains j ∧ n ≠ 0 then laneGroups n L (lanes.findIdx (· == j)) (ceilDiv n L) else 0)

/-- The convoy that a list of words makes: its element groups are those of its widest operand string (R187). -/
def runConvoy (ws : List VWork) : RunConvoy :=
  ⟨ws, List.replicate 8 0, groupsOf ws (match ws with | w :: _ => w.gnt | [] => 0)⟩

/-- Whether every element group of a convoy has been advanced. -/
def RunConvoy.ended (c : RunConvoy) : Bool := (List.range 8).all (fun j => decide (nth0 c.total j ≤ nth0 c.done j))

/-- Whether the flow's previous convoy has produced its last element (R79). -/
def Flow.vecIdle (f : Flow) : Bool := match f.cv with | some c => c.ended | none => true

/-- Whether a word that drains VQ goes on (R184). -/
def Flow.vqDrained (f : Flow) : Bool := f.vq.isEmpty && f.vecIdle

/-- Whether VQ has drained up to the producer of a mask register (R175, R184). -/
def Flow.maskDrained (f : Flow) (m : Nat) : Bool :=
  let makes (w : VWork) : Bool := w.mdst == some m
  !f.vq.any makes && (f.vecIdle || !(match f.cv with | some c => c.ws.any makes | none => false))

/-- A vector-class word issues: its place in the convoy, VPROG.V consumed (R43), its place in VQ, the next pc. -/
def Flow.issueVec (f : Flow) (c : Bool) (claims : List Pipe) (ends : Bool) (width grp : Nat) : Flow :=
  { ((f.pushVq (f.starts c) (claims.contains .a) (claims.contains .l) (claims.contains .s) width grp).next) with
    convoy := f.convoyAfter c claims ends
    vprog := f.vprog &&& 0xFFFFFFFF7FFFFFFF }

/-- The effect of a vector-class word on the flow, seen before its own bookkeeping. A full VQ stalls it (R183). -/
def vecEff (s : State) (c : Bool) (claims : List Pipe) (ends : Bool) (width grp : Nat) (eff : Flow → Flow) : State :=
  if 32 ≤ s.me.vq.length then s
  else s.modMe (fun f => (eff f).issueVec c claims ends width grp)

/-- The effect of a vector-class word that writes mask md (R32, R134): the same, and VQ knows the producer (R184). -/
def maskEff (s : State) (c : Bool) (claims : List Pipe) (width grp : Nat) (md : BitVec 6) (eff : Flow → Flow) : State :=
  if 32 ≤ s.me.vq.length then s
  else s.modMe (fun f => ((eff f).issueVec c claims false width grp).markVq (fun w => { w with mdst := some md.toNat }))

/-- A vector-class word: the checks of R84 from CONVOY on, late FIELD and GROUP checks, the feature and register
checks, the word's own exceptions, then its effect. -/
def vecWord (s : State) (c : Bool) (claims : List Pipe) (ends : Bool) (typeOk : Bool) (groups : List (BitVec 6))
    (late : List (Bool × Trap)) (refs : List RegRef) (own : List (Bool × Trap)) (width : Nat)
    (eff : Flow → Flow) : Res :=
  run s ([(s.me.convoyBad c claims, ill subConvoy), (!typeOk, ill subType),
      (groupBad groups s.me.grp, ill subGroup)] ++ late ++ regErr s.me (s.me.vRefs refs) ++ own)
    (fun s => vecEff s c claims ends width s.me.grp eff)

/-- A vector-class word that writes a mask register, with the same checks. -/
def maskWord (s : State) (c : Bool) (claims : List Pipe) (typeOk : Bool) (groups : List (BitVec 6)) (refs : List RegRef)
    (width : Nat) (md : BitVec 6) (eff : Flow → Flow) : Res :=
  run s ([(s.me.convoyBad c claims, ill subConvoy), (!typeOk, ill subType), (groupBad groups s.me.grp, ill subGroup)] ++
      regErr s.me (s.me.vRefs refs))
    (fun s => maskEff s c claims width s.me.grp md eff)

end Sys2Proof.Machine
end

