-- ==== Sys2Proof/Machine/Cache.lean ====
section
/-! DEFINITION. The copies the device keeps of memory: the cores' L1s (V_c; R206, R410, R417, R428), the registration
tables of the slices (R194, R408, R409), and the bytes of peer memory in the L2 (W_n; R439). -/

namespace Sys2Proof.Machine

/-! ### Registrations (R194, R408, R409) -/

/-- The 16-bit mask of an 8-byte word of a 128-byte line. -/
def wordBit (a : Nat) : BitVec 16 := BitVec.ofNat 16 (2 ^ (a % 128 / 8))

/-- The core that an 8-byte word is registered to. -/
def State.regOf (s : State) (a key : Nat) : Option Nat :=
  (s.reg.find? (fun r => r.line == a / 128 * 128 && r.key == key && (r.mask &&& wordBit a) != 0)).map (·.core)

/-- Whether a registration stands in the table of its home slice: the core is one of the home's die (R408). -/
def RegEnt.tabled (r : RegEnt) : Bool :=
  match regionOf r.line with
  | .hbm => homeDie r.line == r.core / 64
  | .pool => homeDie r.line == r.core / 64
  | _ => false

/-- Whether two entries share a set of one slice's table (R218, R409). -/
def RegEnt.sameSet (r q : RegEnt) : Bool :=
  r.tabled && q.tabled && r.line / 128 % 1024 == q.line / 128 % 1024 && sliceOf r.line == sliceOf q.line &&
    r.core / 64 == q.core / 64

/-- Words of an entry's mask that p selects leave it; an entry without words goes. -/
def regCut (rs : List RegEnt) (p : RegEnt → BitVec 16) : List RegEnt :=
  (rs.map (fun r => { r with mask := r.mask &&& ~~~(p r) })).filter (fun r => r.mask != 0)

/-- Words of a line are registered to a core and to no other: its entry becomes the one registered last, and the eighth
other entry of its set gives way to it (R409). -/
def State.register (s : State) (line key core : Nat) (mask : BitVec 16) : State :=
  let old := s.reg.find? (fun r => r.line == line && r.key == key && r.core == core)
  let new : RegEnt := ⟨line, key, core, mask ||| (match old with | some r => r.mask | none => 0)⟩
  let rest := regCut (s.reg.filter (fun r => !(r.line == line && r.key == key && r.core == core)))
    (fun r => if r.line = line ∧ r.key = key then mask else 0)
  let mates := rest.filter (fun r => r.sameSet new)
  let rest := if mates.length < 8 then rest else rest.filter (fun r => !(mates.drop 7).contains r)
  { s with reg := new :: rest }

/-- A word is registered to no core. -/
def State.unregister (s : State) (a key : Nat) : State :=
  { s with reg := regCut s.reg (fun r => if r.line = a / 128 * 128 ∧ r.key = key then wordBit a else 0) }

/-- The first addresses of the registered words of an entry. -/
def RegEnt.words (r : RegEnt) : List Nat :=
  ((List.range 16).filter (fun i => r.mask.getLsbD i)).map (fun i => r.line + 8 * i)

/-! ### L1 blocks (R410, R428) -/

/-- Bytes of a block as a mask: n from offset o up. -/
def byteMask (o n : Nat) : BitVec 512 := BitVec.ofNat 512 ((2 ^ n - 1) <<< o)

/-- Every bit of a byte mask widened to its byte. -/
def widenMask (m : BitVec 512) : BitVec 4096 :=
  BitVec.ofNat 4096 (packCodes 8 ((List.range 512).map (fun i => if m.getLsbD i then 255 else 0)))

/-- Sector-valid bits of a block (R410): sectors of which every byte is held. -/
def L1Blk.sectors (b : L1Blk) : BitVec 16 :=
  BitVec.ofNat 16 (packBits ((List.range 16).map (fun i => bits b.held.toNat (32 * i) 32 == 2 ^ 32 - 1)))

/-- Whether a block is the one of a core that holds an address under a key. -/
def L1Blk.isFor (b : L1Blk) (core a key : Nat) : Bool := b.core == core && b.addr == a / 512 * 512 && b.key == key

def State.l1Blk? (s : State) (core a key : Nat) : Option L1Blk := s.l1.find? (fun b => b.isFor core a key)

/-- The byte of V_c at an address under a key, where it is held. -/
def State.viewByte? (s : State) (core a key : Nat) : Option Byte :=
  match s.l1Blk? core a key with
  | some b => if b.held.getLsbD (a % 512) then some (BitVec.ofNat 8 (bits b.data.toNat (8 * (a % 512)) 8)) else none
  | none => none

/-- A block keeps the bytes of a mask. -/
def L1Blk.keep (b : L1Blk) (m : BitVec 512) : L1Blk := { b with held := b.held &&& m, data := b.data &&& widenMask (b.held &&& m) }

/-- n bytes put into a block from offset o up. -/
def L1Blk.put (b : L1Blk) (o n x : Nat) : L1Blk :=
  let m := ((2 ^ (8 * n) - 1) <<< (8 * o) : Nat)
  { b with
    held := b.held ||| byteMask o n
    data := BitVec.ofNat 4096 ((b.data.toNat - (b.data.toNat &&& m)) + (x % 2 ^ (8 * n)) <<< (8 * o)) }

/-- The stores that stand in the CQs of a core's flows. -/
def State.coreCq (s : State) (core : Nat) : List Access :=
  ((s.flows.filter (fun f => f.loc.coreIdx == core)).map (fun f => f.cq)).flatten

/-- The bytes a store writes, as a mask of the block at a base; none outside it. -/
def Access.maskIn (a : Access) (base : Nat) : BitVec 512 :=
  if base ≤ a.addr ∧ a.addr < base + 512 then
    BitVec.ofNat 512 ((packBits ((List.range 8).map (fun i => wbits a.en (8 * i) 8 != 0))) <<< (a.addr - base))
  else 0

/-- Bytes of a block that cannot DROP: registered to its core, or covered by a store of it in a CQ (R198). A line that
R109 has granted counts as registered (R408). -/
def State.pinned (s : State) (b : L1Blk) : BitVec 512 :=
  let reg := (s.reg.filter (fun r => r.core == b.core && r.key == b.key && r.line / 512 * 512 == b.addr)).foldl
    (fun m r => r.words.foldl (fun m w => m ||| byteMask (w - b.addr) 8) m) (0 : BitVec 512)
  let granted := (s.amoRuns.filter (fun r => r.core == b.core && r.n == 4 && r.key == b.key && r.line / 512 * 512 == b.addr)).foldl
    (fun m r => m ||| byteMask (r.line - b.addr) 128) reg
  (s.coreCq b.core).foldl (fun m a => if a.key = b.key then m ||| a.maskIn b.addr else m) granted

/-- The blocks changed; an empty block goes. -/
def State.mapL1 (s : State) (g : L1Blk → L1Blk) : State :=
  if s.l1.isEmpty then s else { s with l1 := (s.l1.map g).filter (fun b => b.held != 0) }

/-- Every byte that can DROP leaves the blocks that p selects. -/
def State.dropBlocks (s : State) (p : L1Blk → Bool) : State := s.mapL1 (fun b => if p b then b.keep (s.pinned b) else b)

/-- Whether a byte of V_c can DROP (R198). -/
def State.canDrop (s : State) (core a : Nat) : Bool :=
  (s.l1.filter (fun b => b.core == core && b.addr == a / 512 * 512)).all (fun b => !(s.pinned b).getLsbD (a % 512))

/-- One byte leaves V_c. -/
def State.dropByte (s : State) (core a : Nat) : State :=
  s.mapL1 (fun b => if b.core = core ∧ b.addr = a / 512 * 512 then b.keep (~~~(byteMask (a % 512) 1)) else b)

/-- Copies of a word leave the L1 of a core, save bytes that a store in a CQ covers (R408). -/
def State.dropWord (s : State) (core a key : Nat) : State :=
  s.mapL1 (fun b =>
    if b.isFor core a key then
      let cq := (s.coreCq core).foldl (fun m x => if x.key = key then m ||| x.maskIn b.addr else m) (0 : BitVec 512)
      b.keep (cq ||| ~~~(byteMask (a / 8 * 8 % 512) 8))
    else b)

/-- A word more of a core since the fill of its blocks. -/
def L1Blk.older (core : Nat) (b : L1Blk) : L1Blk := if b.core = core then { b with age := b.age + 1 } else b

/-- Whether a block's fill lies 16,384 words back. -/
def L1Blk.due (b : L1Blk) : Bool := decide (16384 ≤ b.age)

/-- What stays of a due block counts anew. -/
def L1Blk.renew (b : L1Blk) : L1Blk := if b.due then { b with age := 0 } else b

/-- The bytes of V_c whose fill lies 2,048 cycles back drop (R206). A core has 8 sequencers of one word a cycle, so 16,384
of its words take that long (log 81). -/
def State.ageL1 (s : State) (core : Nat) : State :=
  if s.l1.isEmpty then s
  else
    let s := { s with l1 := s.l1.map (L1Blk.older core) }
    if s.l1.any L1Blk.due then
      let t := s.dropBlocks L1Blk.due
      { t with l1 := t.l1.map L1Blk.renew }
    else s

/-! ### Peer bytes (W_n) -/

/-- Whether a byte of W_n is the one at an address under a key (R417). -/
def PeerByte.isAt (p : PeerByte) (a key : Nat) : Bool := p.addr == a && p.key == key

def State.peerByte? (s : State) (a key : Nat) : Option PeerByte := s.peerCopies.find? (fun p => p.isAt a key)

/-- M or W_n at a byte (R194). -/
def State.pointByte (s : State) (a key : Nat) : Byte :=
  match s.peerByte? a key with
  | some p => p.val
  | none => s.keyByte a key

/-- V_c's byte, else M's or W_n's. -/
def State.coreByte (s : State) (core a key : Nat) : Byte :=
  match s.viewByte? core a key with
  | some b => b
  | none => s.pointByte a key

/-- A line of W_n from the peer, which has accepted the access (R439): the bytes not held come in clean. -/
def State.fillPeer (s : State) (a key : Nat) : State :=
  let l := a / 128 * 128
  (List.range 128).foldl (fun s i =>
    match s.peerByte? (l + i) key with
    | some _ => s
    | none => { s with peerCopies := ⟨l + i, key, s.keyByte (l + i) key, false, [], [], 0, 0, 0, 0⟩ :: s.peerCopies }) s

/-- The tenant and the launch of a flow, or of an engine's command of number n standing as ⟨0, n⟩. -/
def State.accountOf (s : State) (k : FlowKey) : Option (Nat × Nat) :=
  if k.launch = 0 then (s.jobs.find? (fun (j : Job) => j.id == k.lflow)).map (fun j => (j.tenant, j.flow.launch))
  else (s.flow? k).map (fun f => (f.tenant, k.launch))

/-- A byte of W_n that a flow of a core has read. -/
def PeerByte.readBy (k : FlowKey) (core : Nat) (p : PeerByte) : PeerByte :=
  { p with
    cores := if p.cores.contains core then p.cores else core :: p.cores
    owe := if !p.dirty || p.owe.contains k then p.owe else k :: p.owe }

/-- A write-back on its way that a flow's release waits for too. -/
def Flight.owedTo (k : FlowKey) (fl : Flight) : Flight :=
  match fl.origin with
  | .back owe tag t => if owe.contains k then fl else { fl with origin := .back (k :: owe) tag t }
  | _ => fl

/-- A flow of a core has read bytes of W_n: they drop at its acquire (R200), and of dirty ones, and of those on their way home, its
release waits for the write-back (R202). -/
def State.readPeers (s : State) (k : FlowKey) (core a key n : Nat) : State :=
  if s.peerCopies.isEmpty then s
  else
    { s with
      peerCopies := s.peerCopies.map (fun p => if p.key = key ∧ a ≤ p.addr ∧ p.addr < a + n then p.readBy k core else p)
      net := s.net.map (fun fl => if fl.acc.key = key ∧ a ≤ fl.acc.addr ∧ fl.acc.addr < a + n then fl.owedTo k else fl) }

/-- A byte of W_n written by a flow where en has ones; it becomes dirty, under the tag that the peer has accepted (R197,
R439). -/
def State.putPeerByte (s : State) (a x en key : Nat) (owner : Option FlowKey) : State :=
  if en = 0 then s
  else
    let old := s.peerByte? a key
    let b := (s.pointByte a key &&& ~~~(BitVec.ofNat 8 en)) ||| (BitVec.ofNat 8 x &&& BitVec.ofNat 8 en)
    let owe := match old with | some p => p.owe | none => []
    let cores := match old with | some p => p.cores | none => []
    let acct := ((owner.bind s.accountOf).orElse (fun _ => old.map (fun p => (p.tenant, p.launch)))).getD (0, 0)
    let tag := ((owner.bind s.accountOf).map (fun x => (s.ten x.1).dtag.toNat)).orElse (fun _ => old.map (·.tag))
    { s with peerCopies :=
        ⟨a, key, b, true, (match owner with | some k => if owe.contains k then owe else k :: owe | none => owe), cores, 0, tag.getD 0,
          acct.1, acct.2⟩ :: s.peerCopies.filter (fun p => !p.isAt a key) }

end Sys2Proof.Machine
end

