-- ==== Sys2Proof/Machine/Coh.lean ====
section
/-! DEFINITION. Coherence between the dies (R408, R410 to R415, R427 to R429) and towards the host (R420 to R422): the lines the
host holds; the directory's entries, transactions and messages; the copies of the dies' L1s; and the home's part in an
access. The protocols decide timing and link traffic alone (R407): no byte of memory changes. -/

namespace Sys2Proof.Machine

/-- The first address of the 512-byte block of a granule. -/
def blockOf (g : Granule) : Nat := g.addr / 512 * 512

/-- Whether two granules lie in one block under one key. -/
def sameBlock (g h : Granule) : Bool := g.home == h.home && blockOf g == blockOf h && g.key == h.key

def State.modCoh (s : State) (f : Coherence → Coherence) : State := { s with coh := f s.coh }

def State.sendMsgs (s : State) (ms : List CMsg) : State := s.modCoh (fun c => { c with msgs := c.msgs ++ ms })

def State.txn? (s : State) (g : Granule) : Option DirTxn := s.coh.txns.find? (fun t => t.g == g)

def State.putTxn (s : State) (t : DirTxn) : State :=
  s.modCoh (fun c => { c with txns := t :: c.txns.filter (fun u => u.g != t.g) })

def State.endTxn (s : State) (g : Granule) : State :=
  s.modCoh (fun c => { c with txns := c.txns.filter (fun u => u.g != g) })

def State.putCopyOf (s : State) (die : Nat) (g : Granule) (st : DirSt) : State :=
  s.modCoh (fun c => { c with copies := (die, g, st) :: c.copies.filter (fun x => !(x.1 == die && x.2.1 == g)) })

/-! ### Lines that the host holds (R420, R421) -/

def Device.hdmStart (d : Device) : Nat := wbits d.hdmBase 30 22 * 2 ^ 30
def Device.hdmBytes (d : Device) : Nat := d.hdmSize * 2 ^ 30

/-- Whether an address lies in the HDM range, enabled. -/
def Device.inHdm (d : Device) (pa : Nat) : Bool :=
  d.hdmEn && decide (d.hdmStart ≤ pa ∧ pa < d.hdmStart + d.hdmBytes)

/-- Where the bias bit of the page of an address stands: byte and bit. -/
def Device.biasBit (d : Device) (pa : Nat) : Nat × Nat :=
  let p := (pa - d.hdmStart) / 4096
  (d.biasBase.toNat + p / 8, p % 8)

/-- Whether the page of an address is in host bias. -/
def State.hostBias (s : State) (pa : Nat) : Bool :=
  let b := s.dev.biasBit pa
  bit (s.mem.get b.1).toNat b.2

/-- Whether the HCA counts a line as held by the host (R421, R426). -/
def State.held (s : State) (l : Nat) : Bool :=
  s.coh.holders.contains l || (s.coh.allHeld && !s.coh.sent.contains l && s.dev.inHdm l && s.hostBias l)

/-- Whether the flip under way has a BISnpInv of a line unanswered. -/
def State.flipWaits (s : State) (l : Nat) : Bool := match s.coh.flips with | c :: _ => c.waiting.contains l | [] => false

/-- Before a device agent's access to a line that the host holds is served, the host has answered a BISnpData, or for a store or an
AMO (`wr`) a BISnpInv, after which it holds the line no more (R421). Without that answer the step has to wait: `need` says so,
and no step with a need takes place (State.snoopGate). -/
def State.snoop (s : State) (a : Nat) (wr : Bool) : State :=
  if s.coh.holders.isEmpty && !s.coh.allHeld then s
  else
    let l := a / 64 * 64
    let answers (p : Snoop) : Bool := p.line == l && !p.inv && decide (0 < p.st)
    if !s.held l then s
    else if !wr && s.coh.snoops.any answers then
      s.modCoh (fun c => { c with snoops := c.snoops.map (fun p => if answers p then { p with st := 2 } else p) })
    else s.modCoh (fun c => { c with need := (l, wr) :: c.need })

/-- A BISnpData or BISnpInv that a step waits for goes out, unless one of its line is out. -/
def Coherence.ask (c : Coherence) (q : Nat × Bool) : Coherence :=
  if c.snoops.any (fun p => p.line == q.1 && p.st == 0) then c else { c with snoops := c.snoops ++ [⟨q.1, q.2, 0⟩] }

/-- A step takes place where the host has answered all that its accesses wait for, and uses those answers; else only the snoops
go out, and it waits for their BIRsp (R421). -/
def State.snoopGate (s : State) (r : Res) : Res :=
  match r with
  | .next t =>
    if t.coh.need.isEmpty then .next (if t.coh.snoops.isEmpty then t else t.modCoh (fun c => { c with snoops := c.snoops.filter (fun p => p.st != 2) }))
    else .next (s.modCoh (fun c => (t.coh.need.filter (fun q => !s.flipWaits q.1)).foldl Coherence.ask c))
  | r => r

/-! ### The directory (R411 to R415) -/

/-- The directory's entry for a granule; none stands for I. -/
def State.dirOf (s : State) (g : Granule) : DirEnt := (s.coh.dir.find? (fun e => e.g == g)).getD ⟨g, .i, [], 0, false⟩

/-- Puts an entry back as the one most recently used (R429); an entry in I goes, unless its granule is lost. -/
def State.putDir (s : State) (e : DirEnt) : State :=
  let rest := s.coh.dir.filter (fun d => d.g != e.g)
  { s with coh := { s.coh with dir := if e.st = .i && !e.lost then rest else e :: rest } }

/-- The grant under which a die holds a granule. -/
def State.copyOf (s : State) (die : Nat) (g : Granule) : Option DirSt :=
  (s.coh.copies.find? (fun c => c.1 == die && c.2.1 == g)).map (fun c => c.2.2)

/-- Every transaction of a block, and every WB, makes its entries the ones used last (R429). -/
def State.useBlock (s : State) (g : Granule) : State :=
  s.modCoh (fun c => { c with dir := c.dir.filter (fun e => sameBlock e.g g) ++ c.dir.filter (fun e => !sameBlock e.g g) })

/-- WB at the home (R412, R414): where the directory still names the die as the owner, the home is current again. -/
def State.takeWb (s : State) (die : Nat) (g : Granule) : State :=
  let s := s.useBlock g
  let e := s.dirOf g
  if e.own = die then
    (match e.st with
     | .e => s.putDir { e with st := .i }
     | .m => s.putDir { e with st := .i }
     | .o => s.putDir { e with st := if e.pres.isEmpty then .i else .s }
     | _ => s)
  else s

/-- Bytes of a granule as a mask of its block. -/
def granuleMask (g : Granule) : BitVec 512 := byteMask (g.addr % 512) g.size

/-- The words of a granule among those of a line of the registration tables. -/
def granuleWords (g : Granule) (line : Nat) : BitVec 16 :=
  BitVec.ofNat 16 (packBits ((List.range 16).map (fun i => decide (g.addr ≤ line + 8 * i ∧ line + 8 * i < g.addr + g.size))))

/-- What a die's cores have stored in a granule has gone home: their registrations of it go (R408). -/
def State.clean (s : State) (die : Nat) (g : Granule) : State :=
  { s with reg := regCut s.reg (fun r => if r.key = g.key ∧ r.core / 64 = die then granuleWords g r.line else 0) }

/-- A die drops its copy of a granule: the directory's record of it, and what its cores' L1s may drop. -/
def State.dropCopy (s : State) (die : Nat) (g : Granule) : State :=
  let s := s.clean die g
  let s := { s with coh := { s.coh with copies := s.coh.copies.filter (fun x => !(x.1 == die && x.2.1 == g)) } }
  s.mapL1 (fun b =>
    if b.core / 64 = die ∧ b.addr = g.addr / 512 * 512 ∧ b.key = g.key then b.keep (s.pinned b ||| ~~~(granuleMask g)) else b)

/-- Dies that hold a copy by the directory. -/
def DirEnt.holders (e : DirEnt) : List Nat :=
  match e.st with
  | .i => []
  | .s => e.pres
  | .o => e.own :: e.pres.filter (· != e.own)
  | _ => [e.own]

/-- Blocks that have entries in a set of a die's directory, most recently used first (R415). -/
def State.dirBlocks (s : State) (home set : Nat) : List Granule :=
  (s.coh.dir.filter (fun e => e.g.home == home && e.g.addr / 512 % 8192 == set && e.st != .i)).foldl
    (fun acc e => if acc.any (fun g => sameBlock g e.g) then acc else acc ++ [e.g]) []

/-- The block that must leave before a granule can have an entry (R415). -/
def State.dirVictim (s : State) (g : Granule) : Option Granule :=
  let bs := s.dirBlocks g.home (g.addr / 512 % 8192)
  if bs.any (fun b => sameBlock b g) || decide (bs.length < 16) then none else bs.getLast?

/-- A transaction closes once Data has been received and every Ack is there; a back-invalidation then frees the
block's entries (R414, R415). -/
def State.closeTxn (s : State) (t : DirTxn) : State :=
  if t.done && t.acks = 0 then
    let s := s.endTxn t.g
    if t.req = .binv then s.modCoh (fun c => { c with dir := c.dir.filter (fun e => !sameBlock e.g t.g || e.lost) }) else s
  else s.putTxn t

/-- BInv of a block to dies (R415). -/
def State.sendBinv (s : State) (g : Granule) (hs : List Nat) : State :=
  (s.closeTxn ⟨g, .binv, g.home, hs.length, true, false⟩).sendMsgs (hs.map (fun h => .binv g h))

/-- A back-invalidation of a block, once no transaction of it is open: BInv to every holder (R415). -/
def State.backInval (s : State) (g : Granule) : State :=
  if s.coh.txns.any (fun t => sameBlock t.g g) then s
  else s.sendBinv g (dedupN (((s.coh.dir.filter (fun e => sameBlock e.g g)).map DirEnt.holders).flatten))

/-- Whether a registration of a core of the home die covers a granule (R408). -/
def State.homeReg (s : State) (g : Granule) : Bool :=
  s.reg.any (fun r => r.key == g.key && r.core / 64 == g.home && r.words.any (fun w => decide (g.addr ≤ w ∧ w < g.addr + g.size))) ||
    s.amoRuns.any (fun r => r.n == 4 && r.key == g.key && r.core / 64 == g.home && decide (g.addr < r.line + 128 ∧ r.line < g.addr + g.size))

/-- RdS of a die at the home (R413). -/
def State.serveRds (s : State) (d : Nat) (g : Granule) : State :=
  let e := s.dirOf g
  match e.st with
  | .i =>
    let grant : DirSt := if s.homeReg g then .s else .e
    ((s.putDir { e with st := grant, own := d, pres := if grant = .s then [d] else [] }).putTxn ⟨g, .rds, d, 0, false, false⟩).sendMsgs
      [.data g d grant]
  | .s => ((s.putDir { e with pres := dedupN (e.pres ++ [d]) }).putTxn ⟨g, .rds, d, 0, false, false⟩).sendMsgs [.data g d .s]
  | .o => ((s.putDir { e with pres := dedupN (e.pres ++ [d]) }).putTxn ⟨g, .rds, d, 1, false, false⟩).sendMsgs [.fwd g e.own d false]
  | .e => ((s.putDir { e with st := .s, pres := dedupN [e.own, d] }).putTxn ⟨g, .rds, d, 1, false, false⟩).sendMsgs [.fwd g e.own d false]
  | .m => ((s.putDir { e with st := .o, pres := [d] }).putTxn ⟨g, .rds, d, 1, false, false⟩).sendMsgs [.fwd g e.own d false]

/-- The home recalls the registrations of its cores that cover a granule, and the lines that R109 has granted (R408,
R413): their copies go. -/
def State.recall (s : State) (g : Granule) : State :=
  let own (r : RegEnt) : Bool := r.key == g.key && r.core / 64 == g.home
  let ws := ((s.reg.filter own).map (fun r => (r.words.filter (fun w => decide (g.addr ≤ w ∧ w < g.addr + g.size))).map (fun w => (r.core, w)))).flatten
  let t := ws.foldl (fun s x => (s.unregister x.2 g.key).dropWord x.1 x.2 g.key) s
  let meets (r : AmoRun) : Bool := r.key == g.key && r.core / 64 == g.home && decide (g.addr < r.line + 128 ∧ r.line < g.addr + g.size)
  let t := (t.amoRuns.filter (fun r => meets r && r.n == 4)).foldl (fun s r =>
    (List.range 16).foldl (fun s i => s.dropWord r.core (r.line + 8 * i) r.key) s) t
  { t with amoRuns := t.amoRuns.filter (fun r => !meets r) }

/-- RdX, and Upg (`up`), at the home (R413): afterwards the granule is M with the requester its owner. Where others share
it, the home sends Data once their Acks are there. -/
def State.serveRdx (s : State) (d : Nat) (g : Granule) (up : Bool) : State :=
  let e := s.dirOf g
  let req : DirReq := if up then .upg else .rdx
  let new := s.putDir { e with st := .m, own := d, pres := [] }
  match e.st with
  | .i => ((new.recall g).putTxn ⟨g, req, d, 0, false, false⟩).sendMsgs [.data g d .m]
  | .s =>
    let hs := if up && e.pres.contains d then e.pres.filter (· != d) else e.pres
    (new.putTxn ⟨g, req, d, hs.length, false, !hs.isEmpty⟩).sendMsgs (hs.map (fun h => .inv g h) ++ if hs.isEmpty then [.data g d .m] else [])
  | .o => (new.putTxn ⟨g, req, d, 1 + e.pres.length, false, false⟩).sendMsgs (.fwd g e.own d true :: e.pres.map (fun h => .inv g h))
  | _ => (new.putTxn ⟨g, req, d, 1, false, false⟩).sendMsgs [.fwd g e.own d true]

/-- Whether an address is one of the module's own memory, whose home is a die. -/
def inModule (a : Nat) : Bool :=
  match regionOf a with
  | .hbm => true
  | .pool => true
  | _ => false

/-- Whether a granule is one that a directory can hold an entry of, for a die (R410, R411). -/
def granuleFits (g : Granule) (d : Nat) : Bool :=
  inModule g.addr && g.home == homeDie g.addr && [32, 128, 512].contains g.size && g.addr % g.size == 0 && decide (d < 4) && g.home != d

/-- A request opens its transaction when none of its granule, and no back-invalidation of its block, is open (R414);
one that needs an entry in a full set waits for the back-invalidation that it asks for (R415). -/
def State.dirRequest (s : State) (d : Nat) (g : Granule) (serve : State → State) : State :=
  if !granuleFits g d || s.dev.dieLost.getLsbD d || s.dev.dieLost.getLsbD g.home ||
      s.coh.txns.any (fun t => t.g == g || (t.req == .binv && sameBlock t.g g)) then s
  else
    match s.dirVictim g with
    | some v => s.backInval v
    | none => serve s

/-! ### Messages (R412) -/

/-- The granule of a message. -/
def CMsg.granule : CMsg → Granule
  | .fwd g _ _ _ => g
  | .inv g _ => g
  | .binv g _ => g
  | .data g _ _ => g
  | .ack g _ _ _ _ => g
  | .done g _ => g

/-- Whether a grant means dirty data. -/
def dirty (st : Option DirSt) : Bool := match st with | some .m => true | some .o => true | _ => false

/-- A message is received. Fwd: the owner sends Data and keeps a shared copy, or gives its copy up; without one it answers NoData.
Inv and BInv: the granule, or every one of the block, is dropped. Data: the requester holds the granule and says Done. Ack: a
Fwd answered with NoData is served from the home, and the last one lets the home send what it owes. Done closes. -/
def CMsg.arrive (m : CMsg) (s : State) : State :=
  match m with
  | .fwd g o d excl =>
    (match s.copyOf o g with
     | none => s.sendMsgs [.ack g o true false false]
     | some x =>
       let s := if excl then s.dropCopy o g else s.putCopyOf o g (if x = .m ∨ x = .o then .o else .s)
       s.sendMsgs [.data g d (if excl then .m else .s), .ack g o true (dirty (some x)) true])
  | .inv g h =>
    let st := s.copyOf h g
    (s.dropCopy h g).sendMsgs [.ack g h false (dirty st) st.isSome]
  | .binv g h =>
    let mine := s.coh.copies.filter (fun c => c.1 == h && sameBlock c.2.1 g)
    (mine.foldl (fun s c => s.dropCopy h c.2.1) s).sendMsgs [.ack g h false (mine.any (fun c => dirty (some c.2.2))) (!mine.isEmpty)]
  | .data g d st => (s.putCopyOf d g st).sendMsgs [.done g d]
  | .ack g _ forward _ found =>
    (match s.txn? g with
     | none => s
     | some t =>
       let s := if forward && !found then s.sendMsgs [.data g t.die (if t.req = .rds then .s else .m)] else s
       let last := t.owed && decide (t.acks ≤ 1)
       let s := if last then s.sendMsgs [.data g t.die .m] else s
       s.closeTxn { t with acks := t.acks - 1, owed := t.owed && !last })
  | .done g _ =>
    (match s.txn? g with
     | none => s
     | some t => s.closeTxn { t with done := true })

/-- Message k leaves its link. -/
def State.cutMsg (s : State) (k : Nat) : State := s.modCoh (fun c => { c with msgs := c.msgs.eraseIdx k })

/-- Every message of a block arrives, and those that it gives rise to, oldest first, so that its transactions close: a
request behind them in the slice's queue waits for that (R414). -/
def State.runBlock (s : State) (g : Granule) : Nat → State
  | 0 => s
  | n + 1 =>
    match s.coh.msgs.zipIdx.find? (fun p => sameBlock p.1.granule g) with
    | none => s
    | some p => (p.1.arrive (s.cutMsg p.2)).runBlock g n

/-- The open transactions of a block close. -/
def State.settleBlock (s : State) (g : Granule) : State := if s.coh.txns.isEmpty then s else s.runBlock g 512

/-! ### The home's part in an access (R413) -/

/-- First address and bytes of the granule of an address under a page's grain (R410). -/
def granuleAt (a grain : Nat) : Nat × Nat :=
  let n := if grain = 0 then 32 else if grain = 1 then 128 else 512
  (a / n * n, n)

/-- The granule of an address under a key and a grain. -/
def granuleOf (a key grain : Nat) : Granule := ⟨homeDie a, (granuleAt a grain).1, (granuleAt a grain).2, key⟩

/-- Whether a granule of the directory's holds an address under a key: under another it is an unrelated line (R417). -/
def DirEnt.spans (e : DirEnt) (a key : Nat) : Bool := e.g.key == key && decide (e.g.addr ≤ a ∧ a < e.g.addr + e.g.size)

/-- Whether a die owns its granule alone (R411). -/
def DirEnt.owned (e : DirEnt) : Bool := e.st == .e || e.st == .m || e.st == .o

/-- A granule that its owner has written back on a Fwd: shared, with the owner among the sharers (R413). -/
def DirEnt.share (e : DirEnt) : DirEnt :=
  { e with st := .s, pres := if e.st = .o then dedupN (e.pres ++ [e.own]) else [e.own] }

/-- A home-side read (R413): an owner writes its granule back and keeps a shared copy. -/
def State.dirRead (s : State) (a key : Nat) : State :=
  if s.coh.dir.isEmpty then s
  else
    let g := granuleOf a key 2
    let s := (s.settleBlock g).useBlock g
    let hit := s.coh.dir.filter (fun e => e.spans a key && e.owned)
    let s := hit.foldl (fun s e => s.clean e.own e.g) s
    s.modCoh (fun c => { c with
      dir := c.dir.map (fun e => if e.spans a key && e.owned then e.share else e)
      copies := c.copies.map (fun x => if hit.any (fun e => e.own == x.1 && e.g == x.2.1) then (x.1, x.2.1, .s) else x) })

/-- A home-side store or AMO (R413): every copy of the granule goes. -/
def State.dirStore (s : State) (a key : Nat) : State :=
  if s.coh.dir.isEmpty then s
  else
    let g := granuleOf a key 2
    let s := (s.settleBlock g).useBlock g
    (s.coh.dir.filter (fun e => e.spans a key && !e.lost && e.st != .i)).foldl
      (fun s e => (e.holders.foldl (fun s h => s.dropCopy h e.g) s).putDir { e with st := .i, pres := [] }) s

/-- The same of a device agent, which the host's copy goes before (R421). -/
def State.homeRead (s : State) (a key : Nat) : State := (s.snoop a false).dirRead a key
def State.homeStore (s : State) (a key : Nat) : State := (s.snoop a true).dirStore a key

/-- A request of another die's core is served with every message of it (R413, R414): the transactions of its block close first,
and where it needs an entry in a full set, the block that has to leave does (R415). -/
def State.request (s : State) (d : Nat) (g : Granule) (wr : Bool) (serve : State → State) : State :=
  let s := (s.snoop g.addr wr).settleBlock g
  let s := match s.dirVictim g with | some v => ((s.settleBlock v).backInval v).settleBlock v | none => s
  if granuleFits g d then (serve s).settleBlock g else s

/-- A die's core reads a granule that its L1s do not hold: RdS (R413). -/
def State.remoteRead (s : State) (d a key grain : Nat) : State :=
  let g := granuleOf a key grain
  if (s.copyOf d g).isSome then s else s.request d g false (fun s => s.serveRds d g)

/-- A die's core stores: RdX, or Upg of a copy that it shares; a copy that it holds alone turns modified (R413, log 44). -/
def State.remoteStore (s : State) (d a key grain : Nat) : State :=
  let g := granuleOf a key grain
  match s.copyOf d g with
  | some .m => s
  | some .e => (s.putCopyOf d g .m).putDir { s.dirOf g with st := .m, own := d, pres := [] }
  | some _ => s.request d g true (fun s => s.serveRdx d g true)
  | none => s.request d g true (fun s => s.serveRdx d g false)

/-- A read of an agent reaches the home: an RdS, where a core of another die caches what it reads (`grain`), else a home-side
read, at its slice. -/
def State.visitRead (s : State) (a key : Nat) (core grain : Option Nat) : State :=
  match core, grain with
  | some c, some g => if inModule a && homeDie a != c / 64 then s.remoteRead (c / 64) a key g else s.homeRead a key
  | _, _ => s.homeRead a key

/-- The same of a store. -/
def State.visitStore (s : State) (a key : Nat) (core grain : Option Nat) : State :=
  match core, grain with
  | some c, some g => if inModule a && homeDie a != c / 64 then s.remoteStore (c / 64) a key g else s.homeStore a key
  | _, _ => s.homeStore a key

/-! ### The locality grant of AMOs (R109) -/

/-- An agent's access to a line ends the run of AMOs of any other core there; a line granted comes back, and that core's copies of
it go (R109, R408). -/
def State.touchRun (s : State) (a key : Nat) (core : Option Nat) : State :=
  if s.amoRuns.isEmpty then s
  else
    let ends (r : AmoRun) : Bool := r.line == a / 128 * 128 && r.key == key && some r.core != core
    let t := (s.amoRuns.filter (fun r => ends r && r.n == 4)).foldl (fun s r =>
      (List.range 16).foldl (fun s i => s.dropWord r.core (r.line + 8 * i) r.key) s) s
    { t with amoRuns := t.amoRuns.filter (fun r => !ends r) }

/-- Before a write of the device's own at a word's home, every copy that the home's protocols recall goes (R109, R408, R413). -/
def State.recallWord (s : State) (a key : Nat) : State :=
  let s := match s.regOf a key with
    | some c => s.dropWord c a key
    | none => s
  ((s.unregister a key).touchRun a key none).homeStore a key

/-- Whether a line is granted to a core. -/
def State.granted (s : State) (a key core : Nat) : Bool := s.amoRuns.any (fun r => r.line == a / 128 * 128 && r.key == key && r.core == core && r.n == 4)

/-- An AMO of a core at a line's home slice; the fourth in a row has the line granted to the core. -/
def State.countAmo (s : State) (a key core : Nat) : State :=
  if !inModule a then s
  else
    let l := a / 128 * 128
    let n := match s.amoRuns.find? (fun r => r.line == l && r.key == key && r.core == core) with | some r => r.n | none => 0
    { s with amoRuns := ⟨l, key, core, min 4 (n + 1)⟩ :: s.amoRuns.filter (fun r => !(r.line == l && r.key == key)) }

/-! ### Paths (R196) -/

/-- The queues an access passes after its core. -/
def State.pathOf (s : State) (loc : Loc) (pa key : Nat) (store : Bool) : List QueueId :=
  let toSlice : List QueueId :=
    let h := homeDie pa
    if h = loc.die then [.slice h (sliceOf pa)] else [.dieLink loc.die h, .slice h (sliceOf pa)]
  match regionOf pa with
  | .tcm c _ => [.tcm c]
  | .spm c o => [.bank c (o / 8 % 64)]
  | .peer n _ => if store || (s.peerByte? pa key).isSome then toSlice else [.peer n]
  | .host _ => if loc.die = 0 then [.host false] else [.dieLink loc.die 0, .host false]
  | _ => toSlice

/-- SEND of the store at the head of CQ_f (R198). -/
def State.sendHead (s : State) (k : FlowKey) : State :=
  match s.flow? k with
  | none => s
  | some f =>
    match f.cq with
    | [] => s
    | a :: rest =>
      let s := s.modFlow k (fun f => { f with cq := rest })
      { s with net := s.net ++ [⟨s.pathOf f.loc a.addr a.key true, a, .flow k f.loc.coreIdx⟩] }

/-! ### Blocks that come and go (R428) -/

/-- Whether an L1 of a die holds a byte of a granule. -/
def State.l1Holds (s : State) (die : Nat) (g : Granule) : Bool :=
  s.l1.any (fun b => b.core / 64 == die && b.addr == g.addr / 512 * 512 && b.key == g.key && (b.held &&& granuleMask g) != 0)

/-- A die no L1 of which holds a granule any more gives up its copy: a WB for what it owns, silence for a clean share
(R412, R413). -/
def State.shedCopies (s : State) (die base key : Nat) : State :=
  (s.coh.copies.filter (fun c => c.1 == die && c.2.1.key == key && c.2.1.addr / 512 * 512 == base && !s.l1Holds die c.2.1)).foldl
    (fun s c =>
      let s := { s with coh := { s.coh with copies := s.coh.copies.filter (fun x => !(x.1 == die && x.2.1 == c.2.1)) } }
      s.takeWb die c.2.1) s

/-- A block leaves an L1: its core's registrations of it go, and the copies that its die held only there. -/
def State.evict (s : State) (b : L1Blk) : State :=
  let s := { s with
    l1 := s.l1.filter (fun x => x != b)
    reg := s.reg.filter (fun r => !(r.core == b.core && r.key == b.key && r.line / 512 * 512 == b.addr)) }
  s.shedCopies (b.core / 64) b.addr b.key

/-- The stores of a core's CQs that cover a byte of a block are SENT, with what stands before them: such a block cannot leave
(R198). -/
def State.sendBlock (s : State) (b : L1Blk) : State :=
  let meets (a : Access) : Bool := a.key == b.key && a.maskIn b.addr != 0
  (s.flows.filter (fun f => f.loc.coreIdx == b.core && f.cq.any meets)).foldl
    (fun s f => (f.cq.reverse.dropWhile (fun a => !meets a)).foldl (fun s _ => s.sendHead f.key) s) s

/-- Whether a block is one of the 256 of its L1: not bytes of a scratchpad, a TCM or an uncached page (R428, R393). -/
def L1Blk.cached (b : L1Blk) : Bool := !b.aside

/-- Room for one block more in a core's L1: with all 256 valid, the one least recently hit or filled goes (R428). -/
def State.l1Room (s : State) (core : Nat) : State :=
  let mine := s.l1.filter (fun b => b.core == core && b.cached)
  if mine.length < 256 then s
  else
    match mine.getLast? with
    | some b => (s.sendBlock b).evict b
    | none => s

/-- A block with n bytes put in from an address up, as the one hit or filled last; `aside` where the L1 does not cache the page. -/
def State.l1Put (s : State) (core a key grain n x : Nat) (aside : Bool := false) : State :=
  match s.l1Blk? core a key with
  | some b =>
    let s := if b.aside && !aside then s.l1Room core else s
    { s with l1 := { b.put (a % 512) n x with aside := b.aside && aside } :: s.l1.filter (fun c => !c.isFor core a key) }
  | none =>
    let s := if aside then s else s.l1Room core
    { s with l1 := (⟨core, a / 512 * 512, key, grain, 0, 0, 0, aside⟩ : L1Blk).put (a % 512) n x :: s.l1 }

/-- A hit makes its block the one used last. -/
def State.l1Touch (s : State) (core a key : Nat) : State :=
  match s.l1Blk? core a key with
  | some b => if s.l1.head? = some b then s else { s with l1 := b :: s.l1.filter (fun c => !c.isFor core a key) }
  | none => s

end Sys2Proof.Machine
end

