-- ==== Sys2Proof/Machine/Order.lean ====
section
/-! DEFINITION. The abstract machine of "Ordering": stores in the strip buffer, the core store queue, the queues on
the way and at their point of service (R194 to R203), what a load reads (R94, R162, R198), and what a FENCE, an AMO, a
wait or a barrier waits for (R200 to R202, R205). A word that needs its accesses performed takes the steps ENTER, SEND,
PASS and APPLY that this needs at once, each in its queue's order (log 14). -/

namespace Sys2Proof.Machine

/-! ### Accesses -/

/-- An access of the flow at a translated address with nothing set but its place in program order. -/
def Flow.newAccess (f : Flow) (addr va : Nat) (x : Xl) : Access where
  load := false
  seq := f.seq
  ival := f.ival
  addr := addr
  data := 0
  en := 0
  key := x.key
  dst := 0
  size := 0
  sext := false
  fill := x.pol != 2
  va := va
  grain := x.grain
  vec := false
  amo := none

/-- The store of n bytes of value v at a translated address inside one aligned 8-byte word. -/
def Flow.wordStore (f : Flow) (x : Xl) (va n v : Nat) : Access :=
  { f.newAccess (x.pa / 8 * 8) va x with
    data := w64 ((v % 2 ^ (8 * n)) <<< (8 * (x.pa % 8)))
    en := w64 ((2 ^ (8 * n) - 1) <<< (8 * (x.pa % 8))) }

/-- ISSUE of accesses (R198). -/
def Flow.issue (f : Flow) (accs : List Access) : Flow := { f with sb := f.sb ++ accs, seq := f.seq + 1 }

/-- Stores of the open strip that the VSQ holds (R163). -/
def Flow.held (f : Flow) : List Access := (f.vsq.map (fun w => w.writes.map (·.2))).flatten

/-- The flow's stores that have not left its core, in program order (R162, R194). -/
def Flow.ownStores (f : Flow) : List Access :=
  sortBy (fun a => a.seq) ((f.cq ++ f.sb ++ f.held).filter (fun a => !a.load))

/-- The bits that a store writes in the byte at an address. -/
def Access.enAt (a : Access) (p : Nat) : Nat := if a.addr ≤ p ∧ p < a.addr + 8 then wbits a.en (8 * (p - a.addr)) 8 else 0

/-- Whether an access touches a byte. -/
def Access.touches (a : Access) (p : Nat) : Bool :=
  if a.load then decide (a.addr ≤ p ∧ p < a.addr + a.size) else a.enAt p != 0

/-- Whether two accesses share a byte. -/
def Access.overlaps (a b : Access) : Bool := (List.range 8).any (fun i => a.touches (a.addr + i) && b.touches (a.addr + i))

/-- Whether an access reads, and whether it writes; an AMO does both (R112). -/
def Access.reads (a : Access) : Bool := a.load
def Access.writes (a : Access) : Bool := !a.load || a.amo.isSome

/-- Bits of `new` where `en` has ones, of `old` elsewhere. -/
def mergeByte (old new en : Byte) : Byte := (old &&& ~~~en) ||| (new &&& en)

/-- A byte as stores on top of it leave it, the last in the list winning. -/
def overlayByte (accs : List Access) (a : Nat) (b : Byte) : Byte :=
  accs.foldl (fun b x =>
    if x.addr ≤ a ∧ a < x.addr + 8 then
      mergeByte b (BitVec.ofNat 8 (wbits x.data (8 * (a - x.addr)) 8)) (BitVec.ofNat 8 (wbits x.en (8 * (a - x.addr)) 8))
    else b) b

/-- What a load of the flow reads at a byte: its own latest store (R162, R199), else V_c, else memory (R198), and memory
at once where its page is uncached (R393); in replay mode its own log, else memory as the last boundary left it (R209). `accs` are the stores that
come before it in program order. -/
def State.seenByte (s : State) (f : Flow) (accs : List Access) (a key : Nat) (fill : Bool) : Byte :=
  overlayByte accs a
    (if s.replayOf f then s.snapByte f.tenant a key else if fill then s.coreByte f.loc.coreIdx a key else s.pointByte a key)

/-- Bytes of the save index (R213): V, LFLOW and offset, then KDESC, for each saved flow of the context; an entry without
a record reads zero (log 108). -/
def State.indexByte (s : State) (tenant off : Nat) : Byte :=
  match (s.saves.filter (fun r => r.tenant == tenant))[off / 16]? with
  | none => 0
  | some r =>
    let kd := match s.launch? r.key.launch with | some l => l.kdesc.toNat | none => 0
    (bytesLE 8 (2 ^ 63 + r.key.lflow <<< 40 + r.off) ++ bytesLE 8 kd).getD (off % 16) 0

/-- The byte that a load of the flow's word at pc, which has left on its own, has brought. -/
def Flow.fetched (f : Flow) (a key : Nat) : Option Byte :=
  f.fetch.bind (fun l => (l.find? (fun p => p.1 == a && p.2.1 == key)).map (·.2.2))

/-- The n bytes a load of the flow reads at a translated address. -/
def State.loadBytes (s : State) (f : Flow) (x : Xl) (n : Nat) : List Byte :=
  if x.index then (List.range n).map (fun i => s.indexByte f.tenant (x.pa + i))
  else
    let own := f.ownStores
    (List.range n).map (fun i => (f.fetched (x.pa + i) x.key).getD (s.seenByte f own (x.pa + i) x.key (x.pol != 2)))

/-! ### Charges of an access -/

/-- The price of one byte at its tier, with the die links it crosses from a die (R363, logs 8 and 10); a peer's byte is one of
the L2 that holds its copy, and the host's has no tier of the device (R196, R423). -/
def State.bytePrice (s : State) (die pa : Nat) : Nat :=
  match regionOf pa with
  | .hbm => (if Config.hbmServed s.freeCtr then priceHbm else priceL2) + (if homeDie pa = die then 0 else priceDie)
  | .pool => priceL2 + (if homeDie pa = die then 0 else priceDie)
  | .spm .. => priceSpm
  | .peer .. => priceL2 + (if homeDie pa = die then 0 else priceDie)
  | .host _ => if die = 0 then 0 else priceDie
  | _ => 0

/-- What an access of n bytes draws over a Vexcon port or the host link (R363, R436, log 123): the line that it brings into W_n or
into the HCA's cache where that does not hold it, or its own bytes, where it is an AMO at a peer or the host link has no CXL. Bytes of
a peer that go by another die's port cross a die link too (log 124). -/
def State.crossing (s : State) (pa key n : Nat) (amo : Bool) : Nat :=
  match regionOf pa with
  | .peer p _ =>
    let far := match s.dev.portFor (homeDie pa) pa p with | some i => i / 16 != homeDie pa | none => false
    (if amo then n else if (s.peerByte? pa key).isSome then 0 else 128) * (priceVex + if far then priceDie else 0)
  | .host _ =>
    if !s.dev.hostCxl then n * priceHost
    else if s.coh.hca.any (fun h => h.addr == pa / 64 * 64 && h.key == key) then 0 else 64 * priceHost
  | _ => 0

/-- Charges that to a tenant and a launch. -/
def State.chargeCross (s : State) (tenant launch pa key n : Nat) (amo : Bool) : State :=
  let p := s.crossing pa key n amo
  if p = 0 then s else s.charge tenant launch p

/-- Charges n bits at an address to a flow. -/
def State.chargeBits (s : State) (f : Flow) (pa n : Nat) : State :=
  let p := s.bytePrice f.loc.die pa
  ({ s with freeCtr := s.freeCtr + 1 }).charge f.tenant f.key.launch (n * p / 8)

/-- Charges n bytes at an address to a flow. -/
def State.chargeAt (s : State) (f : Flow) (pa n : Nat) : State := s.chargeBits f pa (8 * n)

/-! ### Performing a store -/

/-- Moves a plan to Stale through a watched write (R230, R231), or marks its build (R230). -/
def State.planState (s : State) (t off : Nat) : Nat :=
  let x := s.ten t
  (s.keyByte (x.arenaPa off) x.rootKey).toNat % 8

/-- Writes a STATE word's code, subcode and cause (R228); a write whose home is lost is discarded (R448). -/
def State.setPlanState (s : State) (t off code sub cause : Nat) : State :=
  let x := s.ten t
  if (s.homeLost (x.arenaPa off)).isSome then s
  else (s.recallWord (x.arenaPa off / 8 * 8) x.rootKey).setBytes (x.arenaPa off) x.rootKey [BitVec.ofNat 8 (code + 16 * sub), BitVec.ofNat 8 cause]

def State.hitPlan (s : State) (t off : Nat) : State :=
  let c := s.planState t off
  if c = 2 ∨ c = 4 then s.setPlanState t off 3 1 8
  else if c = 1 then
    { s with jobs := s.jobs.map (fun j =>
        match j.kind with
        | .build b => if b.off = off ∧ j.tenant = t then { j with kind := .build { b with hit := true } } else j
        | _ => j) }
  else s

/-- Every plan that watches the word goes stale (R207, R232). -/
def State.markWatched (s : State) (a : Nat) : State :=
  (s.watches.filter (fun w => w.addr == a)).foldl (fun s w => s.hitPlan w.tenant w.off) s

/-- Writes the enabled bits of a word under a key. -/
def State.putWord (s : State) (a data en key : Nat) : State :=
  (List.range 8).foldl (fun s i =>
    let e := bits en (8 * i) 8
    if e = 0 then s
    else s.setByte (a + i) key (mergeByte (s.keyByte (a + i) key) (BitVec.ofNat 8 (bits data (8 * i) 8)) (BitVec.ofNat 8 e))) s

/-- Whether a plan watches a word of a 64-byte line. -/
def State.lineWatched (s : State) (l : Nat) : Bool := s.watches.any (fun w => w.addr / 64 * 64 == l)

/-- A line leaves the HCA's cache, clean or written to the host; plans that watch it go stale (R232, R423). -/
def State.hcaDrop (s : State) (h : HcaLine) : State :=
  let s := { s with coh := { s.coh with hca := s.coh.hca.filter (fun g => g != h) } }
  if s.lineWatched h.addr then (List.range 8).foldl (fun s i => s.markWatched (h.addr + 8 * i)) s else s

/-- The lines of the set of a line in the HCA's cache, which has 8,192 sets of 16 ways (R423). -/
def State.hcaSet (s : State) (l : Nat) : List HcaLine := s.coh.hca.filter (fun h => h.addr / 64 % 8192 == l / 64 % 8192)

/-- Whether a line has a way of its set that no watched line holds. -/
def State.hcaFits (s : State) (l : Nat) : Bool :=
  decide ((s.hcaSet l).length < 16) || (s.hcaSet l).any (fun h => !s.lineWatched h.addr)

/-- Room for a line in the HCA's cache: of a full set the line used least recently leaves, one that a plan watches only where
all are watched (log 115). -/
def State.hcaRoom (s : State) (l : Nat) : State :=
  if (s.hcaSet l).length < 16 then s
  else
    match (((s.hcaSet l).filter (fun h => !s.lineWatched h.addr)).getLast?).orElse (fun _ => (s.hcaSet l).getLast?) with
    | some h => s.hcaDrop h
    | none => s

/-- The HCA holds a host line for an access under a key: modified by a store or AMO (RdOwn, ItoMWr), else shared or as it
is (RdShared), where its set has a way for it; it is the line used last (R109, R423). Without CXL it holds none (R431). -/
def State.hcaTake (s : State) (a key : Nat) (own : Bool) : State :=
  if !s.dev.hostCxl then s
  else
    let l := a / 64 * 64
    let now := BitVec.ofNat 512 (natLE (s.mem.getN l 64))
    match s.coh.hca.find? (fun h => h.addr == l && h.key == key) with
    | some h =>
      let g : HcaLine := if own && h.st != .m then ⟨l, key, .m, now⟩ else h
      { s with coh := { s.coh with hca := g :: s.coh.hca.filter (fun x => x != h) } }
    | none =>
      if !own && !s.hcaFits l then s
      else
        let s := s.hcaRoom l
        { s with coh := { s.coh with hca := ⟨l, key, if own then .m else .s, now⟩ :: s.coh.hca } }

/-- The write of a store at its home: its bits reach M or W_n, the copies of the word that its slice recalls go, the word is
registered to the core (R408), a wholly written word no longer holds an error (R444), and every plan that watches it
goes stale. -/
def State.writeStore (s : State) (a data en key : Nat) (core : Option Nat) (owner : Option FlowKey) : State :=
  let s := match s.regOf a key with
    | some c => if core = some c then s else s.dropWord c a key
    | none => s
  let s := match core with
    | some c => s.register (a / 128 * 128) key c (wordBit a)
    | none => s.unregister a key
  let s := s.touchRun a key core
  match regionOf a with
  | .peer .. =>
    let s := (List.range 8).foldl (fun s i => s.putPeerByte (a + i) (bits data (8 * i) 8) (bits en (8 * i) 8) key owner) s
    { s with badCache := if en = 2 ^ 64 - 1 then s.badCache.filter (fun b => b != a) else s.badCache }
  | r =>
    let s := match r with | .host _ => s.hcaTake a key true | _ => s
    let s := s.putWord a data en key
    ({ s with
      bad := if en = 2 ^ 64 - 1 then s.bad.filter (fun b => b != a) else s.bad
      badCache := if en = 2 ^ 64 - 1 then s.badCache.filter (fun b => b != a) else s.badCache }).markWatched a

/-- APPLY of a store (R198), of a core or of another agent; `grain` where a core caches its page (R410, R413). -/
def State.applyStore (s : State) (a data en key : Nat) (core : Option Nat) (owner : Option FlowKey := none) (grain : Option Nat := none) : State :=
  (s.visitStore a key core grain).writeStore a data en key core owner

/-- The indivisible OR of a leaf's D bit at the entry's home (R397): a write of the device there, which marks plans that
watch the word (R232). -/
def State.orLeaf (s : State) (tenant pte : Nat) : State := s.applyStore (pte / 8 * 8) 0x40 0x40 (s.ten tenant).rootKey none

/-- A store that has passed its checks through a cached leaf with D = 0 sets D by an OR at the entry as it stands, and reads
the entry again: one that has changed otherwise leaves the TLBs, and the store walks again (R397). -/
def State.orDirty (s : State) (c : Ctx) (va : Nat) : State :=
  match s.tlbHit c va with
  | none => s
  | some e =>
    if bit e.leaf.toNat 6 || e.pte = 0 then s
    else
      let s := s.orLeaf c.tenant e.pte
      let now := w64 (natLE (s.keyBytes e.pte (s.ten c.tenant).rootKey 8))
      if now = e.leaf ||| 0x40 then { s with tlb := s.tlb.map (fun x => if x = e then { x with leaf := now } else x) }
      else { s with tlb := s.tlb.filter (fun x => !(x.pte == e.pte && x.tenant == e.tenant)) }

/-- The same for each of a list of addresses. -/
def State.orDirtyAll (s : State) (c : Ctx) (vas : List Nat) : State :=
  if s.tlb.isEmpty then s else vas.foldl (fun s va => s.orDirty c va) s

/-- An engine's write at an address does the same once its translation has passed (R397). -/
def State.dirtied (s : State) (c : Ctx) (va : Nat) : State :=
  match s.access c va .w with
  | .ok _ => s.orDirty c va
  | .error _ => s

/-- Sets the D bit of a leaf that a store's own walk has just read (R397). -/
def State.setDirty (s : State) (c : Ctx) (x : Xl) : State := if x.dClear && x.pte != 0 then s.orLeaf c.tenant x.pte else s

/-- An error in a cached copy that goes home fails there too, and is logged (R444). -/
def State.errHome (s : State) (a : Nat) : State :=
  let w := a / 8 * 8
  if s.badCache.contains w then
    { s with
      bad := badWords w ++ s.bad.filter (fun b => !(badWords w).contains b)
      badCache := s.badCache.filter (fun b => b != w) }.logErr 3 0 0 0 (homeDie w) w 0
  else s

/-- Whether a write-back of a byte under a tag reaches its peer and is served there (R436 to R439). -/
def State.peerTakes (s : State) (addr tag : Nat) : Bool :=
  match regionOf addr with
  | .peer n off => s.dev.domEn && s.dev.reaches n && s.dev.peerServes n tag off
  | _ => true

/-- APPLY of a write-back at the peer's home. One that the peer refuses, or that no port carries, is dropped, its copy with it, and
logged as kind 4 (R439, R445). -/
def State.applyBack (s : State) (a : Access) (tag tenant : Nat) : State :=
  if s.peerTakes a.addr tag then (s.setByte a.addr a.key (BitVec.ofNat 8 a.data.toNat)).errHome a.addr
  else
    { s with peerCopies := s.peerCopies.filter (fun p => !(p.isAt a.addr a.key && !p.dirty)) }.logErr 4 0 0 tenant (homeDie a.addr) a.addr 0

/-- The new value of an AMO on w-bit values, none where AMOCAS fails (R107): w, old, operand, expected. -/
abbrev AmoOp := Nat → Nat → Nat → Nat → Option Nat

def amoSwap : AmoOp := fun _ _ x _ => some x
def amoAdd : AmoOp := fun w o x _ => some ((o + x) % 2 ^ w)
def amoAnd : AmoOp := fun _ o x _ => some (o &&& x)
def amoOr : AmoOp := fun _ o x _ => some (o ||| x)
def amoMax : AmoOp := fun w o x _ => some (if sgn w o < sgn w x then x else o)
def amoMin : AmoOp := fun w o x _ => some (if sgn w x < sgn w o then x else o)
def amoCas : AmoOp := fun _ o x e => if o = e then some x else none

def AmoKind.op : AmoKind → AmoOp
  | .swap => amoSwap
  | .add => amoAdd
  | .and => amoAnd
  | .or => amoOr
  | .max => amoMax
  | .min => amoMin
  | .cas => amoCas

/-- The read and write of an AMO at its point of service, in one step (R107 to R109, R440): W_n's bytes of its line have
left, the run of AMOs there counts it, and the core's own copy of the word goes; where the line has been granted to the core, the
AMO executes in its L1. An AMOCAS that fails writes nothing, and has the home act as for any AMO (R413, R423). The old value
is the result. -/
def State.amoApply (s : State) (core : Option Nat) (x : Xl) (n : Nat) (new : Nat → Option Nat) : State × Nat :=
  let w := x.pa / 8 * 8
  let s := s.touchRun w x.key core
  let inL1 := match core with | some c => s.granted w x.key c | none => false
  let s := match core with | some c => s.countAmo w x.key c | none => s
  let s := match regionOf x.pa with | .host _ => s.hcaTake w x.key true | _ => if inL1 then s else s.homeStore w x.key
  let old := natLE (s.keyBytes x.pa x.key n)
  let settle (s : State) (v : Nat) : State := match core with
    | some c => if inL1 then s.l1Put c x.pa x.key x.grain n v else s.dropWord c w x.key
    | none => s
  match new old with
  | none => (if inL1 then settle s old else s, old)
  | some y =>
    let sh := 8 * (x.pa % 8)
    let data := (y % 2 ^ (8 * n)) <<< sh
    let en := (2 ^ (8 * n) - 1) <<< sh
    let s := match regionOf x.pa with
      | .peer .. => s.putWord w data en x.key
      | _ => s.writeStore w data en x.key core none
    (settle s (y % 2 ^ (8 * n)), old)

/-- Whether an access on its way was made by a flow. -/
def Flight.ofFlow (fl : Flight) (k : FlowKey) : Bool := match fl.origin with | .flow j _ => j == k | _ => false

/-- Accesses of a flow on their way. -/
def State.netOf (s : State) (k : FlowKey) : List Access := (s.net.filter (fun fl => fl.ofFlow k)).map (·.acc)

/-- Loads of a flow on their way. -/
def State.netLoads (s : State) (k : FlowKey) : List Access := (s.netOf k).filter (·.load)

/-- The word that an access of a flow, without its value, stands for. -/
def State.defer? (s : State) (k : FlowKey) (seq : Nat) : Option Defer :=
  s.ckpts.find? (fun p => p.seq == seq && p.before.key == k)

/-! ### Values of loads -/

/-- The value of a load from its bytes. -/
def loadValue (sext : Bool) (bs : List Byte) : Word :=
  if sext then sext64 (8 * bs.length) (natLE bs) else w64 (natLE bs)

/-- The elements of a destination with positions below `start` kept. -/
def Flow.mergeFrom (f : Flow) (v : Nat) (m : BitVec 4) (start : Nat) (xs : List Nat) : List Nat :=
  mergeElems f.mz (f.maskN m) (f.act.toNat / 2 ^ start * 2 ^ start) (f.elems v f.grp f.ew f.vlN) xs

/-- A whole load's write of its destination (R153); none with VL = 0 (R211). -/
def Flow.loadDest (f : Flow) (v : Nat) (m : BitVec 4) (start : Nat) (xs : List Nat) : Flow :=
  if f.vlN = 0 then f
  else
    let f' := f.setGstr v f.grp (f.destStr v f.grp f.ew (f.mergeFrom v m start xs))
    if start = 0 && f.wholeWrite v f.grp m then f'.clearGroup v f.grp else f'

/-- Registers of another flow record taken over, with whether they hold an error. -/
def Flow.takeRegs (f g : Flow) (v n : Nat) : Flow :=
  let rs := groupRefs v n
  { f with
    v := (List.range n).foldl (fun l i => l.set (v + i) (g.v.getD (v + i) 0)) f.v
    bad := f.bad.filter (fun b => !rs.contains b) ++ g.bad.filter (fun b => rs.contains b) }

/-- What a load's bytes leave in its flow, once they are all there. -/
def Defer.write (d : Defer) (a : Access) (bs : List Byte) (f : Flow) : Flow :=
  match d.vec with
  | none => f.wr (BitVec.ofNat 5 a.dst) (loadValue a.sext bs)
  | some e =>
    let b := d.before
    let xs := e.elems.map (fun p => bits (natLE (p.2.map (fun pa => aget d.got pa 0))) p.1 b.ew)
    f.takeRegs (b.loadDest e.v e.m e.start (List.replicate e.start 0 ++ xs)) e.v b.grp

/-- A flow takes the values of a load; so do the records from which younger loads could be undone. -/
def State.settle (s : State) (k : FlowKey) (seq : Nat) (g : Flow → Flow) : State :=
  let s := s.modFlow k g
  { s with ckpts := s.ckpts.map (fun (p : Defer) => if p.before.key = k ∧ seq < p.seq then { p with before := g p.before } else p) }

/-- The bytes of an access without its value arrive; with the last of its word the value is written (R105, R161), or they wait for
the word at pc. -/
def State.deliver (s : State) (k : FlowKey) (a : Access) (bs : List Byte) : State :=
  let s := s.modFlow k (fun f => { f with sb := f.sb.erase a })
  match s.defer? k a.seq with
  | none => s.modFlow k (fun f => { f with fetch := f.fetch.map (fun l => (bs.zipIdx.map (fun p => (a.addr + p.2, a.key, p.1))) ++ l) })
  | some d =>
    let d' := { d with got := bs.zipIdx.map (fun p => (a.addr + p.2, p.1)) ++ d.got, left := d.left - 1 }
    let here (p : Defer) : Bool := p.seq == a.seq && p.before.key == k
    if d'.left = 0 then
      let s := s.settle k a.seq (fun f => d'.write a bs f)
      { s with ckpts := s.ckpts.filter (fun p => !here p) }
    else { s with ckpts := s.ckpts.map (fun p => if here p then d' else p) }

/-- The tags as they stood before a word: one that was not in use is given back, a Lost one as Lost (log 121), another keeps what has
come to it. -/
def undoTags (now before : List TagSt) : List TagSt :=
  (now.zip before).map (fun p =>
    match p.2 with
    | .pending _ => p.1
    | .landed _ => p.1
    | x => x)

/-- A convoy without the words that issued behind access number `seq`, which have no effect (R160). -/
def RunConvoy.undo (seq : Nat) (c : RunConvoy) : Option RunConvoy :=
  match c.ws.filter (fun w => decide (w.seq ≤ seq)) with
  | [] => none
  | ws => some { c with ws := ws, total := groupsOf ws c.gnt }

/-- A flow as it stood before a word that ran too far ahead; what other parts have done to it since stays. -/
def Flow.undo (f b : Flow) (seq : Nat) : Flow :=
  { f with
    pc := b.pc
    s := b.s
    busy := b.busy
    v := b.v
    m := b.m
    act := b.act
    vl := b.vl
    vtype := b.vtype
    svp := b.svp
    vprog := b.vprog
    vgnt := b.vgnt
    convoy := b.convoy
    ival := b.ival
    fetch := none
    avl := b.avl
    slots := b.slots
    mxq := b.mxq
    vsq := b.vsq
    tags := undoTags f.tags b.tags
    bad := b.bad
    vq := f.vq.filter (fun w => decide (w.seq ≤ seq))
    cv := f.cv.bind (RunConvoy.undo seq)
    sb := f.sb.filter (fun a => decide (a.seq < seq))
    fences := f.fences.filter (fun c => decide (c.seq ≤ seq)) }

/-- Charges of a tenant and a launch given back, for words that are undone. -/
def State.uncharge (s : State) (tenant launch fj : Nat) : State :=
  (s.modTen tenant (fun t => { t with spent := t.spent - fj })).modLaunch launch (fun l => { l with charged := l.charged - fj })

/-- A load without its value fails at its point of service: every word that ran ahead of it is undone, its charge with it, and the
trap is taken at its own word (R105, R161, R372, R447). A vector load's word runs again, and finds the element that fails (R158). -/
def State.rollback (s : State) (k : FlowKey) (a : Access) (t : Trap) : State :=
  match s.defer? k a.seq, s.flow? k with
  | some c, some f =>
    let me := s.me.key
    let s := { s with
      ckpts := s.ckpts.filter (fun p => !(decide (a.seq ≤ p.seq) && p.before.key == k))
      net := s.net.filter (fun fl => !(fl.acc.load && decide (a.seq ≤ fl.acc.seq) && fl.ofFlow k)) }
    let s := ((s.uncharge f.tenant k.launch c.cost).swapIn k).setMe (f.undo c.before a.seq)
    (if c.vec.isSome then s else s.trap t).swapIn me
  | _, _ => s

/-- The loads that the word at pc of a flow has sent on their own are given up: the word runs again and finds the failure. -/
def State.dropFetch (s : State) (k : FlowKey) : State :=
  { s.modFlow k (fun f => { f with fetch := none, sb := f.sb.filter (fun a => !(a.load && a.seq == f.seq)) }) with
    net := s.net.filter (fun fl => !(fl.acc.load && fl.ofFlow k && (match s.flow? k with | some f => fl.acc.seq == f.seq | none => false))) }

/-- A load fails at its point of service. -/
def State.failLoad (s : State) (k : FlowKey) (a : Access) (t : Trap) : State :=
  if (s.defer? k a.seq).isSome then s.rollback k a t else s.dropFetch k

/-- Whether a load on its way is awaited: by a word without its value, or by the word at pc. -/
def State.awaits (s : State) (k : FlowKey) (seq : Nat) : Bool :=
  (s.defer? k seq).isSome || (match s.flow? k with | some f => f.fetch.isSome && f.seq == seq | none => false)

/-- The failure of a data read at its point of service: HOME_LOST, then DATAERR (R105). -/
def State.readErr (s : State) (pa : Nat) (eval : Word) : Option Trap :=
  match s.homeLost pa with
  | some sub => some ⟨0x0F, sub, eval, none, 0⟩
  | none =>
    match s.dataBad pa with
    | some sub => some ⟨7, sub, eval, none, pa⟩
    | none => none

/-- The trap that an access without its value would take as memory stands. -/
def State.accErr (s : State) (a : Access) : Option Trap :=
  (List.range a.size).findSome? (fun i => s.readErr (a.addr + i) (w64 a.va))

/-! ### V_c -/

/-- Whether an address is in a TCM or a scratchpad, of which the L1 holds no copy. -/
def offChip (pa : Nat) : Bool := match regionOf pa with | .tcm .. => true | .spm .. => true | _ => false

/-- Fills V_c with the granule of a load, save bytes that a store of the core in a CQ covers (R198, R410). -/
def State.fillLine (s : State) (core pa key grain : Nat) : State :=
  if offChip pa then s
  else
    let g := granuleAt pa grain
    let cq := s.coreCq core
    let x := natLE ((List.range g.2).map (fun i =>
      let p := g.1 + i
      if cq.any (fun a => a.enAt p != 0) then s.coreByte core p key else s.pointByte p key))
    s.l1Put core g.1 key grain g.2 x

/-- V_c takes the bytes of an entered store (R198). -/
def State.viewStore (s : State) (core : Nat) (a : Access) : State :=
  (List.range 8).foldl (fun s i =>
    let e := wbits a.en (8 * i) 8
    if e = 0 then s
    else
      let b := mergeByte (s.coreByte core (a.addr + i) a.key) (BitVec.ofNat 8 (wbits a.data (8 * i) 8)) (BitVec.ofNat 8 e)
      s.l1Put core (a.addr + i) a.key a.grain 1 b.toNat (!a.fill || offChip a.addr)) s

/-- The stores of other flows of the core, not yet performed, from which a load that reads V_c there can have its
value (R202). -/
def State.mateStores (s : State) (f : Flow) (pa n : Nat) : List (FlowKey × Nat) :=
  let upon (a : Access) : Bool := !a.load && (List.range n).any (fun i => a.enAt (pa + i) != 0)
  let c := f.loc.coreIdx
  ((s.flows.filter (fun g => g.loc.coreIdx == c && g.key != f.key)).map (fun g => (g.cq.filter upon).map (fun a => (g.key, a.seq)))).flatten ++
    (s.net.filter (fun fl => upon fl.acc && (match fl.origin with | .flow k d => d == c && k != f.key | _ => false))).map
      (fun fl => ((match fl.origin with | .flow k _ => k | _ => f.key), fl.acc.seq))

/-- A load of a flow has read bytes of V_c, or of W_n: what a later release of it waits for. -/
def State.noteRead (s : State) (k : FlowKey) (pa key n : Nat) : State :=
  match s.flow? k with
  | none => s
  | some f =>
    let ms := s.mateStores f pa n
    let s := s.readPeers k f.loc.coreIdx pa key n
    if ms.isEmpty then s else s.modFlow k (fun f => { f with rf := ms.filter (fun m => !f.rf.contains m) ++ f.rf })

/-! ### Steps -/

/-- ENTER (R198). -/
def State.enterAcc (s : State) (k : FlowKey) (a : Access) : State :=
  match s.flow? k with
  | none => s
  | some f => (s.modFlow k (fun f => { f with sb := f.sb.erase a, cq := f.cq ++ [a] })).viewStore f.loc.coreIdx a

/-- The acquire effect at a scope (R200): every byte of V_c that can DROP drops, and at dom or sys the clean bytes of W_n
that the core has read. -/
def State.acquire (s : State) (k : FlowKey) (scope : Nat) : State :=
  match s.flow? k with
  | none => s
  | some f =>
    if scope < 2 then s
    else
      let c := f.loc.coreIdx
      let s := s.dropBlocks (fun b => b.core == c)
      if scope < 5 || s.peerCopies.isEmpty then s
      else { s with peerCopies := s.peerCopies.filter (fun p => p.dirty || !p.cores.contains c) }

/-- A load reads at its point of service: a core of another die that caches the page reads its granule, every other agent makes a
home-side read (R413), a peer's line comes into W_n (R439), and the HCA keeps a host line shared (RdShared) unless the page is
uncached (RdCurr, R423). -/
def State.pointRead (s : State) (core : Option Nat) (pa key : Nat) (cached : Bool := true) (grain : Nat := 0) : State :=
  let s := s.touchRun pa key core
  let s := s.visitRead pa key core (if cached then some grain else none)
  match regionOf pa with
  | .peer .. => if (s.peerByte? pa key).isSome then s else s.fillPeer pa key
  | .host _ => if cached then s.hcaTake pa key false else s
  | _ => s

/-- APPLY of a load or an AMO of a flow (R198), charged for what it draws over a link. -/
def State.applyLoad (s : State) (k : FlowKey) (core : Nat) (a : Access) : State :=
  match s.accErr a with
  | some t => s.failLoad k a t
  | none =>
    let s := match s.flow? k with | some f => s.chargeCross f.tenant k.launch a.addr a.key a.size a.amo.isSome | none => s
    match a.amo with
    | some q =>
      let x : Xl := ⟨a.addr, a.key, 0, a.grain, 0, false, false⟩
      let r := s.amoApply (some core) x a.size (fun o => q.kind.op (8 * a.size) o q.opnd q.expect)
      let s := r.1.deliver k a (bytesLE a.size r.2)
      if q.acq then s.acquire k q.scope else s
    | none =>
      let s := s.pointRead (some core) a.addr a.key a.fill a.grain
      let s := s.deliver k a ((List.range a.size).map (fun i => s.pointByte (a.addr + i) a.key))
      let s := s.readPeers k core a.addr a.key a.size
      if a.fill then s.fillLine core a.addr a.key a.grain else s

/-- Changes the chunk of a copy that starts at an offset. -/
def Copy.modChunk (c : Copy) (off : Nat) (g : Chunk → Chunk) : Copy :=
  { c with chunks := c.chunks.map (fun x => if x.off = off then g x else x) }

/-- Changes a copy by its job's number. -/
def State.modCopy (s : State) (id : Nat) (g : Copy → Copy) : State :=
  { s with jobs := s.jobs.map (fun j =>
      match j.kind with
      | .copy c => if j.id = id then { j with kind := .copy (g c) } else j
      | .build _ => j) }

/-- APPLY of a copy's read: its bytes come to the chunk that sent it (`seq`), at the offset `dst` in it, or the
failure of the read (R289). -/
def State.applyRead (s : State) (id : Nat) (a : Access) : State :=
  match s.accErr a with
  | some t => s.modCopy id (fun c => c.modChunk a.seq (fun x => { x with err := some (if t.cause = 7 then 3 else 2, a.va) }))
  | none =>
    let s := match s.accountOf ⟨0, id⟩ with | some x => s.chargeCross x.1 x.2 a.addr a.key a.size false | none => s
    let s := s.pointRead none a.addr a.key a.fill
    let bs := (List.range a.size).map (fun i => (a.dst + i, s.pointByte (a.addr + i) a.key))
    s.modCopy id (fun c => c.modChunk a.seq (fun x => { x with got := bs ++ x.got }))

/-- A store to host memory is charged for what it draws over the link; one to a peer goes to W_n and crosses nothing yet. -/
def State.storeCross (s : State) (x : Nat × Nat) (a : Access) (n : Nat) : State :=
  match regionOf a.addr with
  | .host _ => s.chargeCross x.1 x.2 a.addr a.key n false
  | _ => s

/-- APPLY of an access that heads the last queue of its path (R198). A store whose home is lost is discarded, and
faults the copy that sent it (R289, R447); a store of the core is charged where it lands (R363). -/
def State.applyFlight (s : State) (fl : Flight) : State :=
  let a := fl.acc
  if a.load then
    match fl.origin with
    | .flow k core => if s.awaits k a.seq then s.applyLoad k core a else s
    | .job id => s.applyRead id a
    | _ => s
  else if (s.homeLost a.addr).isSome then
    match fl.origin with
    | .back _ tag tenant => s.applyBack a tag tenant
    | .job id => s.modCopy id (fun c => c.modChunk a.seq (fun x => { x with err := some (2, a.va) }))
    | _ => s
  else
    match fl.origin with
    | .flow k core =>
      let n := popN 64 a.en.toNat
      let s := match s.flow? k with | some f => (s.chargeBits f a.addr n).storeCross ⟨f.tenant, k.launch⟩ a (n / 8) | none => s
      s.applyStore a.addr a.data.toNat a.en.toNat a.key (some core) (some k) (if a.fill then some a.grain else none)
    | .job id =>
      let s := match s.accountOf ⟨0, id⟩ with | some x => s.storeCross x a (popN 64 a.en.toNat / 8) | none => s
      s.applyStore a.addr a.data.toNat a.en.toNat a.key none (some ⟨0, id⟩)
    | .back _ tag tenant => s.applyBack a tag tenant
    | .msi fn v => s.modDev (fun d => { d with irqs := d.irqs ++ [(fn, v)] })
    | _ => s.applyStore a.addr a.data.toNat a.en.toNat a.key none

/-- The first n accesses that stand in a queue leave the list. -/
def cutFirst (q : QueueId) : Nat → List Flight → List Flight
  | 0, l => l
  | _, [] => []
  | n + 1, fl :: rest => if fl.path.head? = some q then cutFirst q n rest else fl :: cutFirst q (n + 1) rest

/-- A queue serves its head, one after another, until none of the accesses that p selects is left in it: one with a
queue still before it PASSes, another APPLYs. -/
def State.serve (s : State) (q : QueueId) (p : Flight → Bool) : State :=
  let upto := ((s.net.filter (fun fl => fl.path.head? == some q)).reverse.dropWhile (fun fl => !p fl)).reverse
  if upto.isEmpty then s
  else
    upto.foldl (fun s fl =>
      if fl.path.length ≤ 1 then s.applyFlight fl
      else { s with net := s.net ++ [{ fl with path := fl.path.drop 1 }] }) { s with net := cutFirst q upto.length s.net }

/-- The queues of a path serve all that stands in them, one after the other. -/
def State.servePath (s : State) : List QueueId → State
  | [] => s
  | q :: rest => (s.serve q (fun _ => true)).servePath rest

/-- Everything ahead of an access that joins a path now leaves its queues. -/
def State.drainPath (s : State) (path : List QueueId) : State := if s.net.isEmpty then s else s.servePath path

/-- Accesses on their way that p selects APPLY, with what stands ahead of them; no path has more than two queues. -/
def State.applyWhere (s : State) (p : Flight → Bool) : State :=
  let round (s : State) : State := (((s.net.filter p).map (fun fl => fl.path.head?)).eraseDups).foldl (fun s q =>
    match q with
    | some q => s.serve q p
    | none => s) s
  if s.net.any p then round (round s) else s

/-- Everything in the queues performs. -/
def State.flushNet (s : State) : State := s.applyWhere (fun _ => true)

/-- The stores of the strip buffer in program order. -/
def Flow.sbStores (f : Flow) : List Access := sortBy (fun a => a.seq) (f.sb.filter (fun a => !a.load))

/-- The stores of the strip buffer that cannot leave it: an older one of a byte of theirs is held in the VSQ, or stays as well
(R162, R163, R199). -/
def Flow.stays (f : Flow) : List Access :=
  if f.held.isEmpty then []
  else
    f.sbStores.foldl (fun st a =>
      if (f.held ++ st).any (fun b => decide (b.seq < a.seq) && b.overlaps a) then st ++ [a] else st) []

/-- The stores of the strip buffer that p selects, with the older ones that share a byte with one of them: those leave first (R199). -/
def Flow.drags (f : Flow) (p : Access → Bool) : List Access :=
  f.sbStores.reverse.foldl (fun acc a => if p a || acc.any (fun b => b.overlaps a) then a :: acc else acc) []

/-- Every store of the strip buffer that p selects ENTERs, in program order, those first that share bytes with it; one behind a store
that the VSQ holds stays. -/
def State.enterWhere (s : State) (k : FlowKey) (p : Access → Bool) : State :=
  match s.flow? k with
  | none => s
  | some f => ((f.drags p).filter (fun a => !f.stays.contains a)).foldl (fun s a => s.enterAcc k a) s

/-- The core store queue is SENT as far as the last store that p selects. -/
def State.sendWhere (s : State) (k : FlowKey) (p : Access → Bool) : State :=
  match s.flow? k with
  | none => s
  | some f => (f.cq.reverse.dropWhile (fun a => !p a)).foldl (fun s _ => s.sendHead k) s

/-- The stores of a flow that p selects leave its core for their point of service: those that share an address's path with
an access that follows them. -/
def State.pushStores (s : State) (k : FlowKey) (loc : Loc) (pa key : Nat) (p : Access → Bool) : State :=
  ((s.enterWhere k p).sendWhere k p).drainPath (s.pathOf loc pa key true)

/-- WRITEBACK (R439): a dirty byte of W_n joins DQ and is clean. It crosses a port (R436). -/
def State.sendBack (s : State) (p : PeerByte) : State :=
  match regionOf p.addr with
  | .peer n _ =>
    let a : Access := { s.me.newAccess p.addr 0 ⟨p.addr, p.key, 0, 0, 0, false, false⟩ with
      seq := 0, ival := 0, data := w64 p.val.toNat, en := 255 }
    { (if p.launch = 0 then s else s.charge p.tenant p.launch priceVex) with
      peerCopies := s.peerCopies.map (fun c => if c = p then { c with dirty := false, owe := [], age := 0 } else c)
      net := s.net ++ [⟨[.peer n], a, .back p.owe p.tag p.tenant⟩] }
  | _ => s

/-- Whether an access on its way is a write-back, and one that a flow's release, or an engine's, waits for. -/
def Flight.isBack (fl : Flight) : Bool := match fl.origin with | .back .. => true | _ => false
def Flight.owes (fl : Flight) (k : FlowKey) : Bool := match fl.origin with | .back owe .. => owe.contains k | _ => false

/-- The dirty bytes of W_n that p selects are written back and APPLY at their homes, with what stands before them (R200, R439). -/
def State.backWhere (s : State) (p : PeerByte → Bool) : State :=
  ((s.peerCopies.filter (fun c => c.dirty && p c)).foldl State.sendBack s).applyWhere Flight.isBack

/-- The write-backs that a flow or an engine's command waits for perform (R200). -/
def State.backOwed (s : State) (k : FlowKey) : State :=
  ((s.peerCopies.filter (fun c => c.dirty && c.owe.contains k)).foldl State.sendBack s).applyWhere (fun fl => fl.owes k)

/-- Before an AMO leaves by DQ its line of W_n is written back and drops (R440). -/
def State.leavePeers (s : State) (a key : Nat) : State :=
  let mine (p : PeerByte) : Bool := p.key == key && p.addr / 128 == a / 128
  let t := (s.peerCopies.filter (fun p => p.dirty && mine p)).foldl State.sendBack s
  { t with peerCopies := t.peerCopies.filter (fun p => !mine p) }

/-- A word more: a dirty byte of W_n counts the words of all cores, a clean one those of a core that has read it. -/
def PeerByte.older (core : Nat) (p : PeerByte) : PeerByte :=
  if p.dirty || p.cores.contains core then { p with age := p.age + 1 } else p

/-- Dirty bytes of W_n are written back within 65,536 cycles of their APPLY (R439), in which 2,048 sequencers issue 2^27
words; clean ones drop within 8,192 cycles of their fill (R206), in which the 8 sequencers of a core that has read them issue
65,536 (log 81). -/
def State.agePeers (s : State) (core : Nat) : State :=
  if s.peerCopies.isEmpty then s
  else
    let s := { s with peerCopies := s.peerCopies.map (PeerByte.older core) }
    let due (p : PeerByte) : Bool := decide (2 ^ 27 ≤ p.age)
    let s := if s.peerCopies.any (fun p => p.dirty && due p) then s.backWhere due else s
    { s with peerCopies := s.peerCopies.filter (fun p => p.dirty || decide (p.age < 65536)) }

/-- The loads and AMOs of the strip buffer below a place in program order take their values, in that order (TAKE, or SEND
and APPLY). -/
def State.settleLoads (s : State) (k : FlowKey) (n : Nat) : State :=
  match s.flow? k with
  | none => s
  | some f =>
    let s := s.applyWhere (fun fl => fl.ofFlow k && fl.acc.load && decide (fl.acc.seq < n))
    (sortBy (fun a => a.seq) (f.sb.filter (fun a => a.load && decide (a.seq < n)))).foldl (fun s a =>
      match s.flow? k with
      | none => s
      | some f =>
        if !f.sb.contains a then s
        else
          let rel := match a.amo with | some q => q.rel | none => false
          let older (b : Access) : Bool := decide (b.seq < a.seq) && (rel || b.overlaps a)
          let s := s.pushStores k f.loc a.addr a.key older
          let s := if rel then s.applyWhere (fun fl => fl.ofFlow k && decide (fl.acc.seq < a.seq)) else s
          let s := if a.amo.isSome then s.leavePeers a.addr a.key else s
          let s := s.drainPath (s.pathOf f.loc a.addr a.key false)
          s.applyLoad k f.loc.coreIdx a) s

/-! ### What has performed (R197, R200, R202) -/

/-- Whether an earlier load of a flow has no value yet. -/
def State.loadsOut (s : State) (f : Flow) (n : Nat) : Bool :=
  (f.sb ++ s.netOf f.key).any (fun b => b.reads && decide (b.seq < n))

/-- Whether a store or an AMO in a queue has not performed at a scope (R197): at cluster or die a store has joined its path, or for a
scratchpad APPLYed at the bank; an AMO has performed at its APPLY alone. -/
def inFlight (scope : Nat) (a : Access) : Bool :=
  decide (4 ≤ scope) || (match regionOf a.addr with | .spm .. => decide (2 ≤ scope) | _ => false) || a.amo.isSome

/-- Whether a store of a flow that p selects has ENTERed, or an AMO is on its way, and has not performed at a scope. -/
def State.sentOut (s : State) (k : FlowKey) (scope : Nat) (p : Access → Bool) : Bool :=
  (decide (2 ≤ scope) &&
    (match s.flow? k with
      | some g => g.cq.any (fun a => p a && (match regionOf a.addr with | .tcm .. => false | _ => true))
      | none => false)) ||
    (s.netOf k).any (fun a => p a && a.writes && inFlight scope a)

/-- Whether an earlier store of a flow, or one from which a load of it took its value, has not performed at a scope; at flow a
store has with its ISSUE. -/
def State.storesOut (s : State) (f : Flow) (n scope : Nat) : Bool :=
  (f.sb ++ f.held).any (fun b => b.writes && decide (b.seq < n) && (decide (1 ≤ scope) || b.load)) || s.sentOut f.key scope (fun a => decide (a.seq < n)) ||
    f.rf.any (fun r => s.sentOut r.1 scope (fun a => a.seq == r.2)) ||
    (decide (5 ≤ scope) && (s.peerCopies.any (fun p => p.dirty && p.owe.contains f.key) || s.net.any (fun fl => fl.owes f.key)))

/-- Whether a FENCE's earlier accesses have still to perform. -/
def State.fenceWaits (s : State) (f : Flow) (c : FenceRec) : Bool :=
  (c.pr && s.loadsOut f c.seq) || (c.pw && s.storesOut f c.seq c.scope) || (c.e && f.eq.any (fun e => decide (e.seq < c.seq)))

/-- Whether a FENCE holds back an access of a place in program order (R200). -/
def State.fenced (s : State) (f : Flow) (seq : Nat) (rd wr : Bool) : Bool :=
  f.fences.any (fun c => decide (c.seq ≤ seq) && ((c.qr && rd) || (c.qw && wr)) && s.fenceWaits f c)

/-- A satisfied FENCE is done with, after its acquire effect (R200). -/
def State.settleFences (s : State) (k : FlowKey) (seq : Nat) : State :=
  match s.flow? k with
  | none => s
  | some f =>
    f.fences.foldl (fun s c =>
      if decide (c.seq ≤ seq) && !s.fenceWaits f c then
        let s := if c.qr then s.acquire k c.scope else s
        s.modFlow k (fun f => { f with fences := f.fences.erase c })
      else s) s

/-- An AMO that waits for its APPLY and acquires: no later access leaves before it (R201). -/
def Access.acquires (a : Access) : Bool := match a.amo with | some q => q.acq | none => false

/-- Whether a FENCE's earlier accesses hold a later command back (R200), by its e bit or because it acquires (R204). -/
def State.fenceHolds (s : State) (f : Flow) (c : FenceRec) : Bool :=
  (c.e || c.qr) && ((c.pr && s.loadsOut f c.seq) || (c.pw && s.storesOut f c.seq c.scope))

/-- Whether the flow's FENCEs and acquires let a command of a place in program order be ACCEPTed (R200, R201, R204). -/
def State.orderLets (s : State) (f : Flow) (seq : Nat) : Bool :=
  !(f.fences.any (fun c => decide (c.seq ≤ seq) && s.fenceHolds f c)) &&
    !((f.sb ++ s.netOf f.key).any (fun a => a.acquires && decide (a.seq < seq)))

/-- Whether EQ holds a plan word before a place in program order (R237, R241). -/
def Flow.planBefore (f : Flow) (seq : Nat) : Bool :=
  f.eq.any (fun e => decide (e.seq < seq) && (match e.cmd with | .plan _ => true | _ => false))

/-- R199 to R201 on a store of the strip buffer leaving it: every earlier access that shares a byte has left, everything of
earlier intervals has ENTERed or has its value, no FENCE and no acquiring AMO holds it back. A scalar store that ran ahead of
loads stays while one of them would fail as memory stands, a vector store while one has no value yet, and one that ran ahead of
a plan word while EQ holds that (R105, R160, R161, R237, log 77). -/
def State.mayLeave (s : State) (f : Flow) (a : Access) : Bool :=
  let earlier (b : Access) : Bool := decide (b.seq < a.seq)
  !((f.sb ++ f.held).any (fun b => earlier b && (b.overlaps a || decide (b.ival < a.ival) || b.acquires))) &&
    !((s.netLoads f.key).any (fun b => earlier b && (decide (b.ival < a.ival) || b.acquires))) &&
    !(s.fenced f a.seq false true) &&
    !((f.sb ++ s.netLoads f.key).any (fun b => b.load && earlier b && (a.vec || (s.accErr b).isSome))) && !f.planBefore a.seq

/-- R199 to R201 on a load of the strip buffer: intervals, loads that share a byte, vector stores of its bytes where it is
scalar (R94), FENCEs and acquiring AMOs. -/
def State.loadMayGo (s : State) (f : Flow) (a : Access) : Bool :=
  let earlier (b : Access) : Bool := decide (b.seq < a.seq)
  !(f.sb.any (fun b => earlier b &&
      (decide (b.ival < a.ival) || b.acquires || (b.overlaps a && (b.load || (b.vec && !a.vec)))))) &&
    !(f.held.any (fun b => earlier b && decide (b.ival < a.ival))) &&
    !((s.netLoads f.key).any (fun b => earlier b && (b.overlaps a || decide (b.ival < a.ival) || b.acquires))) &&
    !(s.fenced f a.seq true false)

/-- R201 on an AMO of the strip buffer: it reads and writes, no earlier store to its bytes is still in the core, and a
release waits until every earlier access has performed at its scope and every earlier command is ACCEPTed. -/
def State.amoMayGo (s : State) (f : Flow) (a : Access) (q : AmoReq) : Bool :=
  let earlier (b : Access) : Bool := decide (b.seq < a.seq)
  s.loadMayGo f a && s.mayLeave f a && !((f.cq ++ f.held).any (fun b => earlier b && b.overlaps a)) &&
    !(q.rel && (s.loadsOut f a.seq || s.storesOut f a.seq q.scope || f.eq.any (fun e => decide (e.seq < a.seq))))

/-! ### Words that need accesses performed at once -/

/-- A flow's stores below a place in program order perform at a scope, with those from which its loads took a value
(R197, R202). In replay mode nothing leaves the log (R209). -/
def State.performTo (s : State) (k : FlowKey) (n scope : Nat) : State :=
  match s.flow? k with
  | none => s
  | some f =>
    if s.replayOf f then s
    else
      let mine (a : Access) : Bool := decide (a.seq < n)
      let s := s.settleLoads k n
      let s := if scope = 0 then s else s.enterWhere k mine
      if scope ≤ 1 then s
      else
        let s := s.sendWhere k mine
        let s := f.rf.foldl (fun s r => s.sendWhere r.1 (fun a => a.seq == r.2)) s
        let s := s.applyWhere (fun fl => inFlight scope fl.acc &&
          ((fl.ofFlow k && mine fl.acc) || f.rf.any (fun r => fl.ofFlow r.1 && fl.acc.seq == r.2)))
        if scope < 5 then s else s.backOwed k

/-- Every earlier store of a flow performs at a scope. -/
def State.perform (s : State) (k : FlowKey) (scope : Nat) : State :=
  match s.flow? k with
  | none => s
  | some f => s.performTo k f.seq scope

/-- Whether an access of the flow that leaves its strip buffer now waits for what only later words bring: stores that the
VSQ holds of an earlier interval or before a FENCE (R163, R199, R200), commands before a FENCE with the e bit. -/
def State.stuck (s : State) (rd wr : Bool) : Bool :=
  let f := s.me
  !(s.replayOf f) &&
    (f.held.any (fun b => decide (b.ival < f.ival)) ||
      f.fences.any (fun c => ((c.qr && rd) || (c.qw && wr)) &&
        ((c.pw && f.held.any (fun b => decide (b.seq < c.seq))) || (c.e && f.eq.any (fun e => decide (e.seq < c.seq))))))

/-- Before an access of the flow leaves its strip buffer at once: earlier intervals have ENTERed, and the FENCEs that hold
it back are satisfied (R199, R200). -/
def State.ready (s : State) (rd wr : Bool) : State :=
  let f := s.me
  if s.replayOf f || (f.fences.isEmpty && f.sb.all (fun a => decide (a.ival = f.ival))) then s
  else
    let k := f.key
    let s := (s.settleLoads k f.seq).enterWhere k (fun a => decide (a.ival < f.ival))
    let s := f.fences.foldl (fun s c => if ((c.qr && rd) || (c.qw && wr)) && c.pw then s.performTo k c.seq c.scope else s) s
    s.settleFences k f.seq

/-- The stores of the core's other flows that p selects and that stand in their CQs are SENT: a load that reads at its point of
service takes memory's bytes, and V_c's of none of them (R198, R202). -/
def State.sendMates (s : State) (f : Flow) (pa key : Nat) (p : Access → Bool) : State :=
  let ks := (s.flows.filter (fun g => g.loc.coreIdx == f.loc.coreIdx && g.key != f.key && g.cq.any p)).map (·.key)
  if ks.isEmpty then s else (ks.foldl (fun s k => s.sendWhere k p) s).drainPath (s.pathOf f.loc pa key true)

/-- A load of the flow of n bytes at a translated address reads at once (R94, R196, R198): where its own stores or V_c
hold the bytes it TAKEs them; else the core's stores there leave first, it passes its path behind what stands in it, and
its line fills V_c. Own stores that cannot leave yet stay, and what they write is forwarded (R162). A scalar load first has vector
stores of its bytes ENTER. -/
def State.reach (s : State) (x : Xl) (n : Nat) (vec : Bool) : State :=
  let f := s.me
  let k := f.key
  let c := f.loc.coreIdx
  if x.index || s.replayOf f || f.fetch.isSome then s
  else
    let upon (a : Access) : Bool := !a.load && (List.range n).any (fun i => a.enAt (x.pa + i) != 0)
    let s := if vec || !f.sb.any (fun a => a.vec && upon a) then s else s.enterWhere k (fun a => a.vec && upon a)
    let own := s.me.ownStores.filter upon
    let has (i : Nat) : Bool := own.any (fun a => a.enAt (x.pa + i) == 255) || (x.pol != 2 && (s.viewByte? c (x.pa + i) x.key).isSome)
    if (List.range n).all has then (s.l1Touch c x.pa x.key).noteRead k x.pa x.key n
    else
      let s := (if own.isEmpty then s else s.pushStores k f.loc x.pa x.key upon).sendMates f x.pa x.key upon
      let s := (s.drainPath (s.pathOf f.loc x.pa x.key false)).chargeCross f.tenant k.launch x.pa x.key n false
      let s := (s.pointRead (some c) x.pa x.key (x.pol != 2) x.grain).readPeers k c x.pa x.key n
      if x.pol = 2 then s else s.fillLine c x.pa x.key x.grain

/-- Translated bytes as pieces of aligned 8-byte words: the first byte and how many (R203). -/
def piecesOf (xs : List Xl) : List (Xl × Nat) :=
  xs.foldl (fun acc x =>
    match acc.getLast? with
    | some p => if p.1.pa / 8 = x.pa / 8 ∧ p.1.key = x.key ∧ x.pa = p.1.pa + p.2 then acc.dropLast ++ [(p.1, p.2 + 1)] else acc ++ [(x, 1)]
    | none => [(x, 1)]) []

/-- The pieces of bytes at consecutive virtual addresses from va, each with the address of its first byte. -/
def piecesFrom (va : Nat) (xs : List Xl) : List (Nat × Xl × Nat) :=
  ((piecesOf xs).foldl (fun (acc : Nat × List (Nat × Xl × Nat)) p => (acc.1 + p.2, acc.2 ++ [(acc.1, p)])) (va, [])).2

/-- Whether a word that has run ahead of words without their value, and that reads bytes at once, has to let them go first:
what it reads they read or write, or it stands in a later interval or behind a FENCE (R199, R200). -/
def State.clash (s : State) (xs : List Xl) : Bool :=
  let f := s.me
  !(s.ckpts.all (fun p => p.before.key != f.key)) &&
    (!f.fences.isEmpty || (f.sb ++ s.netOf f.key).any (fun a => a.ival != f.ival || a.acquires || xs.any (fun x => a.touches x.pa)))

/-- Loads of the flow of translated bytes read at once, word by word. -/
def State.reachAll (s : State) (xs : List Xl) (vec : Bool) : State :=
  (piecesOf xs).foldl (fun s p => s.reach p.1 p.2 vec) s

/-- Dirty bytes of W_n at addresses that p selects are written back and APPLY at their homes (R200, R439). -/
def State.writeBack (s : State) (p : Nat → Bool) : State := s.backWhere (fun c => p c.addr)

end Sys2Proof.Machine
end

