-- ==== Sys2Proof/Machine/Scalar.lean ====
section
/-! DEFINITION. Scalar arithmetic, immediates, branches and jumps: R96 to R103. -/

namespace Sys2Proof.Machine

/-- OP 0x01 with two sources (R96, R97). -/
def alu2 (s : State) (d a b : BitVec 5) (op : Word → Word → Word) : Res :=
  scalarWord s (regErr s.me (sRefs [a, b])) (fun f => f.wr d (op (f.rd a) (f.rd b)))

/-- OP 0x01 with one source, and the immediate forms (R96, R99). -/
def alu1 (s : State) (d a : BitVec 5) (op : Word → Word) : Res :=
  scalarWord s (regErr s.me (sRefs [a])) (fun f => f.wr d (op (f.rd a)))

/-- SignExt(imm14, 14), R99. -/
def imm14 (i : BitVec 14) : Word := i.signExtend 64

def wAdd (a b : Word) : Word := a + b
def wSub (a b : Word) : Word := a - b
def wAnd (a b : Word) : Word := a &&& b
def wOr (a b : Word) : Word := a ||| b
def wXor (a b : Word) : Word := a ^^^ b
/-- Shifts by b[5:0] (R97). -/
def wSll (a b : Word) : Word := a <<< (b.toNat % 64)
def wSrl (a b : Word) : Word := a >>> (b.toNat % 64)
def wSra (a b : Word) : Word := a.sshiftRight (b.toNat % 64)
def wSlt (a b : Word) : Word := if a.toInt < b.toInt then 1 else 0
def wSltu (a b : Word) : Word := if a.toNat < b.toNat then 1 else 0
def wMin (a b : Word) : Word := if b.toInt < a.toInt then b else a
def wMax (a b : Word) : Word := if a.toInt < b.toInt then b else a
def wMinu (a b : Word) : Word := if b.toNat < a.toNat then b else a
def wMaxu (a b : Word) : Word := if a.toNat < b.toNat then b else a
def wClz (a : Word) : Word := w64 (clzN 64 a.toNat)
def wCtz (a : Word) : Word := w64 (ctzN 64 a.toNat)
def wPopc (a : Word) : Word := w64 (popN 64 a.toNat)
def wMul (a b : Word) : Word := a * b
/-- Bits 127:64 of the signed product. -/
def wMulh (a b : Word) : Word := BitVec.ofInt 64 ((a.toInt * b.toInt) / 2 ^ 64)
/-- Bits 127:64 of the unsigned product. -/
def wMulhu (a b : Word) : Word := w64 ((a.toNat * b.toNat) / 2 ^ 64)
/-- Division by R97 and R98: −2^63 / −1 wraps to −2^63. -/
def wDiv (a b : Word) : Word := if b = 0 then BitVec.allOnes 64 else BitVec.ofInt 64 (a.toInt.tdiv b.toInt)
def wDivu (a b : Word) : Word := if b = 0 then BitVec.allOnes 64 else w64 (a.toNat / b.toNat)
def wRem (a b : Word) : Word := if b = 0 then a else BitVec.ofInt 64 (a.toInt.tmod b.toInt)
def wRemu (a b : Word) : Word := if b = 0 then a else w64 (a.toNat % b.toNat)

/-- ADD, R97. -/
def execAdd (d a b : BitVec 5) (s : State) : Res := alu2 s d a b wAdd
/-- SUB, R97. -/
def execSub (d a b : BitVec 5) (s : State) : Res := alu2 s d a b wSub
/-- AND, R97. -/
def execAnd (d a b : BitVec 5) (s : State) : Res := alu2 s d a b wAnd
/-- OR, R97. -/
def execOr (d a b : BitVec 5) (s : State) : Res := alu2 s d a b wOr
/-- XOR, R97. -/
def execXor (d a b : BitVec 5) (s : State) : Res := alu2 s d a b wXor
/-- SLL, R97. -/
def execSll (d a b : BitVec 5) (s : State) : Res := alu2 s d a b wSll
/-- SRL, R97. -/
def execSrl (d a b : BitVec 5) (s : State) : Res := alu2 s d a b wSrl
/-- SRA, R97. -/
def execSra (d a b : BitVec 5) (s : State) : Res := alu2 s d a b wSra
/-- SLT, R97. -/
def execSlt (d a b : BitVec 5) (s : State) : Res := alu2 s d a b wSlt
/-- SLTU, R97. -/
def execSltu (d a b : BitVec 5) (s : State) : Res := alu2 s d a b wSltu
/-- MIN, R97. -/
def execMin (d a b : BitVec 5) (s : State) : Res := alu2 s d a b wMin
/-- MAX, R97. -/
def execMax (d a b : BitVec 5) (s : State) : Res := alu2 s d a b wMax
/-- MINU, R97. -/
def execMinu (d a b : BitVec 5) (s : State) : Res := alu2 s d a b wMinu
/-- MAXU, R97. -/
def execMaxu (d a b : BitVec 5) (s : State) : Res := alu2 s d a b wMaxu
/-- MUL, R97. -/
def execMul (d a b : BitVec 5) (s : State) : Res := alu2 s d a b wMul
/-- MULH, R97. -/
def execMulh (d a b : BitVec 5) (s : State) : Res := alu2 s d a b wMulh
/-- MULHU, R97. -/
def execMulhu (d a b : BitVec 5) (s : State) : Res := alu2 s d a b wMulhu
/-- DIV, R97, R98. -/
def execDiv (d a b : BitVec 5) (s : State) : Res := alu2 s d a b wDiv
/-- DIVU, R97, R98. -/
def execDivu (d a b : BitVec 5) (s : State) : Res := alu2 s d a b wDivu
/-- REM, R97, R98. -/
def execRem (d a b : BitVec 5) (s : State) : Res := alu2 s d a b wRem
/-- REMU, R97, R98. -/
def execRemu (d a b : BitVec 5) (s : State) : Res := alu2 s d a b wRemu
/-- CLZ, R97. -/
def execClz (d a : BitVec 5) (s : State) : Res := alu1 s d a wClz
/-- CTZ, R97. -/
def execCtz (d a : BitVec 5) (s : State) : Res := alu1 s d a wCtz
/-- POPC, R97. -/
def execPopc (d a : BitVec 5) (s : State) : Res := alu1 s d a wPopc
/-- SLLI, R97: the shift by fn[5:0]. -/
def execSlli (d a : BitVec 5) (n : BitVec 6) (s : State) : Res := alu1 s d a (fun x => wSll x (n.setWidth 64))
/-- SRLI, R97: the shift by fn[5:0]. -/
def execSrli (d a : BitVec 5) (n : BitVec 6) (s : State) : Res := alu1 s d a (fun x => wSrl x (n.setWidth 64))
/-- SRAI, R97: the shift by fn[5:0]. -/
def execSrai (d a : BitVec 5) (n : BitVec 6) (s : State) : Res := alu1 s d a (fun x => wSra x (n.setWidth 64))
/-- ADDI, R99. -/
def execAddi (d a : BitVec 5) (i : BitVec 14) (s : State) : Res := alu1 s d a (fun x => wAdd x (imm14 i))
/-- ANDI, R99. -/
def execAndi (d a : BitVec 5) (i : BitVec 14) (s : State) : Res := alu1 s d a (fun x => wAnd x (imm14 i))
/-- ORI, R99. -/
def execOri (d a : BitVec 5) (i : BitVec 14) (s : State) : Res := alu1 s d a (fun x => wOr x (imm14 i))
/-- XORI, R99. -/
def execXori (d a : BitVec 5) (i : BitVec 14) (s : State) : Res := alu1 s d a (fun x => wXor x (imm14 i))
/-- SLTI, R99. -/
def execSlti (d a : BitVec 5) (i : BitVec 14) (s : State) : Res := alu1 s d a (fun x => wSlt x (imm14 i))
/-- SLTIU, R99. -/
def execSltiu (d a : BitVec 5) (i : BitVec 14) (s : State) : Res := alu1 s d a (fun x => wSltu x (imm14 i))

/-- SignExt(imm19, 19) × 2^13 (R100). -/
def upper19 (i : BitVec 19) : Word := (i.signExtend 64) <<< 13

/-- LIH, R100. -/
def execLih (d : BitVec 5) (i : BitVec 19) (s : State) : Res := scalarWord s [] (fun f => f.wr d (upper19 i))
/-- AUIPC, R100. -/
def execAuipc (d : BitVec 5) (i : BitVec 19) (s : State) : Res := scalarWord s [] (fun f => f.wr d (f.pc + upper19 i))

/-- A conditional branch (R101). -/
def branch (s : State) (a b : BitVec 5) (o : BitVec 14) (cond : Word → Word → Bool) : Res :=
  run s (regErr s.me (sRefs [a, b])) (fun s => s.beginScalar.modMe (fun f =>
    if cond (f.rd a) (f.rd b) then { f with pc := f.pc + (o.signExtend 64) <<< 2 } else f.next))

/-- BEQ, R101. -/
def execBeq (a b : BitVec 5) (o : BitVec 14) (s : State) : Res := branch s a b o (fun x y => x == y)
/-- BNE, R101. -/
def execBne (a b : BitVec 5) (o : BitVec 14) (s : State) : Res := branch s a b o (fun x y => x != y)
/-- BLT, R101. -/
def execBlt (a b : BitVec 5) (o : BitVec 14) (s : State) : Res := branch s a b o (fun x y => decide (x.toInt < y.toInt))
/-- BGE, R101. -/
def execBge (a b : BitVec 5) (o : BitVec 14) (s : State) : Res := branch s a b o (fun x y => decide (y.toInt ≤ x.toInt))
/-- BLTU, R101. -/
def execBltu (a b : BitVec 5) (o : BitVec 14) (s : State) : Res := branch s a b o (fun x y => decide (x.toNat < y.toNat))
/-- BGEU, R101. -/
def execBgeu (a b : BitVec 5) (o : BitVec 14) (s : State) : Res := branch s a b o (fun x y => decide (y.toNat ≤ x.toNat))

/-- JAL, R102: the link is written and control goes to PC + 4 × imm19. -/
def execJal (d : BitVec 5) (i : BitVec 19) (s : State) : Res :=
  run s [] (fun s => s.beginScalar.modMe (fun f => { (f.wr d (f.pc + 4)) with pc := f.pc + (i.signExtend 64) <<< 2 }))

/-- The target of JALR (R102). -/
def jalrTarget (f : Flow) (a : BitVec 5) (i : BitVec 14) : Word := f.rd a + imm14 i

/-- JALR, R102: a target that is no multiple of 4 raises ALIGN and leaves the link register alone. -/
def execJalr (d a : BitVec 5) (i : BitVec 14) (s : State) : Res :=
  let t := jalrTarget s.me a i
  run s (regErr s.me (sRefs [a]) ++ [(t.toNat % 4 != 0, alignT t)])
    (fun s => s.beginScalar.modMe (fun f => { (f.wr d (f.pc + 4)) with pc := t }))

end Sys2Proof.Machine
end

