-- ==== Sys2Proof/Machine/LoadStore.lean ====
section
/-! DEFINITION. Scalar loads and stores, atomics and FENCE: R104 to R112, R199 to R202. -/

namespace Sys2Proof.Machine

/-- The exceptions of an access in the order of R105: ALIGN, XLATE, HOME_LOST. -/
def accessTraps (s : State) (va : Word) (n : Nat) (acc : Acc) : List (Bool × Trap) :=
  (va.toNat % n != 0, alignT va) ::
    (match s.access (s.ctx s.me) va.toNat acc with
     | .error e => [(true, errTrap e va)]
     | .ok _ => [])

/-- DATAERR of the data read (R105, R444). -/
def dataTraps (s : State) (va : Word) : List (Bool × Trap) :=
  match s.access (s.ctx s.me) va.toNat .r with
  | .ok x =>
    if x.index then []
    else match s.dataBad x.pa with
      | some sub => [(true, { dataErrT sub va with pa := x.pa })]
      | none => []
  | .error _ => []

/-- A scalar load that reads at once: what it waits for has performed, and its bytes are in reach (R198 to R200). -/
def State.beforeLoad (s : State) (va : Word) (n : Nat) : State :=
  let s := s.ready true false
  if va.toNat % n ≠ 0 then s
  else
    match s.access (s.ctx s.me) va.toNat .r with
    | .ok x => s.reach x n false
    | .error _ => s

/-- A scalar load's effect: its value in the register, charged where it is served; one of the save index at the tier of an HBM
address equal to its offset (DESIGN CHOICE, log 130). -/
def loadEff (s : State) (d : BitVec 5) (va : Word) (n : Nat) (sext : Bool) : State :=
  match s.access (s.ctx s.me) va.toNat .r with
  | .error _ => s
  | .ok x =>
    let v := loadValue sext (s.loadBytes s.me x n)
    (s.beginScalar.chargeAt s.me x.pa n).modMe (fun f => (f.wr d v).next)

/-- A word that issues without its value (R105, R161): its accesses stand in the strip buffer, and the flow as it was is
kept so that the words that run ahead can be undone. -/
def State.deferWord (s : State) (before : Flow) (accs : List Access) (vec : Option VecDefer) : State :=
  { s with ckpts := ⟨before.seq, before, vec, [], accs.length, 0, 0⟩ :: s.ckpts }

/-- A scalar load that issues without waiting for its value (R105, R198). -/
def loadAheadEff (s : State) (d : BitVec 5) (va : Word) (n : Nat) (sext : Bool) : State :=
  match s.access (s.ctx s.me) va.toNat .r with
  | .error _ => s
  | .ok x =>
    let a := { s.me.newAccess x.pa va.toNat x with load := true, dst := d.toNat, size := n, sext := sext }
    ((s.beginScalar.chargeAt s.me x.pa n).modMe (fun f => (f.issue [a]).next)).deferWord s.me [a] none

/-- Whether a word of the flow can leave a value of an address for later. -/
def State.defers (s : State) (va : Word) (acc : Acc) : Bool :=
  s.ahead && !s.replayOf s.me && (match s.access (s.ctx s.me) va.toNat acc with | .ok x => !x.index | _ => false)

/-- A scalar load of n bytes (R104). -/
def loadWord (s : State) (d a : BitVec 5) (i : BitVec 14) (n : Nat) (sext : Bool) : Res :=
  let va := s.me.rd a + imm14 i
  if s.defers va .r then
    run s (regErr s.me (sRefs [a]) ++ accessTraps s va n .r) (fun s => loadAheadEff s d va n sext)
  else if s.stuck true false then stall s
  else
    let s := s.beforeLoad va n
    run s (regErr s.me (sRefs [a]) ++ accessTraps s va n .r ++ dataTraps s va) (fun s => loadEff s d va n sext)

/-- A scalar store's effect: D is set (R397) and its word joins the strip buffer (R198). -/
def storeEff (s : State) (r : BitVec 5) (va : Word) (n : Nat) : State :=
  match s.access (s.ctx s.me) va.toNat .w with
  | .error _ => s
  | .ok x =>
    (s.beginScalar.setDirty (s.ctx s.me) x).modMe
      (fun f => (f.issue [f.wordStore x va.toNat n (f.rd r).toNat]).next)

/-- DATAERR of a store to a lost granule (R427). -/
def lostTraps (s : State) (va : Word) (n : Nat) : List (Bool × Trap) :=
  match s.access (s.ctx s.me) va.toNat .w with
  | .ok x => [((s.lostByte ((List.range n).map (fun i => x.pa + i))).isSome, { dataErrT 1 va with pa := x.pa })]
  | .error _ => []

/-- A store, or an AMO, whose walk meets an invalid entry while FENCEs hold it back: these perform first, with the store that may
fill the entry (R404). -/
def State.fenceFirst (s : State) (va : Word) (n : Nat) (rd : Bool) : State :=
  if s.me.fences.isEmpty || va.toNat % n != 0 || s.stuck rd true then s
  else
    match s.translate (s.ctx s.me) va.toNat .w with
    | .error (6, 2) => s.ready rd true
    | _ => s

/-- A store that passes its checks sets D of a cached leaf that has it clear; the checks are made once more on what then stands
(R397). One that fails a check has set nothing (R372). -/
def State.beforeStore (s : State) (cks : State → List (Bool × Trap)) (va : Word) : State :=
  if (firstTrap (cks s)).isSome then s else s.orDirty (s.ctx s.me) va.toNat

/-- The exceptions of a scalar store of n bytes of register r at an address (R105). -/
def storeTraps (r a : BitVec 5) (va : Word) (n : Nat) (s : State) : List (Bool × Trap) :=
  regErr s.me (sRefs [a, r]) ++ accessTraps s va n .w ++ lostTraps s va n

/-- A scalar store of n bytes (R104). -/
def storeWord (s : State) (r a : BitVec 5) (i : BitVec 14) (n : Nat) : Res :=
  let va := s.me.rd a + imm14 i
  let s := (s.fenceFirst va n false).beforeStore (storeTraps r a va n) va
  run s (storeTraps r a va n s) (fun s => storeEff s r va n)

/-- LB, R104. -/
def execLb (d a : BitVec 5) (i : BitVec 14) (s : State) : Res := loadWord s d a i 1 true
/-- LBU, R104. -/
def execLbu (d a : BitVec 5) (i : BitVec 14) (s : State) : Res := loadWord s d a i 1 false
/-- LH, R104. -/
def execLh (d a : BitVec 5) (i : BitVec 14) (s : State) : Res := loadWord s d a i 2 true
/-- LHU, R104. -/
def execLhu (d a : BitVec 5) (i : BitVec 14) (s : State) : Res := loadWord s d a i 2 false
/-- LW, R104. -/
def execLw (d a : BitVec 5) (i : BitVec 14) (s : State) : Res := loadWord s d a i 4 true
/-- LWU, R104. -/
def execLwu (d a : BitVec 5) (i : BitVec 14) (s : State) : Res := loadWord s d a i 4 false
/-- LD, R104. -/
def execLd (d a : BitVec 5) (i : BitVec 14) (s : State) : Res := loadWord s d a i 8 false
/-- SB, R104. -/
def execSb (d a : BitVec 5) (i : BitVec 14) (s : State) : Res := storeWord s d a i 1
/-- SH, R104. -/
def execSh (d a : BitVec 5) (i : BitVec 14) (s : State) : Res := storeWord s d a i 2
/-- SW, R104. -/
def execSw (d a : BitVec 5) (i : BitVec 14) (s : State) : Res := storeWord s d a i 4
/-- SD, R104. -/
def execSd (d a : BitVec 5) (i : BitVec 14) (s : State) : Res := storeWord s d a i 8

/-! ### Atomics -/

/-- A word that ends a quantum in replay mode (R209): before the boundary it only ends the quantum. -/
def gateReplay (s : State) (k : State → Res) : Res :=
  if s.replayOf s.me && !s.me.qGo then .next (s.modMe (fun f => { f with qEnd := true }))
  else k (s.modMe (fun f => { f with qGo := false }))

/-- The scope an AMO orders at: at TCM never wider than core (R108). -/
def amoScope (x : Xl) (sc : Nat) : Nat :=
  match regionOf x.pa with
  | .tcm .. => min sc 1
  | _ => sc

/-- The request of an AMO: its operation on values of n bytes, its orders and scope. -/
def Flow.amoReq (f : Flow) (d b : BitVec 5) (o : BitVec 2) (scope n : Nat) (kind : AmoKind) : AmoReq :=
  ⟨kind, (f.rd b).toNat % 2 ^ (8 * n), (f.rd d).toNat % 2 ^ (8 * n), o.getLsbD 0, o.getLsbD 1, scope⟩

/-- What an AMO does once it may perform: its release (R201, R202), earlier stores to its bytes (R94), its path, the
access, its result, its acquire. D is set before the comparison of an AMOCAS (log 93). -/
def amoEff (s : State) (d a b : BitVec 5) (o : BitVec 2) (sc : BitVec 3) (n : Nat) (kind : AmoKind) : State :=
  match s.access (s.ctx s.me) (s.me.rd a).toNat .w with
  | .error _ => s
  | .ok x =>
    let me := s.me
    let k := me.key
    let q := me.amoReq d b o (amoScope x sc.toNat) n kind
    let upon (st : Access) : Bool := st.overlaps (me.wordStore x 0 n 0)
    let s := (s.beginScalar.setDirty (s.ctx s.me) x).ready true true
    let s := if q.rel then s.performTo k me.seq q.scope else s
    let s := (s.pushStores k me.loc x.pa x.key upon).leavePeers x.pa x.key
    let s := (s.drainPath (s.pathOf me.loc x.pa x.key false)).chargeCross me.tenant k.launch x.pa x.key n true
    let r := s.amoApply (some me.loc.coreIdx) x n (fun old => kind.op (8 * n) old q.opnd q.expect)
    let s := (r.1.chargeAt me x.pa n).modMe (fun f => { ((f.wr d (sext64 (8 * n) r.2)).next) with seq := f.seq + 1 })
    if q.acq then s.acquire k q.scope else s

/-- An AMO that issues without waiting for its value stands in the strip buffer until it APPLYs (R105, R198, R201). -/
def amoAheadEff (s : State) (d a b : BitVec 5) (o : BitVec 2) (sc : BitVec 3) (n : Nat) (kind : AmoKind) : State :=
  let va := s.me.rd a
  match s.access (s.ctx s.me) va.toNat .w with
  | .error _ => s
  | .ok x =>
    let q := s.me.amoReq d b o (amoScope x sc.toNat) n kind
    let c := { s.me.newAccess x.pa va.toNat x with load := true, dst := d.toNat, size := n, sext := true, amo := some q }
    (((s.beginScalar.setDirty (s.ctx s.me) x).chargeAt s.me x.pa n).modMe (fun f => (f.issue [c]).next)).deferWord s.me [c] none

/-- Whether an AMO still waits for what only later words or its engines bring: a store to its bytes that waits for the
strip's release point (R94, R163), or, for a release, any such store and a command that is not ACCEPTed (R201). -/
def amoWaits (s : State) (va : Word) (o : BitVec 2) (n : Nat) : Bool :=
  s.stuck true true || (o.getLsbD 1 && (!s.me.eq.isEmpty || !s.me.held.isEmpty)) ||
    (match s.access (s.ctx s.me) va.toNat .w with
     | .error _ => false
     | .ok x => (s.me.held ++ s.me.stays).any (fun st => st.overlaps (s.me.wordStore x 0 n 0)))

/-- The exceptions of an AMO's access in the order of R110: ALIGN, XLATE with read and write permission, HOME_LOST. -/
def amoTraps (s : State) (va : Word) (n : Nat) : List (Bool × Trap) :=
  (va.toNat % n != 0, alignT va) ::
    (match s.translate (s.ctx s.me) va.toNat .r with
     | .error e => [(true, errTrap e va)]
     | .ok _ =>
       match s.access (s.ctx s.me) va.toNat .w with
       | .error e => [(true, errTrap e va)]
       | .ok _ => [])

/-- The exceptions of an AMO of n bytes that names registers rs (R110); one that leaves its value for later reads no data yet. -/
def amoChecks (rs : List (BitVec 5)) (va : Word) (n : Nat) (s : State) : List (Bool × Trap) :=
  regErr s.me (sRefs rs) ++ amoTraps s va n ++ (if s.defers va .w then [] else dataTraps s va)

/-- An AMO (R106 to R110): D is set only once it passes its checks and need not wait (R397). -/
def amo (s : State) (d a b : BitVec 5) (o : BitVec 2) (sc : BitVec 3) (z : Bool) (kind : AmoKind) : Res :=
  let n := if z then 4 else 8
  let va := s.me.rd a
  let cks := amoChecks (if kind = .cas then [a, b, d] else [a, b]) va n
  let s := s.fenceFirst va n true
  match firstTrap (cks s) with
  | some t => .next (s.trap t)
  | none =>
    if s.defers va .w then
      let s := s.beforeStore cks va
      run s (cks s) (fun s => amoAheadEff s d a b o sc n kind)
    else
      gateReplay s (fun s =>
        if amoWaits s va o n then stall s
        else
          let s := s.beforeStore cks va
          run s (cks s) (fun s => amoEff s d a b o sc n kind))

/-- AMOSWAP, R107. -/
def execAmoswap (d a b : BitVec 5) (o : BitVec 2) (sc : BitVec 3) (z : Bool) (s : State) : Res := amo s d a b o sc z .swap
/-- AMOADD, R107. -/
def execAmoadd (d a b : BitVec 5) (o : BitVec 2) (sc : BitVec 3) (z : Bool) (s : State) : Res := amo s d a b o sc z .add
/-- AMOAND, R107. -/
def execAmoand (d a b : BitVec 5) (o : BitVec 2) (sc : BitVec 3) (z : Bool) (s : State) : Res := amo s d a b o sc z .and
/-- AMOOR, R107. -/
def execAmoor (d a b : BitVec 5) (o : BitVec 2) (sc : BitVec 3) (z : Bool) (s : State) : Res := amo s d a b o sc z .or
/-- AMOMAX, R107. -/
def execAmomax (d a b : BitVec 5) (o : BitVec 2) (sc : BitVec 3) (z : Bool) (s : State) : Res := amo s d a b o sc z .max
/-- AMOMIN, R107. -/
def execAmomin (d a b : BitVec 5) (o : BitVec 2) (sc : BitVec 3) (z : Bool) (s : State) : Res := amo s d a b o sc z .min
/-- AMOCAS, R107. -/
def execAmocas (d a b : BitVec 5) (o : BitVec 2) (sc : BitVec 3) (z : Bool) (s : State) : Res := amo s d a b o sc z .cas

/-! ### FENCE -/

/-- What a FENCE leaves (R111, R112, R200): k holds the kinds, bit 0 earlier loads, 1 earlier stores, 2 later loads,
3 later stores, 4 engine commands. It waits for nothing itself; where nothing is left to perform, its acquire effect
takes place at once. In replay mode nothing leaves the log (R209). -/
def fenceEff (s : State) (k : BitVec 5) (scope : Nat) : State :=
  if s.replayOf s.me then s
  else
    let c : FenceRec := ⟨s.me.seq, k.getLsbD 0, k.getLsbD 1, k.getLsbD 2, k.getLsbD 3, k.getLsbD 4, scope⟩
    (s.modMe (fun f => { f with fences := f.fences ++ [c] })).settleFences s.me.key s.me.seq

/-- Whether VQ holds a word with an access of a kind on the FENCE's earlier side (R112, R184). -/
def Flow.vqHolds (f : Flow) (k : BitVec 5) : Bool :=
  let hit (ld st : Bool) : Bool := (k.getLsbD 0 && ld) || (k.getLsbD 1 && st)
  f.vq.any (fun w => hit w.ld w.st) || (!f.vecIdle && (match f.cv with | some c => hit c.ld c.st | none => false))

/-- FENCE. It drains VQ while that holds a word its earlier side selects, and with the e bit EQ (R112, R184). -/
def execFence (k : BitVec 5) (sc : BitVec 3) (s : State) : Res :=
  if k.getLsbD 4 && !s.me.eq.isEmpty then stallEngine s
  else if s.me.vqHolds k then stall s
  else scalarWordS s [] (fun s => fenceEff s k sc.toNat)

end Sys2Proof.Machine
end

