-- ==== Sys2Proof/Machine/System.lean ====
section
/-! DEFINITION. Control and status registers and the system instructions: R33 to R45, R113 to R117, R368 to R374. -/

namespace Sys2Proof.Machine

/-- Access classes of R34. -/
inductive CsrClass where
  | rw | ro | rs | s
  deriving DecidableEq, Repr

/-- The registers of R33. -/
def csrClass : Nat → Option CsrClass
  | 0x000 => some .rs
  | 0x001 => some .rw
  | 0x002 => some .rw
  | 0x003 => some .rs
  | 0x004 => some .ro
  | 0x010 => some .ro
  | 0x011 => some .ro
  | 0x012 => some .ro
  | 0x013 => some .ro
  | 0x014 => some .ro
  | 0x015 => some .ro
  | 0x016 => some .ro
  | 0x020 => some .ro
  | 0x030 => some .rs
  | 0x031 => some .ro
  | 0x040 => some .ro
  | 0x041 => some .ro
  | 0x050 => some .ro
  | 0x051 => some .ro
  | 0x052 => some .ro
  | 0x053 => some .ro
  | 0x060 => some .s
  | 0x061 => some .s
  | 0x062 => some .s
  | 0x063 => some .s
  | 0x064 => some .s
  | _ => none

/-- ROWS of MGR (R255). -/
def Flow.rows (f : Flow) : Nat := 64 * popN 4 f.qm.toNat

/-- The word of feature register n of every flow (R455): zero until LOCK. -/
def Device.feat (d : Device) (n : Nat) : Word := if d.featLock then d.featAcc.getD n 0 else 0

/-- The value of a register of R33 for the flow whose turn it is. -/
def State.csrRead (s : State) (n : Nat) : Word :=
  let f := s.me
  match n with
  | 0x000 => f.vl.setWidth 64
  | 0x001 => f.vtype
  | 0x002 => f.svp
  | 0x003 => f.vprog
  | 0x004 => f.vgnt.setWidth 64
  | 0x010 => w64 f.loc.fid
  | 0x011 => w64 f.key.lflow
  | 0x012 => w64 f.loc.core
  | 0x013 => w64 f.loc.cluster
  | 0x014 => w64 f.loc.die
  | 0x015 => s.dev.domDev.setWidth 64
  | 0x016 => w64 f.tenant
  | 0x020 => w64 (f.rows + f.qm.toNat <<< 16)
  | 0x030 => f.ttcur
  | 0x031 => f.ttmiss
  | 0x040 => w64 (s.ten f.tenant).enused
  | 0x041 => w64 (s.ten f.tenant).enbudget
  | 0x050 => s.dev.feat 0
  | 0x051 => s.dev.feat 1
  | 0x052 => s.dev.feat 2
  | 0x053 => s.dev.feat 3
  | 0x060 => f.cause
  | 0x061 => f.epc
  | 0x062 => f.eval
  | 0x063 => f.status64
  | 0x064 => (s.ten f.tenant).tvec
  | _ => 0

/-- A value of VTYPE that R38 refuses. -/
def vtypeBad (x : Word) : Bool := wbits x 16 48 != 0 || (fmtOf (wbits x 0 6)).isNone

/-- Takes a new VTYPE and lowers VL to its VLMAX() (R39, R123). -/
def Flow.setVtype (f : Flow) (x : Word) : Flow := Flow.clampVl { f with vtype := x }

/-- Whether a VTYPE would change VLMAX() inside an open loop (R167). -/
def Flow.loopVtype (f : Flow) (x : Word) : Bool :=
  f.loop.isSome && ({ f with vtype := x }).vlmax != f.vlmax

/-- A write of a register of R33; reserved fields are ignored (R34). A write to VL stores at most VLMAX() (R39);
PREQ ignores writes (R369); TVEC is the context's (R370). -/
def State.csrWrite (s : State) (n : Nat) (x : Word) : State :=
  match n with
  | 0x000 => s.modMe (fun f => { f with vl := BitVec.ofNat 16 (min (wbits x 0 16) f.vlmax) })
  | 0x001 => s.modMe (fun f => f.setVtype x)
  | 0x002 => s.modMe (fun f => { f with svp := x &&& 0x7F })
  | 0x003 => s.modMe (fun f => { f with vprog := x &&& 0x8000FFFF })
  | 0x030 => s.modMe (fun f => { f with ttcur := x &&& 0xFFFF })
  | 0x060 => s.modMe (fun f => { f with cause := x &&& 0xFFFF })
  | 0x061 => s.modMe (fun f => { f with epc := x })
  | 0x062 => s.modMe (fun f => { f with eval := x })
  | 0x063 => s.modMe (fun f => { f with status3 := x.setWidth 3 })
  | 0x064 => s.modTen s.me.tenant (fun t => { t with tvec := x &&& 0xFFFFFFFFFFFFFFFC })
  | _ => s

/-- The exceptions of R114, in their order; then LOOP of R167. `w` is the value to be written, none for no write. -/
def csrTraps (s : State) (n : Nat) (w : Option Word) : List (Bool × Trap) :=
  match csrClass n with
  | none => [(true, ill subCsr)]
  | some cl =>
    [(!s.me.sup && (cl == .s || (cl == .rs && w.isSome)), privT),
     (cl == .ro && w.isSome, ill subCsrRo)] ++
      (match w with
       | some x => if n = 1 then [(vtypeBad x, ill subVtype), (s.me.loopVtype x, ill subLoop)] else []
       | none => [])

/-- Whether a read of the register drains EQ, or the matrix words of the flow, and finds it not empty (R184, R255). -/
def csrWaitsEq (s : State) (n : Nat) : Bool :=
  ((n == 0x020 || n == 0x030 || n == 0x031) && !s.me.eq.isEmpty) || (n == 0x020 && !s.me.mxq.isEmpty)

/-- Whether a read of the register drains VQ and finds vector work in it (R35, R184). -/
def csrWaitsVq (s : State) (n : Nat) : Bool := decide (n < 5) && !s.me.vqDrained

/-- A CSR form (R113): `upd` gives the value to be written from the old one, none for no write. -/
def csrWord (s : State) (d : BitVec 5) (n : Nat) (refs : List RegRef) (upd : Word → Option Word) : Res :=
  let old := s.csrRead n
  match firstTrap (regErr s.me refs ++ csrTraps s n (upd old)) with
  | some t => .next (s.trap t)
  | none =>
    if csrWaitsEq s n then stallEngine s
    else if csrWaitsVq s n then stall s
    else
      let s := match upd old with
        | some x => s.beginScalar.csrWrite n x
        | none => s.beginScalar
      .next (s.modMe (fun f => (f.wr d old).next))

/-- CSRRD, R113. -/
def execCsrrd (d : BitVec 5) (c : BitVec 12) (s : State) : Res := csrWord s d c.toNat [] (fun _ => none)
/-- CSRWR, R113. -/
def execCsrwr (d a : BitVec 5) (c : BitVec 12) (s : State) : Res :=
  csrWord s d c.toNat (sRefs [a]) (fun _ => some (s.me.rd a))
/-- CSRSET, R113: with sa = s0 it writes nothing. -/
def execCsrset (d a : BitVec 5) (c : BitVec 12) (s : State) : Res :=
  csrWord s d c.toNat (sRefs [a]) (fun old => if a = 0 then none else some (old ||| s.me.rd a))
/-- CSRCLR, R113: with sa = s0 it writes nothing. -/
def execCsrclr (d a : BitVec 5) (c : BitVec 12) (s : State) : Res :=
  csrWord s d c.toNat (sRefs [a]) (fun old => if a = 0 then none else some (old &&& ~~~(s.me.rd a)))

/-- SYS, R115: SYSCALL with the code in EVAL. -/
def execSys (c : BitVec 10) (s : State) : Res := .next (s.trap (sysT (c.setWidth 64)))
/-- BRK, R115. -/
def execBrk (c : BitVec 10) (s : State) : Res := .next (s.trap (brkT (c.setWidth 64)))

/-- ERET, R116: PRIV in user mode; else it continues at EPC (R374). -/
def execEret (s : State) : Res := run s [(!s.me.sup, privT)] (fun s => s.beginScalar.eret)

/-- The conditions of R117: a record that EVRD would return, or a pre-emption request. -/
def Flow.woken (f : Flow) : Bool := !f.events.isEmpty || f.preq

/-- WFE, R117: it completes once a condition holds, and waits until then (R178); on return to Running it executes
again. -/
def execWfe (s : State) : Res :=
  gateReplay s (fun s =>
    if s.me.woken then scalarWord s [] id
    else waitFor s .wfe)

end Sys2Proof.Machine
end

