-- ==== Sys2Proof/Machine/VecArith.lean ====
section
/-! DEFINITION. Element-wise vector arithmetic: R119 to R129, with the cross-lane source forms of R130. -/

namespace Sys2Proof.Machine

/-- The exact value of a code of the VTYPE format (R58; plain formats need no scale). -/
def Flow.val (f : Flow) (x : Nat) : FVal := (efmt f.fmtc).val x

/-- Convert(·, FMT, RM, SAT) of R119. -/
def Flow.conv (f : Flow) (x : FVal) : Nat := convert f.fmtc f.rm f.sat x

/-- Whether the VTYPE format is a signed integer format. -/
def Flow.signedInt (f : Flow) : Bool :=
  match efmt f.fmtc with
  | .int _ sg => sg
  | _ => false

def Flow.isInt (f : Flow) : Bool := match efmt f.fmtc with | .int .. => true | _ => false

/-- The registers of the VTYPE group at v. -/
def Flow.refs (f : Flow) (v : BitVec 6) : List RegRef := groupRefs v.toNat f.grp

/-- The elements of the VTYPE group at v below VL. -/
def Flow.srcs (f : Flow) (v : BitVec 6) : List Nat := f.elems v.toNat f.grp f.ew f.vlN

/-- WriteDest of every position of the VTYPE group at v, then R49. -/
def Flow.dest (f : Flow) (v : BitVec 6) (m : BitVec 4) (xs : List Nat) : Flow := f.writeElems v.toNat f.grp f.ew m xs

/-- A two-source element-wise word (R119): `op` gives the code written at each position. -/
def vec2 (s : State) (c : Bool) (cls : Nat → Bool) (d a b : BitVec 6) (m : BitVec 4) (op : Flow → Nat → Nat → Nat) : Res :=
  vecWord s c [.a] false (cls s.me.fmtc) [d, a, b] [] (s.me.refs a ++ s.me.refs b ++ mRef m) [] s.me.ew
    (fun f => f.dest d m (List.zipWith (op f) (f.srcs a) (f.srcs b)))

/-- The fused family's three-source form: it reads d as well (R128). -/
def vec3 (s : State) (c : Bool) (cls : Nat → Bool) (d a b : BitVec 6) (m : BitVec 4)
    (op : Flow → Nat → Nat → Nat → Nat) : Res :=
  vecWord s c [.a] false (cls s.me.fmtc) [d, a, b] [] (s.me.refs a ++ s.me.refs b ++ s.me.refs d ++ mRef m) [] s.me.ew
    (fun f => f.dest d m (List.zipWith (fun x p => op f x p.1 p.2) (f.srcs a) (List.zip (f.srcs b) (f.srcs d))))

/-- A one-source element-wise word. -/
def vec1 (s : State) (c : Bool) (cls : Nat → Bool) (d a : BitVec 6) (m : BitVec 4) (op : Flow → Nat → Nat) : Res :=
  vecWord s c [.a] false (cls s.me.fmtc) [d, a] [] (s.me.refs a ++ mRef m) [] s.me.ew
    (fun f => f.dest d m ((f.srcs a).map (op f)))

/-- A VX word: unmasked, with a modifier on vs2 and the identity of its operation outside [0, VL) under `.fi`
(R78, R130). -/
def vecX (s : State) (c : Bool) (d a b x : BitVec 6) (ident : Flow → Nat) (op : Flow → Nat → Nat → Nat) : Res :=
  vecWord s c [.a] false (classN s.me.fmtc) [d, a, b] [] (s.me.refs a ++ s.me.refs b) [] s.me.ew
    (fun f => f.dest d 15 (List.zipWith (op f) (f.srcs a)
      (f.srcElems b.toNat (xmodOf (x.toNat / 8 % 4) (x.toNat % 8)) (if x.getLsbD 5 then ident f else 0))))

/-! ### Results (R125 to R129) -/

/-- The exact result of two values, converted once. -/
def arith2 (res : RMode → FVal → FVal → FVal) (f : Flow) (x y : Nat) : Nat := f.conv (res f.rm (f.val x) (f.val y))

def rAdd (rm : RMode) (x y : FVal) : FVal := x.add rm y
def rSub (rm : RMode) (x y : FVal) : FVal := x.add rm y.neg
def rMul (_ : RMode) (x y : FVal) : FVal := x.mul y
def rAbsd (rm : RMode) (x y : FVal) : FVal := (x.add rm y.neg).abs
def rMin (_ : RMode) (x y : FVal) : FVal := x.pick false y
def rMax (_ : RMode) (x y : FVal) : FVal := x.pick true y

/-- VDIV (R127). -/
def divCode (f : Flow) (x y : Nat) : Nat :=
  match efmt f.fmtc with
  | .int w sg =>
    let a := if sg then sgn w x else ((x % 2 ^ w : Nat) : Int)
    let b := if sg then sgn w y else ((y % 2 ^ w : Nat) : Int)
    if b = 0 then 2 ^ w - 1 else convertInt w sg f.sat (a.tdiv b)
  | _ => f.conv ((f.val x).div (f.val y))

/-- VMULH: bits 2w − 1 : w of the exact product (R125). -/
def mulhCode (f : Flow) (x y : Nat) : Nat :=
  let w := f.ew
  if f.signedInt then codeOf w ((sgn w x * sgn w y) / 2 ^ w) else (x % 2 ^ w * (y % 2 ^ w)) / 2 ^ w

def andCode (_ : Flow) (x y : Nat) : Nat := x &&& y
def orCode (_ : Flow) (x y : Nat) : Nat := x ||| y
def xorCode (_ : Flow) (x y : Nat) : Nat := x ^^^ y
/-- Shifts by an amount that may be w or more (R125). -/
def sllCode (f : Flow) (x n : Nat) : Nat := if f.ew ≤ n then 0 else (x <<< n) % 2 ^ f.ew
def srlCode (f : Flow) (x n : Nat) : Nat := if f.ew ≤ n then 0 else x >>> n
def sraCode (f : Flow) (x n : Nat) : Nat := codeOf f.ew (sgn f.ew x / ((2 ^ min n f.ew : Nat) : Int))

/-- SignExt(imm6, 6). -/
def imm6 (i : BitVec 6) : Int := i.toInt

/-- VADDI. -/
def addiCode (i : BitVec 6) (f : Flow) (x : Nat) : Nat := f.conv ((f.val x).add f.rm (.ofInt (imm6 i)))

/-- The exact results of the fused family (R128): a × b ± d and their negatives, rounded once. -/
def rFma (rm : RMode) (a b d : FVal) : FVal := (a.mul b).add rm d
def rFms (rm : RMode) (a b d : FVal) : FVal := (a.mul b).add rm d.neg
def rFnma (rm : RMode) (a b d : FVal) : FVal := (a.mul b).neg.add rm d.neg
def rFnms (rm : RMode) (a b d : FVal) : FVal := (a.mul b).neg.add rm d
def arith3 (res : RMode → FVal → FVal → FVal → FVal) (f : Flow) (x y d : Nat) : Nat :=
  f.conv (res f.rm (f.val x) (f.val y) (f.val d))

def arith1 (res : FVal → FVal) (f : Flow) (x : Nat) : Nat := f.conv (res (f.val x))
def notCode (f : Flow) (x : Nat) : Nat := 2 ^ f.ew - 1 - x % 2 ^ f.ew
def clzCode (f : Flow) (x : Nat) : Nat := clzN f.ew (x % 2 ^ f.ew)
def popcCode (f : Flow) (x : Nat) : Nat := popN f.ew x

/-- Identities under `.fi` (R130). -/
def identZero (_ : Flow) : Nat := 0
def identOne (f : Flow) : Nat := f.conv (.ofInt 1)
def identHigh (f : Flow) : Nat := highestCode f.fmtc
def identLow (f : Flow) : Nat := lowestCode f.fmtc

/-! ### The words -/

/-- VADD, R125. -/
def execVadd (c : Bool) (d a b : BitVec 6) (m : BitVec 4) (s : State) : Res := vec2 s c classN d a b m (arith2 rAdd)
/-- VSUB, R125. -/
def execVsub (c : Bool) (d a b : BitVec 6) (m : BitVec 4) (s : State) : Res := vec2 s c classN d a b m (arith2 rSub)
/-- VMUL, R125. -/
def execVmul (c : Bool) (d a b : BitVec 6) (m : BitVec 4) (s : State) : Res := vec2 s c classN d a b m (arith2 rMul)
/-- VDIV, R127. -/
def execVdiv (c : Bool) (d a b : BitVec 6) (m : BitVec 4) (s : State) : Res := vec2 s c classN d a b m divCode
/-- VMIN, R126. -/
def execVmin (c : Bool) (d a b : BitVec 6) (m : BitVec 4) (s : State) : Res := vec2 s c classN d a b m (arith2 rMin)
/-- VMAX, R126. -/
def execVmax (c : Bool) (d a b : BitVec 6) (m : BitVec 4) (s : State) : Res := vec2 s c classN d a b m (arith2 rMax)
/-- VMULH, R125. -/
def execVmulh (c : Bool) (d a b : BitVec 6) (m : BitVec 4) (s : State) : Res := vec2 s c classI d a b m mulhCode
/-- VABSD, R125. -/
def execVabsd (c : Bool) (d a b : BitVec 6) (m : BitVec 4) (s : State) : Res := vec2 s c classN d a b m (arith2 rAbsd)
/-- VAND, R125. -/
def execVand (c : Bool) (d a b : BitVec 6) (m : BitVec 4) (s : State) : Res := vec2 s c classI d a b m andCode
/-- VOR, R125. -/
def execVor (c : Bool) (d a b : BitVec 6) (m : BitVec 4) (s : State) : Res := vec2 s c classI d a b m orCode
/-- VXOR, R125. -/
def execVxor (c : Bool) (d a b : BitVec 6) (m : BitVec 4) (s : State) : Res := vec2 s c classI d a b m xorCode
/-- VSLL, R125. -/
def execVsll (c : Bool) (d a b : BitVec 6) (m : BitVec 4) (s : State) : Res := vec2 s c classI d a b m sllCode
/-- VSRL, R125. -/
def execVsrl (c : Bool) (d a b : BitVec 6) (m : BitVec 4) (s : State) : Res := vec2 s c classI d a b m srlCode
/-- VSRA, R125. -/
def execVsra (c : Bool) (d a b : BitVec 6) (m : BitVec 4) (s : State) : Res := vec2 s c classI d a b m sraCode
/-- VADDI, R125. -/
def execVaddi (c : Bool) (d a i : BitVec 6) (m : BitVec 4) (s : State) : Res := vec1 s c classN d a m (addiCode i)
/-- VSLLI, R125. -/
def execVslli (c : Bool) (d a i : BitVec 6) (m : BitVec 4) (s : State) : Res := vec1 s c classI d a m (fun f x => sllCode f x i.toNat)
/-- VSRLI, R125. -/
def execVsrli (c : Bool) (d a i : BitVec 6) (m : BitVec 4) (s : State) : Res := vec1 s c classI d a m (fun f x => srlCode f x i.toNat)
/-- VSRAI, R125. -/
def execVsrai (c : Bool) (d a i : BitVec 6) (m : BitVec 4) (s : State) : Res := vec1 s c classI d a m (fun f x => sraCode f x i.toNat)
/-- VADD with a cross-lane modifier, R130. -/
def execVaddVx (c : Bool) (d a b x : BitVec 6) (s : State) : Res := vecX s c d a b x identZero (arith2 rAdd)
/-- VSUB with a cross-lane modifier, R130. -/
def execVsubVx (c : Bool) (d a b x : BitVec 6) (s : State) : Res := vecX s c d a b x identZero (arith2 rSub)
/-- VMUL with a cross-lane modifier, R130. -/
def execVmulVx (c : Bool) (d a b x : BitVec 6) (s : State) : Res := vecX s c d a b x identOne (arith2 rMul)
/-- VMIN with a cross-lane modifier, R130. -/
def execVminVx (c : Bool) (d a b x : BitVec 6) (s : State) : Res := vecX s c d a b x identHigh (arith2 rMin)
/-- VMAX with a cross-lane modifier, R130. -/
def execVmaxVx (c : Bool) (d a b x : BitVec 6) (s : State) : Res := vecX s c d a b x identLow (arith2 rMax)
/-- VFMA, R128. -/
def execVfma (c : Bool) (d a b : BitVec 6) (m : BitVec 4) (s : State) : Res := vec3 s c classN d a b m (arith3 rFma)
/-- VFMS, R128. -/
def execVfms (c : Bool) (d a b : BitVec 6) (m : BitVec 4) (s : State) : Res := vec3 s c classN d a b m (arith3 rFms)
/-- VFNMA, R128. -/
def execVfnma (c : Bool) (d a b : BitVec 6) (m : BitVec 4) (s : State) : Res := vec3 s c classN d a b m (arith3 rFnma)
/-- VFNMS, R128. -/
def execVfnms (c : Bool) (d a b : BitVec 6) (m : BitVec 4) (s : State) : Res := vec3 s c classN d a b m (arith3 rFnms)
/-- VREC, R129. -/
def execVrec (c : Bool) (d a : BitVec 6) (m : BitVec 4) (s : State) : Res := vec1 s c classF d a m (arith1 FVal.recip8)
/-- VRSQ, R129. -/
def execVrsq (c : Bool) (d a : BitVec 6) (m : BitVec 4) (s : State) : Res := vec1 s c classF d a m (arith1 FVal.rsqrt8)
/-- VFEXP2, R129. -/
def execVfexp2 (c : Bool) (d a : BitVec 6) (m : BitVec 4) (s : State) : Res := vec1 s c classF d a m (arith1 FVal.exp2)
/-- VABS, R129. -/
def execVabs (c : Bool) (d a : BitVec 6) (m : BitVec 4) (s : State) : Res := vec1 s c classN d a m (arith1 FVal.abs)
/-- VNEG, R129. -/
def execVneg (c : Bool) (d a : BitVec 6) (m : BitVec 4) (s : State) : Res := vec1 s c classN d a m (arith1 FVal.neg)
/-- VNOT, R129. -/
def execVnot (c : Bool) (d a : BitVec 6) (m : BitVec 4) (s : State) : Res := vec1 s c classI d a m notCode
/-- VCLZ, R129. -/
def execVclz (c : Bool) (d a : BitVec 6) (m : BitVec 4) (s : State) : Res := vec1 s c classI d a m clzCode
/-- VPOPC, R129. -/
def execVpopc (c : Bool) (d a : BitVec 6) (m : BitVec 4) (s : State) : Res := vec1 s c classI d a m popcCode

end Sys2Proof.Machine
end

