-- ==== Sys2Proof/Machine/VecMisc.lean ====
section
/-! DEFINITION. Vector configuration, conversion, quantisation, compare, mask logic, permutation, reductions, scans,
folds and value-index pairs: R122 to R124, R130 to R149. -/

namespace Sys2Proof.Machine

/-! ### The grant (R185, R186) -/

/-- The lane groups of a partition byte array on a core that are not retired (R185, R450). -/
def State.partitionOf (s : State) (tenant : Nat) (loc : Loc) : List Nat :=
  let i := 64 * loc.die + 4 * loc.cluster + loc.core
  let p := (s.ten tenant).part.getD i 0
  let r := s.dev.retlg.getD i 0
  (List.range 8).filter (fun j => p.getLsbD j && !r.getLsbD j)

/-- The cap of R186: the partition, narrowed in overrun (R366), never above the launch's VLHI (R356). -/
def State.grantCap (s : State) (f : Flow) : Nat :=
  let n := (s.partitionOf f.tenant f.loc).length
  let n := if (s.ten f.tenant).overrun || (s.ten f.tenant).capped then min n 1 else n
  match s.launch? f.key.launch with
  | some l => min n l.vlhi
  | none => n

/-- Other flows of the core that hold lane group j. -/
def State.holders (s : State) (f : Flow) (j : Nat) : Nat :=
  ((s.flows.filter (fun g => g.key != f.key && g.loc.coreIdx == f.loc.coreIdx)).filter (fun g => g.vgnt.getLsbD j)).length

/-- VGNT of a list of lane groups. -/
def vgntOf (js : List Nat) : BitVec 8 := BitVec.ofNat 8 (js.foldl (fun a j => a ||| 2 ^ j) 0)

/-- The grant of n lane groups (R186). -/
def State.grantN (s : State) (f : Flow) (n : Nat) : BitVec 8 :=
  let p := s.partitionOf f.tenant f.loc
  if f.granted = n ∧ f.lgs.all (fun j => p.contains j) then f.vgnt
  else vgntOf ((sortBy (fun j => s.holders f j * 8 + j) p).take n)

/-- The grant for a request of avl elements; none while the cap is 0 (R186). -/
def State.grantFor (s : State) (f : Flow) (avl : Nat) : Option (BitVec 8) :=
  let cap := s.grantCap f
  if cap = 0 then none else some (s.grantN f (min (ceilDiv (avl * f.ew) (2048 * f.grp)) cap))

/-- The ENERGY exception of R366 at a word that starts a strip: at most once per window. -/
def State.energyDue (s : State) : Bool := (s.ten s.me.tenant).entrap && (s.ten s.me.tenant).overrun && !s.me.enTrapped

def energyT (s : State) : Trap := ⟨0x0E, 1, w64 (s.ten s.me.tenant).enused, none, 0⟩

/-- Whether a pre-emption request is served at this word (R53, R376): the flow stops there until it is saved. -/
def Flow.preemptible (f : Flow) : Bool := f.preq && !f.skipPoint && !f.holdsTag

/-- Stops at a pre-emption point. -/
def State.park (s : State) (p : Point) : State := s.modMe (fun f => { f with point := some p })

/-- The trap of an exception list, marking an ENERGY trap as taken in this window. -/
def State.trapE (s : State) (t : Trap) : State :=
  if t.cause = 0x0E then (s.modMe (fun f => { f with enTrapped := true })).trap t else s.trap t

/-- SETVL's effect once it has its grant (R122): the registers re-formed, VL, VPROG.V cleared, S(sd); it closes an
ordering interval. -/
def setvlEff (c : Bool) (d : BitVec 5) (avl : Word) (g : BitVec 8) (f : Flow) : Flow :=
  let f := f.regrant g
  let n := min avl.toNat f.vlmax
  let f := { f with vl := BitVec.ofNat 16 n, avl := avl, skipPoint := false, ival := f.ival + 1 }
  (f.wr d (w64 n)).issueVec c [] true 0 f.grp

/-- SETVL, R122. Its exceptions: LOOP (R167), ENERGY whatever VL is (R366, log 107). It is a pre-emption point
before it executes (R376), waits for a grant while the cap is 0 (R186), and takes its place in VQ (R183). -/
def execSetvl (c : Bool) (d a : BitVec 5) (s : State) : Res :=
  match firstTrap ([(s.me.convoyBad c [], ill subConvoy)] ++ regErr s.me (s.me.vRefs (sRefs [a])) ++
      [(s.me.loop.isSome, ill subLoop), (s.energyDue, energyT s)]) with
  | some t => .next (s.trapE t)
  | none =>
    if s.me.preemptible then .next (s.park .setvl)
    else
      let avl := s.me.rd a
      match (if avl = 0 then some s.me.vgnt else s.grantFor s.me avl.toNat) with
      | none => .next (s.modMe (fun f => { f with status := .waiting (.grant false) }))
      | some g => if 32 ≤ s.me.vq.length then .next s else .next (s.modMe (setvlEff c d avl g))

/-- A configuration word of the P pipe: no element passes through it. -/
def cfgWord (s : State) (c : Bool) (refs : List RegRef) (own : List (Bool × Trap)) (eff : Flow → Flow) : Res :=
  vecWord s c [.p] false true [] [] refs own 0 eff

/-- SETVT to a value (R38, R123, R167). -/
def setvtTo (s : State) (c : Bool) (refs : List RegRef) (x : Word) : Res :=
  cfgWord s c refs [(vtypeBad x, ill subVtype), (s.me.loopVtype x, ill subLoop)] (fun f => f.setVtype x)

/-- SETVT with an immediate, R123. -/
def execSetvt (c : Bool) (t : BitVec 16) (s : State) : Res := setvtTo s c [] (t.setWidth 64)
/-- SETVT from a register, R123. -/
def execSetvtReg (c : Bool) (a : BitVec 5) (s : State) : Res := setvtTo s c (sRefs [a]) (s.me.rd a)
/-- SETSV, R124. -/
def execSetsv (c : Bool) (v : BitVec 6) (s : State) : Res :=
  cfgWord s c [] [] (fun f => { f with svp := w64 (64 + v.toNat) })
/-- SETSV off, R124. -/
def execSetsvOff (c : Bool) (s : State) : Res := cfgWord s c [] [] (fun f => { f with svp := 0 })

/-! ### Conversion and quantisation (R131 to R133) -/

/-- The late checks of a source group (R84, R131): GROUP above 8 registers or on a misaligned first register. -/
def gsTraps (gs : Nat) (a : BitVec 6) : List (Bool × Trap) :=
  [(decide (8 < gs) || a.toNat % gs != 0, ill subGroup)]

/-- VCVT, VWIDEN and VNARROW: `ok` is the width rule of the form on ws and w. -/
def cvtWord (s : State) (c : Bool) (d a t : BitVec 6) (m : BitVec 4) (ok : Nat → Nat → Bool) : Res :=
  let ws := fwidth t.toNat
  let gs := gsOf s.me.grp ws s.me.ew
  vecWord s c [.a] false (classN s.me.fmtc) [d] ((!ok ws s.me.ew, ill subField) :: gsTraps gs a)
    (groupRefs a.toNat gs ++ mRef m) [] (max ws s.me.ew)
    (fun f => f.dest d m ((f.elems a.toNat gs ws f.vlN).map (fun x => f.conv ((efmt t.toNat).val x))))

/-- VCVT, R131. -/
def execVcvt (c : Bool) (d a t : BitVec 6) (m : BitVec 4) (s : State) : Res := cvtWord s c d a t m (fun ws w => ws == w)
/-- VWIDEN, R131. -/
def execVwiden (c : Bool) (d a t : BitVec 6) (m : BitVec 4) (s : State) : Res := cvtWord s c d a t m (fun ws w => decide (ws < w))
/-- VNARROW, R131. -/
def execVnarrow (c : Bool) (d a t : BitVec 6) (m : BitVec 4) (s : State) : Res := cvtWord s c d a t m (fun ws w => decide (w < ws))

/-- MaxElem of R132. -/
def maxElem (c : Nat) : FVal :=
  match efmt c with
  | .flt f => f.val (f.maxc <<< f.low)
  | .int w sg => .ofInt (iMax w sg)
  | .pair => .ofInt 128

/-- The largest magnitude of a block, NaN skipped (R132); of one that holds NaN alone it is 0 (DESIGN CHOICE, log 127). -/
def blockMax (xs : List FVal) : FVal :=
  xs.foldl (fun a x => if x.isNan then a else if a.lt x.abs then x.abs else a) .zero

/-- x × 2^k. -/
def FVal.scale2 (x : FVal) (k : Int) : FVal :=
  match x with
  | .fin n m e st => .fin n m (e + k) st
  | y => y

/-- ceil(log2(a / b)) for finite a, b above 0. -/
def ceilLog2Ratio (a b : FVal) : Int :=
  let k := a.flog2 - b.flog2
  if !(b.scale2 (k - 1)).lt a then k - 1 else if !(b.scale2 k).lt a then k else k + 1

/-- The scale byte of a block (R132). -/
def scaleOf (c : Nat) (a : FVal) : Nat :=
  if isE43 c then
    if a.isZero then 0x38 else convertFlt e4m3F .rup true (a.div (maxElem c))
  else
    if a.isZero then 127
    else match a with
      | .inf _ => 254
      | _ => (min (max (127 + ceilLog2Ratio a (maxElem c)) 0) 254).toNat

/-- The codes of one block: its scaled values through PairEncode or Convert (R132). -/
def quantBlock (c : Nat) (rm : RMode) (sat : Bool) (xs : List FVal) : Nat × List Nat :=
  let sc := scaleOf c (blockMax xs)
  let ys := if isScaled c then xs.map (fun x => x.div (scaleVal (isE43 c) sc)) else xs
  (sc, match efmt c with
    | .pair => pairEncodeList rm ys
    | ef => ys.map (convertE ef rm sat))

/-- VQUANT, R132: it takes no mask, and writes the scales to the register SVP names. -/
def execVquant (c : Bool) (d a t : BitVec 6) (s : State) : Res :=
  let ws := fwidth t.toNat
  let gs := gsOf s.me.grp ws s.me.ew
  let sreg := wbits s.me.svp 0 6
  vecWord s c [.a] false (classS s.me.fmtc) [d] (gsTraps gs a) (groupRefs a.toNat gs)
    [(s.me.svpBad s.me.fmtc || (isScaled s.me.fmtc && decide (d.toNat ≤ sreg ∧ sreg < d.toNat + s.me.grp)), ill subSvp)]
    (max ws s.me.ew)
    (fun f =>
      let xs := f.vals a.toNat gs t.toNat f.vlN
      let bs := (chunksOf 64 (ceilDiv f.vlN 64) xs).map (quantBlock f.fmtc f.rm f.sat)
      let f' := f.dest d 15 (bs.map (·.2)).flatten
      if isScaled f.fmtc && f.vlN != 0 then
        let f' := f'.setGstr sreg 1 (packCodes 8 (bs.map (·.1)))
        if f.par then f' else f'.clearGroup sreg 1
      else f')

/-- VDEQ, R133. -/
def execVdeq (c : Bool) (d a t : BitVec 6) (m : BitVec 4) (s : State) : Res :=
  let ws := fwidth t.toNat
  let gs := gsOf s.me.grp ws s.me.ew
  vecWord s c [.a] false (classN s.me.fmtc) [d] (gsTraps gs a)
    (groupRefs a.toNat gs ++ mRef m ++ (if isScaled t.toNat then [.v (wbits s.me.svp 0 6)] else []))
    [(s.me.svpBad t.toNat, ill subSvp)] (max ws s.me.ew)
    (fun f => f.dest d m ((f.vals a.toNat gs t.toNat f.vlN).map f.conv))

/-! ### Compare and masks (R134 to R138) -/

/-- Conditions of R134 on exact values. -/
def condEq (x y : FVal) : Bool := !x.isNan && !y.isNan && x.eqv y
def condNe (x y : FVal) : Bool := !condEq x y
def condLt (x y : FVal) : Bool := !x.isNan && !y.isNan && x.lt y
def condLe (x y : FVal) : Bool := condLt x y || condEq x y
def condGt (x y : FVal) : Bool := condLt y x

/-- VCMP (R134). -/
def cmpWord (s : State) (c : Bool) (d a b : BitVec 6) (m : BitVec 4) (cond : FVal → FVal → Bool) : Res :=
  maskWord s c [.a] (classN s.me.fmtc) [a, b] (s.me.refs a ++ s.me.refs b ++ mRef m) s.me.ew d
    (fun f => f.writeMask d m (List.zipWith (fun x y => cond (f.val x) (f.val y)) (f.srcs a) (f.srcs b)))

/-- VCMPI (R134): k is compared as the integer it is. -/
def cmpiWord (s : State) (c : Bool) (d a i : BitVec 6) (m : BitVec 4) (cond : FVal → FVal → Bool) : Res :=
  maskWord s c [.a] (classN s.me.fmtc) [a] (s.me.refs a ++ mRef m) s.me.ew d
    (fun f => f.writeMask d m ((f.srcs a).map (fun x => cond (f.val x) (.ofInt (imm6 i)))))

/-- VCMP.eq, R134. -/
def execVcmpEq (c : Bool) (d a b : BitVec 6) (m : BitVec 4) (s : State) : Res := cmpWord s c d a b m condEq
/-- VCMP.ne, R134. -/
def execVcmpNe (c : Bool) (d a b : BitVec 6) (m : BitVec 4) (s : State) : Res := cmpWord s c d a b m condNe
/-- VCMP.lt, R134. -/
def execVcmpLt (c : Bool) (d a b : BitVec 6) (m : BitVec 4) (s : State) : Res := cmpWord s c d a b m condLt
/-- VCMP.le, R134. -/
def execVcmpLe (c : Bool) (d a b : BitVec 6) (m : BitVec 4) (s : State) : Res := cmpWord s c d a b m condLe
/-- VCMPI.eq, R134. -/
def execVcmpiEq (c : Bool) (d a i : BitVec 6) (m : BitVec 4) (s : State) : Res := cmpiWord s c d a i m condEq
/-- VCMPI.ne, R134. -/
def execVcmpiNe (c : Bool) (d a i : BitVec 6) (m : BitVec 4) (s : State) : Res := cmpiWord s c d a i m condNe
/-- VCMPI.lt, R134. -/
def execVcmpiLt (c : Bool) (d a i : BitVec 6) (m : BitVec 4) (s : State) : Res := cmpiWord s c d a i m condLt
/-- VCMPI.gt, R134. -/
def execVcmpiGt (c : Bool) (d a i : BitVec 6) (m : BitVec 4) (s : State) : Res := cmpiWord s c d a i m condGt

/-- Bits 0 to n − 1 of a mask. -/
def maskBits (f : Flow) (m : BitVec 6) : List Bool :=
  let x := (f.m.getD m.toNat 0).toNat
  (List.range f.vlN).map (bit x)

/-- Mask logic, R135. -/
def mlogWord (s : State) (c : Bool) (d a b : BitVec 6) (op : Bool → Bool → Bool) : Res :=
  maskWord s c [.p] true [] [.m a.toNat, .m b.toNat] 1 d
    (fun f => f.writeMask d 15 (List.zipWith op (maskBits f a) (maskBits f b)))

/-- MAND, R135. -/
def execMand (c : Bool) (d a b : BitVec 6) (s : State) : Res := mlogWord s c d a b and
/-- MOR, R135. -/
def execMor (c : Bool) (d a b : BitVec 6) (s : State) : Res := mlogWord s c d a b or
/-- MXOR, R135. -/
def execMxor (c : Bool) (d a b : BitVec 6) (s : State) : Res := mlogWord s c d a b xor
/-- MANDN, R135. -/
def execMandn (c : Bool) (d a b : BitVec 6) (s : State) : Res := mlogWord s c d a b (fun x y => x && !y)

/-- The positions below VL at which a mask and the active set are both 1 (R136). -/
def Flow.liveMask (f : Flow) (a : BitVec 6) : Nat := ((f.m.getD a.toNat 0 &&& f.act).toNat) % 2 ^ f.vlN

/-- MPOP, R136: the scalar result is delivered later (R148). -/
def execMpop (c : Bool) (d a : BitVec 6) (s : State) : Res :=
  vecWord s c [.p] true true [] [] [.m a.toNat] [] 1 (fun f => f.wrBusy (s5 d) (w64 (popN f.vlN (f.liveMask a))))

/-- MFIRST, R136. -/
def execMfirst (c : Bool) (d a : BitVec 6) (s : State) : Res :=
  vecWord s c [.p] false true [] [] [.m a.toNat] [] 1
    (fun f =>
      let n := firstOne f.vlN 0 (f.liveMask a)
      f.wrBusy (s5 d) (if n = f.vlN then BitVec.allOnes 64 else w64 n))

/-- VMERGE, R137: the mask selects, and the policy is ignored. -/
def execVmerge (c : Bool) (d a b : BitVec 6) (m : BitVec 4) (s : State) : Res :=
  vecWord s c [.a] false (classD s.me.fmtc) [d, a, b] [] (s.me.refs a ++ s.me.refs b ++ mRef m)
    [(s.me.svpBad s.me.fmtc, ill subSvp)] s.me.ew
    (fun f =>
      let k := f.maskN m
      f.dest d 15 ((List.zip (f.srcs a) (f.srcs b)).zipIdx.map (fun p => if bit k p.2 then p.1.1 else p.1.2)))

/-- An integer in the VTYPE format as VID and VIOTA write it: Convert(·, FMT, rne, SAT) (R138). -/
def Flow.idCode (f : Flow) (i : Nat) : Nat := convert f.fmtc .rne f.sat (.ofInt i)

/-- VID, R138. -/
def execVid (c : Bool) (d : BitVec 6) (m : BitVec 4) (s : State) : Res :=
  vecWord s c [.a] false (classI s.me.fmtc) [d] [] (mRef m) [] s.me.ew
    (fun f => f.dest d m ((List.range f.vlN).map f.idCode))

/-! ### Permutation and exchange (R130, R139 to R144) -/

/-- Positions a mask field and the active set select, as bits. -/
def Flow.selN (f : Flow) (m : BitVec 4) : Nat := f.maskN m &&& f.act.toNat

/-- VCOMPRESS, R139. -/
def execVcompress (c : Bool) (d a r : BitVec 6) (m : BitVec 4) (s : State) : Res :=
  vecWord s c [.p] true (classD s.me.fmtc) [d, a] [] (s.me.refs a ++ mRef m)
    [(s.me.svpBad s.me.fmtc, ill subSvp)] s.me.ew
    (fun f =>
      let k := f.selN m
      let xs := ((f.srcs a).zipIdx.filter (fun p => bit k p.2)).map (·.1)
      (f.dest d 15 (xs ++ List.replicate (f.vlN - xs.length) 0)).wrBusy (s5 r) (w64 xs.length))

/-- The elements of VEXPAND: the next source element at each selected position. -/
def expandElems (k : Nat) : Nat → List Nat → List Nat
  | 0, _ => []
  | n + 1, xs => if bit k 0 then xs.headD 0 :: expandElems (k / 2) n xs.tail else 0 :: expandElems (k / 2) n xs

/-- VEXPAND, R139. -/
def execVexpand (c : Bool) (d a : BitVec 6) (m : BitVec 4) (s : State) : Res :=
  vecWord s c [.p] false (classD s.me.fmtc) [d, a] [] (s.me.refs a ++ mRef m)
    [(s.me.svpBad s.me.fmtc, ill subSvp)] s.me.ew
    (fun f => f.dest d m (expandElems (f.selN m) f.vlN (f.srcs a)))

/-- A permutation: `pos` gives the source position below VL, none for zero. -/
def permWord (s : State) (c : Bool) (d a : BitVec 6) (m : BitVec 4) (groups : List (BitVec 6)) (refs : List RegRef)
    (pos : Flow → Nat → Option Nat) : Res :=
  vecWord s c [.p] false (classD s.me.fmtc) groups [] (s.me.refs a ++ refs ++ mRef m)
    [(s.me.svpBad s.me.fmtc, ill subSvp)] s.me.ew
    (fun f =>
      let x := f.gstr a.toNat f.grp
      f.dest d m ((List.range f.vlN).map (fun i =>
        match pos f i with
        | some j => bits x (j * f.ew) f.ew
        | none => 0)))

/-- VPERM, R140. -/
def execVperm (c : Bool) (d a b : BitVec 6) (m : BitVec 4) (s : State) : Res :=
  permWord s c d a m [d, a, b] (s.me.refs b) (fun f i =>
    let j := f.elem b.toNat f.grp f.ew i
    if j < f.vlN then some j else none)

/-- VIOTA, R141: the set bits of ms below each position (log 23). -/
def execViota (c : Bool) (d a : BitVec 6) (m : BitVec 4) (s : State) : Res :=
  vecWord s c [.p] false (classI s.me.fmtc) [d] [] (.m a.toNat :: mRef m) [] s.me.ew
    (fun f =>
      let x := (f.m.getD a.toNat 0).toNat
      f.dest d m ((List.range f.vlN).map (fun i => f.idCode (popN i x))))

/-- VSLUP, R142. -/
def execVslup (c : Bool) (d a r : BitVec 6) (m : BitVec 4) (s : State) : Res :=
  let k := (s.me.rd (s5 r)).toNat
  permWord s c d a m [d, a] (sRefs [s5 r]) (fun _ i => if k ≤ i then some (i - k) else none)

/-- VSLDN, R142. -/
def execVsldn (c : Bool) (d a r : BitVec 6) (m : BitVec 4) (s : State) : Res :=
  let k := (s.me.rd (s5 r)).toNat
  permWord s c d a m [d, a] (sRefs [s5 r]) (fun f i => if i + k < f.vlN then some (i + k) else none)

/-- VBCAST, R142: raw bits of the scalar register. -/
def execVbcast (c : Bool) (d r : BitVec 6) (m : BitVec 4) (s : State) : Res :=
  let x := (s.me.rd (s5 r)).toNat
  vecWord s c [.p] false (classD s.me.fmtc) [d] [] (sRefs [s5 r] ++ mRef m) [(s.me.svpBad s.me.fmtc, ill subSvp)] s.me.ew
    (fun f => f.dest d m (List.replicate f.vlN (x % 2 ^ f.ew)))

/-- VMOV, R130: bit for bit through the modifier; zero outside [0, VL) under either fill. -/
def execVmov (c : Bool) (d a x : BitVec 6) (m : BitVec 4) (s : State) : Res :=
  permWord s c d a m [d, a] [] (fun f i => (xmodOf (x.toNat / 8 % 4) (x.toNat % 8)).pos f.vlN i)

/-- The string of vd after an exchange (R143): slice j of member k is the partner's where the partner holds lane
group j and has a member k, zero otherwise. In a `.par` loop the lane group of the strip's copy alone is written
(R171, log 119). -/
def exchangeStr (f p : Flow) (va : Nat) : Nat :=
  let js := (List.range 8).filter (fun j => f.laneSet.getLsbD j)
  let ps := p.lgs
  (List.range f.grp).foldl (fun acc k =>
    js.zipIdx.foldl (fun acc q =>
      let x := if ps.contains q.1 && decide (k < p.grp) then p.slice (va + k) (2048 * (ps.findIdx (· == q.1))) 2048 else 0
      acc + x <<< (k * 2048 * js.length + 2048 * q.2)) acc) 0

/-- vd after an exchange with a partner's group (R143, R49, R151). -/
def Flow.exchanged (f p : Flow) (vd va : Nat) : Flow :=
  f.writeElems vd f.grp f.ew 15 (unpackCodes f.ew f.vlN (exchangeStr f p va))

/-- Whether every convoy before the one that a VXLANE joins has ended, so that nothing is charged to the flow while it
waits (R79, R144). -/
def Flow.convoysEnded (f : Flow) (c : Bool) : Bool :=
  if f.starts c then f.vqDrained else f.vecIdle && (convoyHead f.vq).2.isEmpty

/-- VXLANE, R143, R144: an exchange with itself copies at once; with a partner the flow waits, its convoy open,
until both have issued (VXLANE_EXCHANGE); its wait begins once the convoys before its own have ended. `xlCnt` counts the
instances that pair. -/
def execVxlane (c : Bool) (d a r : BitVec 6) (s : State) : Res :=
  let p := wbits (s.me.rd (s5 r)) 0 12
  let me := s.me.key.lflow
  match firstTrap ([(s.me.convoyBad c [.p], ill subConvoy), (!classD s.me.fmtc, ill subType),
      (groupBad [d, a] s.me.grp, ill subGroup)] ++ regErr s.me (s.me.vRefs (s.me.refs a ++ sRefs [s5 r])) ++
      [(s.me.svpBad s.me.fmtc, ill subSvp)]) with
  | some t => .next (s.trap t)
  | none =>
    if 32 ≤ s.me.vq.length then .next s
    else if p ≠ me && !s.me.convoysEnded c then
      .next (if s.me.starts c then s.modMe (fun f => { f with convoy := { Convoy.none with fresh := f.convoy.fresh } }) else s)
    else
      let n := match s.launch? s.me.key.launch with | some l => aget l.xlCnt (me, p) 0 | none => 0
      let s := s.modLaunch s.me.key.launch (fun l => { l with xlCnt := aset l.xlCnt (me, p) (n + 1) })
      if p = me then .next (vecEff s c [.p] false s.me.ew s.me.grp (fun f => f.exchanged f d.toNat a.toNat))
      else
        -- the word has issued; its write and the next pc come with the exchange
        .next (s.modMe (fun f => { f with
          convoy := f.convoyAfter c [.p] false
          vprog := f.vprog &&& 0xFFFFFFFF7FFFFFFF
          status := .waiting (.vxlane p n d.toNat a.toNat) }))

/-! ### Reductions, scans, folds (R145 to R147) -/

/-- The elements a reduction or scan takes in: the identity where mask or active set is 0 (R145, R151). -/
def Flow.masked (f : Flow) (a : BitVec 6) (m : BitVec 4) (ident : Nat) : List Nat :=
  let k := f.selN m
  (f.srcs a).zipIdx.map (fun p => if bit k p.2 then p.1 else ident)

/-- A scalar result: sign-extended for signed integer formats, else zero-extended (R145). -/
def Flow.redResult (f : Flow) (r : Nat) : Word := if f.signedInt then sext64 f.ew r else w64 r

/-- A reduction (R69, R145). -/
def redWord (s : State) (c : Bool) (cls : Nat → Bool) (d a : BitVec 6) (m : BitVec 4) (ident : Flow → Nat)
    (op : Flow → Nat → Nat → Nat) : Res :=
  vecWord s c [.a] true (cls s.me.fmtc) [a] [] (s.me.refs a ++ mRef m) [] s.me.ew
    (fun f => f.wrBusy (s5 d) (f.redResult (tree (op f) (ident f) (f.masked a m (ident f)))))

/-- Node of the VTYPE format (R69). -/
def Flow.node (f : Flow) (op : NodeOp) (x y : Nat) : Nat := nodeCode f.fmtc f.rm f.sat op x y

def Flow.ident (f : Flow) (op : NodeOp) : Nat := identityCode f.fmtc op

/-- VREDSUM, R145. -/
def execVredsum (c : Bool) (d a : BitVec 6) (m : BitVec 4) (s : State) : Res :=
  redWord s c classN d a m (fun f => f.ident .sum) (fun f => f.node .sum)
/-- VREDMAX, R145. -/
def execVredmax (c : Bool) (d a : BitVec 6) (m : BitVec 4) (s : State) : Res :=
  redWord s c classN d a m (fun f => f.ident .max) (fun f => f.node .max)
/-- VREDMIN, R145. -/
def execVredmin (c : Bool) (d a : BitVec 6) (m : BitVec 4) (s : State) : Res :=
  redWord s c classN d a m (fun f => f.ident .min) (fun f => f.node .min)
/-- VREDAND, R145. -/
def execVredand (c : Bool) (d a : BitVec 6) (m : BitVec 4) (s : State) : Res :=
  redWord s c classI d a m (fun f => 2 ^ f.ew - 1) andCode
/-- VREDOR, R145. -/
def execVredor (c : Bool) (d a : BitVec 6) (m : BitVec 4) (s : State) : Res := redWord s c classI d a m identZero orCode
/-- VREDXOR, R145. -/
def execVredxor (c : Bool) (d a : BitVec 6) (m : BitVec 4) (s : State) : Res := redWord s c classI d a m identZero xorCode

/-- The values of a scan (R70, R146). -/
def scanElems (op : Nat → Nat → Nat) (ident : Nat) (excl : Bool) : List Nat → List Nat
  | [] => []
  | x :: xs => if excl then ident :: scanFrom op ident ((x :: xs).dropLast) else x :: scanFrom op x xs

/-- A scan word (R146). -/
def scanWord (s : State) (c : Bool) (d a : BitVec 6) (m : BitVec 4) (op : NodeOp) (excl : Bool) : Res :=
  vecWord s c [.a] false (classN s.me.fmtc) [d, a] [] (s.me.refs a ++ mRef m) [] s.me.ew
    (fun f => f.dest d m (scanElems (f.node op) (f.ident op) excl (f.masked a m (f.ident op))))

/-- VSCANSUM, R146. -/
def execVscansum (c : Bool) (d a : BitVec 6) (m : BitVec 4) (s : State) : Res := scanWord s c d a m .sum false
/-- VSCANMAX, R146. -/
def execVscanmax (c : Bool) (d a : BitVec 6) (m : BitVec 4) (s : State) : Res := scanWord s c d a m .max false
/-- VSCANMIN, R146. -/
def execVscanmin (c : Bool) (d a : BitVec 6) (m : BitVec 4) (s : State) : Res := scanWord s c d a m .min false
/-- VSCANSUM.x, R146. -/
def execVscansumX (c : Bool) (d a : BitVec 6) (m : BitVec 4) (s : State) : Res := scanWord s c d a m .sum true
/-- VSCANMAX.x, R146. -/
def execVscanmaxX (c : Bool) (d a : BitVec 6) (m : BitVec 4) (s : State) : Res := scanWord s c d a m .max true
/-- VSCANMIN.x, R146. -/
def execVscanminX (c : Bool) (d a : BitVec 6) (m : BitVec 4) (s : State) : Res := scanWord s c d a m .min true

/-- VFOLD, R147: t = 2^i; a destination position outside the active set is not written. -/
def foldWord (s : State) (c : Bool) (d a i : BitVec 6) (op : NodeOp) : Res :=
  vecWord s c [.a] true (classN s.me.fmtc) [d, a] [] (s.me.refs a) [] s.me.ew
    (fun f =>
      let ys := foldR71 (f.node op) (2 ^ i.toNat) (f.masked a 15 (f.ident op))
      f.dest d 15 (ys ++ List.replicate (f.vlN - ys.length) 0))

/-- VFOLD.sum, R147. -/
def execVfoldSum (c : Bool) (d a i : BitVec 6) (s : State) : Res := foldWord s c d a i .sum
/-- VFOLD.max, R147. -/
def execVfoldMax (c : Bool) (d a i : BitVec 6) (s : State) : Res := foldWord s c d a i .max
/-- VFOLD.min, R147. -/
def execVfoldMin (c : Bool) (d a i : BitVec 6) (s : State) : Res := foldWord s c d a i .min

/-- Above of R149: whether pair (bv, bi) ranks above (av, ai). -/
def ranksAbove (bv av : FVal) (bi ai : Nat) : Bool :=
  if av.isNan && !bv.isNan then true
  else if bv.isNan && !av.isNan then false
  else if (av.isNan && bv.isNan) || bv.eqv av then decide (bi < ai)
  else av.lt bv

/-- VCSX, R149: in each position pair A takes the higher-ranked value and index. -/
def execVcsx (c : Bool) (d a : BitVec 6) (m : BitVec 4) (s : State) : Res :=
  let g := s.me.grp
  vecWord s c [.a] false (classN s.me.fmtc) [d, a]
    [(decide (48 < d.toNat + 2 * g) || decide (48 < a.toNat + 2 * g), ill subGroup)]
    (groupRefs d.toNat (2 * g) ++ groupRefs a.toNat (2 * g) ++ mRef m) [] s.me.ew
    (fun f =>
      let el (v : Nat) := f.elems v g f.ew f.vlN
      let ps := List.zip (List.zip (el d.toNat) (el (d.toNat + g))) (List.zip (el a.toNat) (el (a.toNat + g)))
      let qs := ps.map (fun p =>
        if ranksAbove (f.val p.2.1) (f.val p.1.1) p.2.2 p.1.2 then (p.2, p.1) else p)
      let f := f.writeElems d.toNat g f.ew m (qs.map (·.1.1))
      let f := f.writeElems (d.toNat + g) g f.ew m (qs.map (·.1.2))
      let f := f.writeElems a.toNat g f.ew m (qs.map (·.2.1))
      f.writeElems (a.toNat + g) g f.ew m (qs.map (·.2.2)))

end Sys2Proof.Machine
end

