-- ==== Sys2Proof/Machine/VecMem.lean ====
section
/-! DEFINITION. Vector loads and stores: R152 to R164. -/

namespace Sys2Proof.Machine

/-- Where element i starts, in bits (R153): unit stride from a bit offset, or a byte stride taken modulo 2^64. -/
inductive VAddr where
  | unit (base off : Nat)
  | strided (base : Nat) (stride : Int)
  deriving DecidableEq, Repr

/-- A(i) of R153 for elements of w bits. -/
def VAddr.bitAddr (a : VAddr) (w i : Nat) : Nat :=
  match a with
  | .unit b o => 8 * b + o + i * w
  | .strided b st => 8 * (((b : Int) + (i : Int) * st) % (2 ^ 64 : Int)).toNat

/-- The translations of n bytes from a virtual address up. Of the bytes that fail, one whose translation fails decides
before one whose home is lost (R105, R158). -/
def State.accessBytes (s : State) (c : Ctx) (va : Nat) (acc : Acc) (n : Nat) : Except XErr (List Xl) :=
  let rs := (List.range n).map (fun i => s.access c (va + i) acc)
  let errs := rs.filterMap (fun r => match r with | .error e => some e | .ok _ => none)
  match (errs.find? (fun e => e.1 == 6)).orElse fun _ => errs.head? with
  | some e => .error e
  | none => .ok (rs.filterMap (fun r => match r with | .ok x => some x | .error _ => none))

/-- Bytes that hold w bits from a bit address. -/
def spanBytes (ba w : Nat) : Nat := (ba % 8 + w + 7) / 8

/-- The bytes a flow reads at translated addresses. -/
def State.readXls (s : State) (f : Flow) (xs : List Xl) : List Byte := (xs.map (fun x => s.loadBytes f x 1)).flatten

/-- DATAERR of translated bytes, with the address of the first that fails. -/
def State.badOf (s : State) (xs : List Xl) : Option (Nat × Nat) :=
  match xs.find? (fun x => !x.index && (s.dataBad x.pa).isSome) with
  | some x => (s.dataBad x.pa).map (fun sub => (sub, x.pa))
  | none => none

/-- A part of memory that an element is read from: its bits, the offset of the first in its bytes, these, and the virtual
address of the first. -/
structure Place where
  bits : Nat
  off : Nat
  xs : List Xl
  va : Nat

/-- The bits of one element, or its exception, in the order of R158: XLATE, HOME_LOST, DATAERR. The code, the whole bytes
that hold it, and its place. -/
def State.readElem (s : State) (f : Flow) (ba w : Nat) : Except Trap (Nat × List Byte × Place) :=
  let eval := w64 (ba / 8)
  match s.accessBytes (s.ctx f) (ba / 8) .r (spanBytes ba w) with
  | .error e => .error (errTrap e eval)
  | .ok xs =>
    match s.badOf xs with
    | some (sub, pa) => .error { dataErrT sub eval with pa := pa }
    | none =>
      let bs := s.readXls f xs
      .ok (bits (natLE bs) (ba % 8) w, bs, ⟨w, ba % 8, xs, ba / 8⟩)

/-- What each active position of a vector load yields: its code, and the places it is read from. -/
abbrev ElemRead := State → Flow → Nat → Except Trap (Nat × List Place)

/-- The positions i, i + 1, … of a load, n of them: the codes read (0 for an inactive position), the places of each, and
the position and exception at which it stops (R158). `sel` holds the active positions from i on. -/
def readPositions (s : State) (f : Flow) (rd : ElemRead) : Nat → Nat → Nat → List Nat × List (List Place) × Option (Nat × Trap)
  | 0, _, _ => ([], [], none)
  | n + 1, i, sel =>
    if bit sel 0 then
      match rd s f i with
      | .error t => ([], [], some (i, t))
      | .ok (x, ps) =>
        let r := readPositions s f rd n (i + 1) (sel / 2)
        (x :: r.1, ps :: r.2.1, r.2.2)
    else
      let r := readPositions s f rd n (i + 1) (sel / 2)
      (0 :: r.1, [] :: r.2.1, r.2.2)

/-- Charges the accesses of an element-wise word. -/
def State.chargeAll (s : State) (f : Flow) (ps : List Place) : State :=
  ps.foldl (fun s p => s.chargeBits f ((p.xs.head?.map (·.pa)).getD 0) p.bits) s

/-- The bytes of a word's places come into reach of the flow (R198). -/
def State.reachPlaces (s : State) (ps : List Place) : State := s.reachAll (ps.map (·.xs)).flatten true

/-- The position a vector memory word starts at (R43, R159). -/
def Flow.startPos (f : Flow) : Nat := if f.vprog.getLsbD 31 then min (wbits f.vprog 0 16) f.vlN else 0

/-- VPROG after a fault at position e (R158). -/
def vprogAt (e : Nat) : Word := w64 (2 ^ 31 + e)

/-- The positions below e of a load that stops there; the rest of the string keeps its bits (R158). -/
def Flow.partDest (f : Flow) (v : Nat) (m : BitVec 4) (start e : Nat) (xs : List Nat) : Flow :=
  let old := f.gstr v f.grp
  f.setGstr v f.grp (packCodes f.ew ((f.mergeFrom v m start xs).take e) + (old >>> (e * f.ew)) <<< (e * f.ew))

/-- The checks of R155 on the base and stride, for elements of w bits; none with VL = 0 (R211). -/
def alignTraps (vl w : Nat) (base : Word) (stride : Option Word) : List (Bool × Trap) :=
  let n := w / 8
  if vl = 0 then []
  else
  [(decide (8 ≤ w) && base.toNat % n != 0, alignT base)] ++
    (match stride with
     | some st => [(decide (8 ≤ w) && st.toNat % n != 0, alignT (base + st))]
     | none => [])

/-- A vector load that issues without its values (R105, R161, R203): a load for each aligned 8-byte word of every
element, in any order and apart from one another. -/
def vecDeferEff (s : State) (c : Bool) (claims : List Pipe) (d : BitVec 6) (m : BitVec 4) (ps : List (List Place)) : State :=
  let f := s.me
  let pieces := (ps.flatten.map (fun p => piecesFrom p.va p.xs)).flatten
  let accs := pieces.map (fun p => ({ f.newAccess p.2.1.pa p.1 p.2.1 with load := true, size := p.2.2, vec := true } : Access))
  let e : VecDefer := ⟨d.toNat, m, f.startPos, ps.map (fun l =>
    match l with
    | p :: _ => (p.off, p.xs.map (·.pa))
    | [] => (0, []))⟩
  ((s.chargeAll f ps.flatten).modMe (fun g => ((g.issue accs).issueVec c claims false f.ew f.grp).markVq
    (fun w => { w with due := some f.seq }))).deferWord f accs (some e)

/-- The shared form of the vector loads: `rd` reads a position; `late` checks follow GROUP; `feed` sends the converted
elements to the matrix feed, marked with the register, instead of writing them (R157), and none for positions below PROG
(log 109); `plain` elements are codes as memory holds them, and can be left for later. -/
def vecLoad (s : State) (c : Bool) (claims : List Pipe) (cls : Nat → Bool) (d : BitVec 6) (m : BitVec 4)
    (late : List (Bool × Trap)) (srefs : List RegRef) (own : List (Bool × Trap)) (rd : ElemRead) (feed plain : Bool) : Res :=
  match firstTrap ([(s.me.convoyBad c claims, ill subConvoy), (!cls s.me.fmtc, ill subType),
      (groupBad [d] s.me.grp, ill subGroup)] ++ late ++ regErr s.me (s.me.vRefs (srefs ++ mRef m)) ++ own) with
  | some t => .next (s.trap t)
  | none =>
    if 32 ≤ s.me.vq.length || s.stuck true false then .next s
    else
      let start := s.me.startPos
      let sel := s.me.selN m
      let read (s : State) := readPositions s s.me rd (s.me.vlN - start) start (sel / 2 ^ start)
      let r0 := read s
      if s.ahead && plain && !s.replayOf s.me && r0.2.2.isNone && r0.2.1.any (fun l => !l.isEmpty) &&
          r0.2.1.all (fun l => l.all (fun p => p.xs.all (fun x => !x.index))) then
        .next (vecDeferEff s c claims d m r0.2.1)
      else if s.clash (r0.2.1.flatten.map (·.xs)).flatten then .next s
      else
        let s := (s.ready true false).reachPlaces r0.2.1.flatten
        let r := read s
        let xs := List.replicate start 0 ++ r.1
        let s1 := s.chargeAll s.me r.2.1.flatten
        match r.2.2 with
        | some (e, t) =>
          .next ((s1.modMe (fun f =>
            { (if feed then f else f.partDest d.toNat m start e (xs ++ List.replicate (f.vlN - e) 0)) with
              vprog := vprogAt e })).trap t)
        | none =>
          if feed then
            let es := xs.zipIdx.map (fun p => if decide (start ≤ p.2) && bit sel p.2 then some p.1 else none)
            .next (s1.modMe (fun f =>
              let f := f.issueVec c claims false f.ew f.grp
              { f with convoy := { f.convoy with feed := some ⟨d.toNat, es⟩ } }))
          else
            .next (s1.modMe (fun f => (f.loadDest d.toNat m start xs).issueVec c claims false f.ew f.grp))

/-- Reads elements of the VTYPE width. -/
def plainRead (a : VAddr) : ElemRead := fun s f i =>
  match s.readElem f (a.bitAddr f.ew i) f.ew with
  | .error t => .error t
  | .ok (x, _, p) => .ok (x, [p])

/-- VLD, R152, R153. -/
def execVld (c : Bool) (d : BitVec 6) (b : BitVec 5) (m : BitVec 4) (s : State) : Res :=
  let base := s.me.rd b
  vecLoad s c [.l] classD d m [] (sRefs [b])
    ((s.me.svpBadMem, ill subSvp) :: alignTraps s.me.vlN s.me.ew base none) (plainRead (.unit base.toNat 0)) false true

/-- VLDS, R152, R153. -/
def execVlds (c : Bool) (d : BitVec 6) (b st : BitVec 5) (m : BitVec 4) (s : State) : Res :=
  let base := s.me.rd b
  let stride := s.me.rd st
  vecLoad s c [.l] classD d m [] (sRefs [b, st])
    ((s.me.svpBadMem, ill subSvp) :: alignTraps s.me.vlN s.me.ew base (some stride))
    (plainRead (.strided base.toNat stride.toInt)) false true

/-- VLDB, R152, R153: the stream starts at a bit offset of the base byte. -/
def execVldb (c : Bool) (d : BitVec 6) (b : BitVec 5) (m : BitVec 4) (o : BitVec 3) (s : State) : Res :=
  let base := s.me.rd b
  vecLoad s c [.l] classD d m [] (sRefs [b])
    ((s.me.svpBadMem, ill subSvp) :: alignTraps s.me.vlN s.me.ew base none) (plainRead (.unit base.toNat o.toNat)) false true

/-- The format codes of VLDW's sources 0 to 7 (R90, R156). -/
def vldwSrc : Nat → Nat
  | 0 => 13
  | 1 => 14
  | 2 => 4
  | 3 => 8
  | 4 => 24
  | 5 => 15
  | 6 => 16
  | _ => 20

/-- The first failure among the scale and the element of a position, XLATE before HOME_LOST before DATAERR (R158). -/
def firstOf (a b : Option Trap) : Option Trap :=
  match a, b with
  | none, y => y
  | x, none => x
  | some x, some y =>
    let rank (t : Trap) : Nat := if t.cause = 6 then 0 else if t.cause = 0x0F then 1 else 2
    if rank y < rank x then some y else some x

/-- A position of VLDW (R156): the scale byte, the element (for oi4 its pair's whole byte), one Convert. -/
def widenRead (src : Nat) (base : Nat) (scale : Option Nat) : ElemRead := fun s f i =>
  let ws := fwidth src
  let ba := 8 * base + i * ws
  let el := s.readElem f ba ws
  let sc : Except Trap (Nat × List Byte × Place) :=
    match scale with
    | some sb => s.readElem f (8 * ((sb + i / 64) % 2 ^ 64)) 8
    | none => .ok (127, [], ⟨0, 0, [], 0⟩)
  match firstOf (match sc with | .error t => some t | .ok _ => none) (match el with | .error t => some t | .ok _ => none) with
  | some t => .error t
  | none =>
    match el, sc with
    | .ok (x, bs, p), .ok (k, _, sp) =>
      let v := match efmt src with
        | .pair =>
          let q := decodePair (natLE bs % 16) (natLE bs / 16 % 16)
          if i % 2 = 0 then q.1 else q.2
        | ef => ef.val x
      let v := match scale with | some _ => v.mul (scaleVal false k) | none => v
      .ok (f.conv v, p :: (match scale with | some _ => [sp] | none => []))
    | _, _ => .error (ill 0)

/-- VLDW (R156, R157). -/
def vldwWord (s : State) (c : Bool) (d : BitVec 6) (b : BitVec 5) (sc : Option (BitVec 5)) (m : BitVec 4) (mx : Bool)
    (src : Nat) : Res :=
  let base := s.me.rd b
  let fc := vldwSrc src
  vecLoad s c (if mx then [.l, .x] else [.l]) classN d m
    [(decide (s.me.ew ≤ fwidth fc), ill subField), (mx && decide (13 < s.me.fmtc), ill subField)]
    (sRefs (b :: sc.toList)) [] (widenRead fc base.toNat (sc.map (fun r => (s.me.rd r).toNat))) mx false

/-- VLDW from a plain source, R156. -/
def execVldw (c : Bool) (d : BitVec 6) (b : BitVec 5) (m : BitVec 4) (x : Bool) (r : BitVec 2) (s : State) : Res :=
  vldwWord s c d b none m x r.toNat

/-- VLDW from a scaled source, R156. -/
def execVldwScaled (c : Bool) (d : BitVec 6) (b sc : BitVec 5) (m : BitVec 4) (x : Bool) (r : BitVec 2) (s : State) : Res :=
  vldwWord s c d b (some sc) m x (4 + r.toNat)

/-! ### Stores -/

/-- The accesses of w bits of data from bit o of the first of a list of translated bytes, whose first has virtual address va:
one for each aligned 8-byte word (R203). -/
def Flow.bitStores (f : Flow) (seq va : Nat) (o w x : Nat) (xs : List Xl) : List Access :=
  let data := (x % 2 ^ w) <<< o
  let en := (2 ^ w - 1) <<< o
  (xs.zipIdx.map (fun p =>
    let sh := 8 * (p.1.pa % 8)
    ({ f.newAccess (p.1.pa / 8 * 8) (va + p.2) p.1 with
       seq := seq
       vec := true
       data := w64 (bits data (8 * p.2) 8 <<< sh)
       en := w64 (bits en (8 * p.2) 8 <<< sh) } : Access))).foldl
    (fun acc a =>
      match acc.getLast? with
      | some b => if b.addr = a.addr ∧ b.key = a.key then acc.dropLast ++ [{ b with data := b.data ||| a.data, en := b.en ||| a.en }]
                  else acc ++ [a]
      | none => [a]) []

/-- The stores of positions i, i + 1, …: the accesses with their positions, the translated bytes, and where it stops. -/
def writePositions (s : State) (f : Flow) (a : VAddr) (w : Nat) : Nat → Nat → Nat → Nat →
    List (Nat × Access) × List Xl × Option (Nat × Trap)
  | 0, _, _, _ => ([], [], none)
  | n + 1, i, sel, x =>
    if bit sel 0 then
      let ba := a.bitAddr w i
      match s.accessBytes (s.ctx f) (ba / 8) .w (spanBytes ba w) with
      | .error e => ([], [], some (i, errTrap e (w64 (ba / 8))))
      | .ok xs =>
        let r := writePositions s f a w n (i + 1) (sel / 2) (x >>> w)
        ((f.bitStores (f.seq + i) (ba / 8) (ba % 8) w (x % 2 ^ w) xs).map (fun y => (i, y)) ++ r.1, xs ++ r.2.1, r.2.2)
    else writePositions s f a w n (i + 1) (sel / 2) (x >>> w)

/-- The first position of a vector store that writes part of a lost granule (R427). -/
def State.lostPosition (s : State) (ws : List (Nat × Access)) (pas : List Nat) : Option Nat :=
  (s.lostByte pas).bind (fun i =>
    let pa := pas.getD i 0
    (ws.find? (fun w => decide (w.2.addr ≤ pa ∧ pa < w.2.addr + 8) && wbits w.2.en (8 * (pa - w.2.addr)) 8 != 0)).map (·.1))

/-- Entries of the strip's waiting stores (R163). -/
def Flow.vsqUsed (f : Flow) : Nat := sumN (f.vsq.map (fun w => w.entries))

/-- The entries that the store word at pc takes: those of its grouping, once for the whole of its grant (R163). -/
def Flow.vsqTakes (f : Flow) : Nat := if f.vsq.any (fun w => w.part == some f.pc) then 0 else f.grp

/-- Stores that have passed their fault point: they join the strip buffer outside a strip loop, and inside one they
wait for the strip's release point (R163). `stopped`: the word is to run again. -/
def Flow.takeStores (f : Flow) (ws : List (Nat × Access)) (stopped : Bool) : Flow :=
  let f' := { f with seq := f.seq + f.vlN }
  if f.vlN = 0 then f
  else if f.loop.isSome then
    let old := f.vsq.map (fun w => if !stopped && w.part == some f.pc then { w with part := none } else w)
    { f' with vsq := old ++ [⟨f.vsqTakes, ws, if stopped then some f.pc else none⟩] }
  else { f' with sb := f.sb ++ ws.map (·.2) }

/-- The virtual addresses of the bytes of a store's active positions below n. -/
def storeVas (f : Flow) (a : VAddr) (m : BitVec 4) (start n : Nat) : List Nat :=
  (((List.range n).filter (fun i => decide (start ≤ i) && bit (f.selN m) i)).map (fun i =>
    (List.range (spanBytes (a.bitAddr f.ew i) f.ew)).map (fun j => a.bitAddr f.ew i / 8 + j))).flatten

/-- A vector store that stops at an invalid entry while FENCEs hold it back: these perform first (R404). -/
def State.vecFenceFirst (s : State) (stop : Option (Nat × Trap)) : State :=
  match stop with
  | some (_, t) => if t.cause = 6 && t.sub = 2 && !s.me.fences.isEmpty && !s.stuck false true then s.ready false true else s
  | none => s

/-- The shared form of VST and VSTS (R152, R154, R155, R158, R163). -/
def vecStore (s : State) (c : Bool) (v : BitVec 6) (m : BitVec 4) (srefs : List RegRef) (base : Word) (stride : Option Word) : Res :=
  let a : VAddr := match stride with
    | some st => .strided base.toNat st.toInt
    | none => .unit base.toNat 0
  match firstTrap ([(s.me.convoyBad c [.s], ill subConvoy), (!classD s.me.fmtc, ill subType),
      (groupBad [v] s.me.grp, ill subGroup)] ++ regErr s.me (s.me.vRefs (s.me.refs v ++ srefs ++ mRef m)) ++
      [(s.me.loop.isSome && s.me.vlN != 0 && decide (8 < s.me.vsqUsed + s.me.vsqTakes), ill subLoop),
       (s.me.svpBadMem, ill subSvp)] ++
      alignTraps s.me.vlN s.me.ew base stride) with
  | some t => .next (s.trap t)
  | none =>
    if 32 ≤ s.me.vq.length then .next s
    else
      let f := s.me
      let start := f.startPos
      let write (s : State) (n : Nat) := writePositions s f a f.ew n start (f.selN m / 2 ^ start) (f.gstr v.toNat f.grp >>> (start * f.ew))
      let whole (s : State) :=
        let r0 := write s (f.vlN - start)
        match s.lostPosition r0.1 (r0.2.1.map (·.pa)) with
        | none => r0
        | some p =>
          let q := write s (p - start)
          (q.1, q.2.1, some (p, dataErrT 1 (w64 (a.bitAddr f.ew p / 8))))
      let s := s.vecFenceFirst (whole s).2.2
      let s := s.orDirtyAll (s.ctx f) (storeVas f a m start (match (whole s).2.2 with | some (e, _) => e | none => f.vlN))
      let r := whole s
      let s1 := r.2.1.foldl (fun s x => s.setDirty (s.ctx f) x) s
      match r.2.2 with
      | some (e, t) => .next ((s1.modMe (fun f => { (f.takeStores r.1 true) with vprog := vprogAt e })).trap t)
      | none => .next (s1.modMe (fun f => (f.takeStores r.1 false).issueVec c [.s] false f.ew f.grp))

/-- VST, R152. -/
def execVst (c : Bool) (v : BitVec 6) (b : BitVec 5) (m : BitVec 4) (s : State) : Res :=
  vecStore s c v m (sRefs [b]) (s.me.rd b) none

/-- VSTS, R152. -/
def execVsts (c : Bool) (v : BitVec 6) (b st : BitVec 5) (m : BitVec 4) (s : State) : Res :=
  vecStore s c v m (sRefs [b, st]) (s.me.rd b) (some (s.me.rd st))

end Sys2Proof.Machine
end

