-- ==== Sys2Proof/Machine/Engines.lean ====
section
/-! DEFINITION. What the engine words share: their checks (R84, R183, R457), the command queue (R183, R204), writes
the device makes, ranges of addresses (R212, R278), and the landing buffer (R51 to R53, R243, R301). -/

namespace Sys2Proof.Machine

/-- Feature bits of R455. -/
def featMatrix : Nat := 1
def featPlan : Nat := 2
def featTimetable : Nat := 3
def featRoute : Nat := 4

/-- In replay mode a flow's commands run at its turn of a boundary alone (R209). -/
def State.engineFree (s : State) (k : FlowKey) : Bool :=
  match s.flow? k with
  | some f => !s.replayOf f || (match s.replayQ.head? with | some q => q == (k, true) | none => false)
  | none => true

/-- Whether an engine word may act at once: the commands before it have been ACCEPTed, and no FENCE and no acquire holds it back
(R200, R204). -/
def State.eqOpen (s : State) : Bool := s.me.eq.isEmpty && s.orderLets s.me s.me.seq

/-- The same for a word that moves no memory and stalls at issue: it passes a FENCE whose stores only the strip's end lets go. -/
def State.eqFree (s : State) : Bool := s.me.eq.isEmpty && (s.orderLets s.me s.me.seq || !s.me.held.isEmpty)

/-- The scalar register in which an engine word that EQ can hold returns its result. -/
def planDest : Instr → Option (BitVec 5)
  | .pinv x _ | .pcomp x _ _ | .plan x _ _ _ | .pstat x _ | .tdef x _ _ | .tspawn x _ _ | .evrd x | .enchk x _ | .ttstat x _
  | .rowack x _ | .replsel x _ _ => some x
  | _ => none

/-- The tag a plan word lands in. -/
def planTag : Instr → Option Nat
  | .papply _ _ _ t _ => some t.toNat
  | _ => none

/-- A word that can still raise an exception and cannot go on joins EQ and lets later scalar words proceed (R183, R241): the flow as it was is kept, a
PAPPLY's tag is reserved, and VPROG.V is consumed (R43). The places in program order of what it will issue stay free. -/
def State.deferPlan (s : State) (i : Instr) (uses : Bool) : State :=
  let f := s.me
  let c := { s.ctx f with core := none }
  { s with
    ckpts := (⟨f.seq, f, none, [], 1, 0, 0⟩ : Defer) :: s.ckpts
    me := { (f.next) with
      eq := f.eq ++ [⟨.plan i, c, f.seq⟩]
      seq := f.seq + max 1 f.vlN
      reserved := (planTag i).toList ++ f.reserved
      vprog := if uses then f.vprog &&& 0xFFFFFFFF7FFFFFFF else f.vprog
      convoy := Convoy.none
      rebuilt := false } }

/-- An engine word that can still raise an exception, and has to wait, stands in EQ on a turn that leaves words for later, and else
stays at issue (log 111). -/
def holdEngine (s : State) (i : Instr) : Res :=
  if s.ahead && !s.replayOf s.me && decide (s.me.eq.length < 16) then .next (s.deferPlan i false) else stallEngine s

/-- Such a word waits for the earlier commands of its queue to be ACCEPTed (R204); where it acts on what other flows of the context
share, in replay mode at the boundary alone (R209, log 30). -/
def gateEngine (s : State) (i : Instr) (k : State → Res) : Res := if !s.eqOpen then holdEngine s i else gateReplay s k

/-- An engine word that raises nothing any more joins EQ, or the flow stalls while that is full (R183). -/
def queueWord (s : State) (i : Instr) : Res :=
  if 16 ≤ s.me.eq.length then stallEngine s
  else
    let regs := (List.range 32).map (fun r => s.me.rd (BitVec.ofNat 5 r))
    let e : EqEnt := ⟨.word i regs, { s.ctx s.me with core := none }, s.me.seq⟩
    .next (s.modMe (fun f => ({ f with
      eq := f.eq ++ [e]
      seq := f.seq + 1
      convoy := Convoy.none
      qBeats := f.qBeats + 1 }).next))

/-- Such a word acts once EQ and the flow's FENCEs let it, and stands in EQ till then. -/
def gateQueue (s : State) (i : Instr) (k : State → Res) : Res := if s.eqOpen then k s else queueWord s i

/-- How an engine word ends: it cannot go on yet, it raises an exception, or it is done. -/
inductive EngRes where
  | wait (s : State)
  | trap (s : State) (t : Trap)
  | done (s : State)

/-- An engine word at issue. -/
def EngRes.toRes : EngRes → Res
  | .wait s => stallEngine s
  | .trap s t => .next (s.trap t)
  | .done s => .next s

/-- The first exception of a list, or what follows. -/
def runEng (s : State) (cks : List (Bool × Trap)) (k : State → EngRes) : EngRes :=
  match firstTrap cks with
  | some t => .trap s t
  | none => k s

/-- `gateReplay` for an engine word (R209). -/
def gateEng (s : State) (k : State → EngRes) : EngRes :=
  if s.replayOf s.me && !s.me.qGo then .wait s else k (s.modMe (fun f => { f with qGo := false }))

/-- A command joins EQ, or the word stalls while EQ is full (R183). -/
def pushCmd (s : State) (c : Cmd) (eff : Flow → Flow) : Res :=
  if 16 ≤ s.me.eq.length then stallEngine s
  else
    let x := s.ctx s.me
    .next (s.beginScalar.modMe (fun f => ((eff { f with eq := f.eq ++ [⟨c, { x with core := none }, f.seq⟩], seq := f.seq + 1 }).next)))

/-- A write of the device itself at its point of service, discarded where its home is lost (R448): copies of the words are recalled (R408, R413), plans that watch them
are marked (R207), and words that held errors are rewritten (R444). -/
def State.devWrite (s : State) (pa key : Nat) (bs : List Byte) : State :=
  let ws := (List.range ((pa % 8 + bs.length + 7) / 8)).map (fun i => pa / 8 * 8 + 8 * i)
  let s := if s.reg.isEmpty && s.amoRuns.isEmpty && s.coh.dir.isEmpty then s else ws.foldl (fun s w => s.recallWord w key) s
  let s := if s.dev.dieLost == 0 then s.setBytes pa key bs
    else bs.zipIdx.foldl (fun s p => if (s.homeLost (pa + p.2)).isSome then s else s.setByte (pa + p.2) key p.1) s
  let s := if s.bad.isEmpty && s.badCache.isEmpty then s
    else { s with
      bad := s.bad.filter (fun b => !(decide (pa ≤ b ∧ b + 8 ≤ pa + bs.length)))
      badCache := s.badCache.filter (fun b => !(decide (pa ≤ b ∧ b + 8 ≤ pa + bs.length))) }
  if s.watches.isEmpty then s else ws.foldl State.markWatched s

/-! ### Ranges -/

/-- The first address of a range at which the device refuses an access, with the refusal: per address XLATE, then
HOME_LOST (R278). -/
def State.rangeErr (s : State) (c : Ctx) (va : Nat) (acc : Acc) : Nat → Option (XErr × Nat)
  | 0 => none
  | n + 1 =>
    match s.access c (va % 2 ^ 64) acc with
    | .error e => some (e, va % 2 ^ 64)
    | .ok _ => s.rangeErr c (va + 1) acc n

/-- The translations of a range, up to the first that fails. -/
def State.rangeXls (s : State) (c : Ctx) (va : Nat) (acc : Acc) : Nat → List Xl
  | 0 => []
  | n + 1 =>
    match s.access c (va % 2 ^ 64) acc with
    | .error _ => []
    | .ok x => x :: s.rangeXls c (va + 1) acc n

/-- The failure of a range that is checked as one position (R243): the lowest address whose translation fails, else the
lowest whose home is lost. -/
def State.spanErr (s : State) (c : Ctx) (va : Nat) (acc : Acc) (n : Nat) : Option (XErr × Nat) :=
  let errs := (List.range n).filterMap (fun i =>
    let a := (va + i) % 2 ^ 64
    match s.access c a acc with
    | .error e => some (e, a)
    | .ok _ => none)
  (errs.find? (fun e => e.1.1 == 6)).orElse fun _ => errs.head?

/-- The bytes of a range, translated, as a flow's load reads them, or DATAERR with the failing address. -/
def State.readXlsErr (s : State) (f : Flow) (va : Nat) (xs : List Xl) : Except Trap (List Byte × List Xl) :=
  match xs.zipIdx.find? (fun p => !p.1.index && (s.dataBad p.1.pa).isSome) with
  | some (x, i) => .error { dataErrT ((s.dataBad x.pa).getD 1) (w64 ((va + i) % 2 ^ 64)) with pa := x.pa }
  | none => .ok (s.readXls f xs, xs)

/-- The bytes of a position's range as a flow's load reads them, or its exception: XLATE, then HOME_LOST, then DATAERR, EVAL
the failing address (R243). -/
def State.readSpan (s : State) (f : Flow) (va n : Nat) : Except Trap (List Byte × List Xl) :=
  match s.spanErr (s.ctx f) va .r n with
  | some (e, a) => .error (errTrap e (w64 a))
  | none => s.readXlsErr f va (s.rangeXls (s.ctx f) va .r n)

/-- The bytes of a range as a flow's load reads them, or its exception: per address XLATE, then HOME_LOST (R278), then
DATAERR, EVAL the failing address (R305). -/
def State.readRange (s : State) (f : Flow) (va n : Nat) : Except Trap (List Byte × List Xl) :=
  match s.rangeErr (s.ctx f) va .r n with
  | some (e, a) => .error (errTrap e (w64 a))
  | none => s.readXlsErr f va (s.rangeXls (s.ctx f) va .r n)

/-- The bytes of a range come into reach of the flow's loads (R198 to R200). -/
def State.reachRange (s : State) (va n : Nat) : State :=
  (s.ready true false).reachAll (s.rangeXls (s.ctx s.me) va .r n) true

/-- The TCM window and the reserved window of R212. -/
def reservedVa : Nat := 0x1FFFFFFFFC00000
def localEnd : Nat := 0x200000000000000
def spmVa : Nat := 0x1FFFFFFFF800000

/-- The lower of two addresses found. -/
def lowest (a b : Option Nat) : Option Nat :=
  match a, b with
  | some x, some y => some (min x y)
  | some x, none => some x
  | none, y => y

/-- The lowest address of [a, a + n) in [lo, hi). -/
def firstIn (lo hi a n : Nat) : Option Nat := if n = 0 ∨ hi ≤ a ∨ a + n ≤ lo then none else some (max a lo)

/-- The lowest address of [a, a + n) in the arena window, the TCM or the reserved window (R212, R213). -/
def inLocal (a n : Nat) : Option Nat :=
  lowest (firstIn 0x1FE000000000000 0x1FF000000000000 a n) (firstIn reservedVa localEnd a n)

/-! ### The landing buffer -/

/-- The entry a tag holds. -/
def TagSt.entry : TagSt → Option Landing
  | .pending e => some e
  | .landed e => some e
  | _ => none

/-- Bytes of an entry. -/
def Landing.bytes (e : Landing) : Nat := (e.vl * e.width + 7) / 8

def Flow.landings (f : Flow) : List Landing := f.tags.filterMap TagSt.entry

/-- Whether the tag holds the entry that a fault of the word at pc left (R243). -/
def Flow.continues (f : Flow) (tag : Nat) : Option Landing :=
  match f.tags.getD tag .free with
  | .pending e => if f.vprog.getLsbD 31 && e.src == some f.pc then some e else none
  | _ => none

/-- The exceptions of R52 for a request of n bytes. -/
def Flow.tagTraps (f : Flow) (tag n : Nat) : List (Bool × Trap) :=
  if (f.continues tag).isSome then []
  else
    [(((f.tags.getD tag .free).entry).isSome || f.reserved.contains tag, ill subTagBusy),
     (decide (16 ≤ f.landings.length) || decide (32768 < n + sumN (f.landings.map Landing.bytes)), ill subLbFull)]

/-- Whether the core's buffer has an entry and n bytes free (R51, R52). -/
def State.landRoom (s : State) (f : Flow) (tag n : Nat) : Bool :=
  (f.continues tag).isSome ||
    (let es := ((s.flows.filter (fun g => g.loc.coreIdx == f.loc.coreIdx)).map Flow.landings).flatten
     decide (es.length < 16) && decide (sumN (es.map Landing.bytes) + n ≤ 32768))

/-- The entry of a transfer to the group at d, before any element (R51): `wrote` holds the positions it will write. -/
def Flow.newLanding (f : Flow) (d : Nat) (wrote : Nat) : Landing where
  dst := d
  grp := f.grp
  width := f.ew
  vl := f.vlN
  wrote := BitVec.ofNat 32768 (wrote % 2 ^ f.vlN)
  act := f.act
  data := []
  mz := f.mz
  src := none
  complete := false

/-- Changes a tag. An entry made new, or given up, no longer holds an error (R444). -/
def Flow.setTag (f : Flow) (tag : Nat) (t : TagSt) : Flow :=
  { f with
    tags := f.tags.set tag t
    bad := if t.entry.isSome && (f.tags.getD tag .free).entry.isSome then f.bad else f.bad.filter (fun b => b != .land tag) }

/-- The destination's string after COMMIT of an entry (R51): the recorded elements, the policy at positions of the
active set that were not written, and R49 at the VL of the COMMIT. Elements are of the recorded width; of one that
reaches beyond the string the bits inside it are written. -/
def Flow.landStr (f : Flow) (e : Landing) : Nat :=
  let old := f.gstr e.dst e.grp
  let n := ceilDiv (f.view.2 * e.grp) e.width
  f.destStr e.dst e.grp e.width ((List.range (min n f.vlN)).map (fun i =>
    if decide (i < e.vl) && bit e.act.toNat i then
      if bit e.wrote.toNat i then aget e.data i 0
      else if e.mz then 0 else bits old (i * e.width) e.width
    else bits old (i * e.width) e.width))

/-- COMMIT's write (R301); with VL = 0 at the COMMIT every position is tail (R49). Where every position below the VL of the
COMMIT was recorded it writes every bit, and clears errors of the registers (R444). -/
def Flow.commitTag (f : Flow) (tag : Nat) (e : Landing) : Flow :=
  let f' := (f.setGstr e.dst e.grp (f.landStr e)).setTag tag .free
  if !f.isCarried e.dst e.grp && !f.par && decide (f.vlN ≤ e.vl) && popN f.vlN (e.wrote.toNat &&& e.act.toNat) == f.vlN then
    f'.clearGroup e.dst e.grp
  else f'

/-- Places of which those that name the same bytes are read, and charged, once (R244). -/
def oncePlaces (ps : List Place) : List Place :=
  ps.foldl (fun acc p => if acc.any (fun q => q.xs.map (·.pa) == p.xs.map (·.pa) && q.off == p.off) then acc else acc ++ [p]) []

/-- What a word that lands elements of memory does once its checks have passed (R242, R243, R292): `rd` reads the
element of a position. A position that fails leaves the entry pending, marked with the word. -/
def landLoad (s : State) (d : BitVec 6) (tag : Nat) (rd : ElemRead) : EngRes :=
  let f := s.me
  let n := (f.vlN * f.ew + 7) / 8
  if !s.landRoom f tag n || s.stuck true false then .wait s
  else
    let start := f.startPos
    let sel := f.act.toNat % 2 ^ f.vlN / 2 ^ start * 2 ^ start
    let e := match f.continues tag with
      | some e => e
      | none => f.newLanding d.toNat sel
    let read (s : State) := readPositions s s.me rd (f.vlN - start) start (sel / 2 ^ start)
    let s := (s.ready true false).reachPlaces (read s).2.1.flatten
    let r := read s
    let got := (r.1.zipIdx.map (fun p => (start + p.2, p.1))).filter (fun p => bit sel p.1)
    let e := { e with data := e.data ++ got }
    let s := s.chargeAll f (oncePlaces r.2.1.flatten)
    match r.2.2 with
    | some (i, t) =>
      .trap (s.modMe (fun f => { (f.setTag tag (.pending { e with src := some f.pc })) with vprog := vprogAt i })) t
    | none =>
      .done (s.beginScalar.modMe (fun f => { ((f.setTag tag (.pending { e with src := none, complete := true })).next) with
        vprog := f.vprog &&& 0xFFFFFFFF7FFFFFFF, rebuilt := false }))

end Sys2Proof.Machine
end

