-- ==== Sys2Proof/Machine/Copy.lean ====
section
/-! DEFINITION. The copy engine's words, transfers to registers, event records, BAR, CTXYIELD and ENCHK: R282 to R301,
R309 to R312, R387, R388. -/

namespace Sys2Proof.Machine

/-! ### Issue of a copy (R283 to R285, R289) -/

/-- A COPY_FAULT (R289). -/
def copyFault (sub : Nat) (eval : Word) : Trap := ⟨0x11, sub, eval, none, 0⟩

/-- The completion word's check (R285). -/
def compTrap (c : Word) : Bool × Trap :=
  (wbits c 13 3 == 0 || wbits c 13 3 == 7 || wbits c 0 13 != 0, copyFault 5 c)

/-- A recorded fault is raised, and the tag becomes Free (R283, R289). -/
def State.raiseFault (s : State) (t : BitVec 4) (sub : Nat) (eval : Word) : State :=
  (s.modMe (fun f => { f with ctags := f.ctags.set t.toNat .free })).trap (copyFault sub eval)

/-- A copy issues: the tag becomes Active when it is Free (R283, R284), and the command joins EQ. -/
def issueCopy (s : State) (t : BitVec 4) (own : List (Bool × Trap)) (cmd : Cmd) : Res :=
  match s.me.ctags.getD t.toNat .free with
  | .faulted sub eval => .next (s.raiseFault t sub eval)
  | st =>
    match firstTrap own with
    | some tr => .next (s.trap tr)
    | none => pushCmd s cmd (fun f => if st = .free then { f with ctags := f.ctags.set t.toNat .active } else f)

/-- LOCAL of the lowest address found in a barred window. -/
def localFault (a : Option Nat) : Bool × Trap := (a.isSome, copyFault 4 (w64 (a.getD 0)))

/-- The registers of a pair named by an even field (R77). -/
def pairHi (n : BitVec 5) : BitVec 5 := n + 1

/-! ### STREAM (R290 to R292) -/

/-- Element d of a layout record: extent and stride (R290, R291). -/
def Flow.layout (f : Flow) (x : BitVec 6) (d : Nat) : Nat := bits (f.slice x.toNat f.view.1 f.view.2) (64 * d) 64

/-- The first record element out of range (R290): element 0 with a stride, else the element at which the product of
the extents passes 2^40. -/
def layoutBad (es : List Nat) : Option Nat :=
  let ext (x : Nat) : Nat := x % 2 ^ 24
  match es with
  | [] => none
  | e0 :: _ =>
    if e0 / 2 ^ 24 ≠ 0 then some e0
    else if es.foldl (fun p x => p * ext x) 1 ≤ 2 ^ 40 then none
    else (es.foldl (fun (a : Nat × Option Nat) x =>
      match a.2 with
      | some y => (a.1, some y)
      | none => if 2 ^ 40 < a.1 * ext x then (a.1, some x) else (a.1 * ext x, none)) (1, none)).2

/-- The start of run j of a strided source, relative to it (R290): dimension 1 fastest. -/
def runStart : List Nat → List Int → Nat → Int
  | e :: es, d :: ds, j => (if e = 0 then 0 else ((j % e : Nat) : Int) * d + runStart es ds (j / e))
  | _, _, _ => 0

/-- Address of byte i of a strided source. -/
def srcAddr (ext : List Nat) (str : List Int) (src : Nat) (i : Nat) : Nat :=
  match ext with
  | [] => src
  | e0 :: es => (((src : Int) + (if e0 = 0 then 0 else runStart es str (i / e0) + ((i % e0 : Nat) : Int))) % (2 ^ 64 : Int)).toNat

/-- The product of the extents: bytes copied. -/
def extTotal (ext : List Nat) : Nat := ext.foldl (· * ·) 1

/-- The lowest byte of a strided source in a barred window. -/
def sourceLocal (ext : List Nat) (str : List Int) (src : Nat) : Option Nat :=
  match ext with
  | [] => none
  | e0 :: es =>
    if e0 = 0 then none
    else (List.range (extTotal es)).foldl (fun m j => lowest m (inLocal (srcAddr ext str src (j * e0)) e0)) none

/-- STREAM, R290. It drains VQ for the producer of its record (R291). -/
def execStream (x : BitVec 6) (a n : BitVec 5) (t : BitVec 4) (v r : BitVec 2) (s : State) : Res :=
  let f := s.me
  let es := (List.range f.vlN).map (fun d => f.layout x d)
  let ext := es.map (fun e => e % 2 ^ 24)
  let str := (es.drop 1).map (fun e => sgn 40 (e / 2 ^ 24))
  let src := f.rd a
  let dst := f.rd n
  let comp := f.rd (pairHi n)
  match firstTrap (regErr f (sRefs [a, n, pairHi n] ++ [.v x.toNat]) ++ [(decide (f.vlN < 1 ∨ 6 < f.vlN), ⟨1, subLayout, w64 f.vlN, none, 0⟩)]) with
  | some tr => .next (s.trap tr)
  | none =>
    let bad := layoutBad es
    if !f.vqDrained then stall s
    else
    issueCopy s t
      ([(bad.isSome, copyFault 5 (w64 (bad.getD 0))), compTrap comp] ++
        (if bad.isSome then [] else [localFault (lowest (sourceLocal ext str src.toNat) (inLocal dst.toNat (extTotal ext)))]))
      (.stream t.toNat ext str src dst comp r.toNat v.toNat)

/-- STREAM to a register, R292: elements as VLD reads them, under VTYPE, with VLD's check of R42 (log 98). -/
def execStreamReg (d : BitVec 6) (a : BitVec 5) (t : BitVec 4) (s : State) : Res :=
  let base := s.me.rd a
  let w := s.me.ew
  match firstTrap ([(!classD s.me.fmtc, ill subType), (groupBad [d] s.me.grp, ill subGroup)] ++ regErr s.me (sRefs [a]) ++
      [(s.me.svpBadMem, ill subSvp), (decide (8 ≤ w) && base.toNat % (w / 8) != 0, alignT base)] ++ s.me.tagTraps t.toNat ((s.me.vlN * w + 7) / 8)) with
  | some tr => .next (s.trap tr)
  | none =>
    if !s.eqFree then stallEngine s
    else (landLoad s d t.toNat (plainRead (.unit base.toNat 0))).toRes

/-! ### SWALK and SCOW (R296 to R299) -/

/-- SWALK, R298. -/
def execSwalk (x a n : BitVec 5) (t : BitVec 4) (v r : BitVec 2) (s : State) : Res :=
  let f := s.me
  let dst := f.rd n
  let comp := f.rd (pairHi n)
  match firstTrap (regErr f (sRefs [x, a, n, pairHi n])) with
  | some tr => .next (s.trap tr)
  | none =>
    issueCopy s t [compTrap comp, localFault (inLocal dst.toNat 1)]
      (.swalk t.toNat (f.rd x) (wbits (f.rd a) 0 32) (wbits (f.rd a) 32 32) dst comp r.toNat v.toNat)

/-- SCOW, R299. -/
def execScow (x a n : BitVec 5) (t : BitVec 4) (v r : BitVec 2) (s : State) : Res :=
  let f := s.me
  let res := f.rd n
  let comp := f.rd (pairHi n)
  match firstTrap (regErr f (sRefs [x, a, n, pairHi n])) with
  | some tr => .next (s.trap tr)
  | none =>
    issueCopy s t [compTrap comp, localFault (inLocal res.toNat 8)]
      (.scow t.toNat (f.rd x) (f.rd a).toNat res comp r.toNat v.toNat)

/-! ### SWAIT and COMMIT (R300, R301) -/

/-- Whether SWAIT's condition holds (R300). -/
def CTagSt.passes (c : CTagSt) (visible : Bool) : Bool :=
  match c with
  | .free => true
  | .released => !visible
  | _ => false

/-- SWAIT: the fault recorded for the tag, a wait (for a copy that EQ still holds too), or its completion, at a
visibility point with the acquire of R205 at the scope of the copy that last used the tag. -/
def swait (s : State) (t : BitVec 4) (visible : Bool) : Res :=
  gateReplay s (fun s =>
    match s.me.ctags.getD t.toNat .free with
    | .faulted sub eval => .next (s.raiseFault t sub eval)
    | st =>
      if s.me.eq.isEmpty && st.passes visible then
        let s := s.beginScalar
        let s := if visible then s.acquire s.me.key (s.me.cscope.getD t.toNat 0) else s
        .next (s.modMe Flow.next)
      else waitFor s (.swait t.toNat visible))

/-- SWAIT.release, R300. -/
def execSwaitRelease (t : BitVec 4) (s : State) : Res := swait s t false
/-- SWAIT.visible, R300. -/
def execSwaitVisible (t : BitVec 4) (s : State) : Res := swait s t true

/-- COMMIT, R301: a Lost tag raises TAGLOST and is Free afterwards; a Pending one waits. -/
def execCommit (t : BitVec 4) (s : State) : Res :=
  match firstTrap (regErr s.me [.land t.toNat]) with
  | some tr => .next (s.trap tr)
  | none =>
    if !s.eqFree then stallEngine s
    else
      match s.me.tags.getD t.toNat .free with
      | .lost => .next ((s.modMe (fun f => f.setTag t.toNat .free)).trap (ill subTagLost))
      | .free => .next (s.beginScalar.modMe Flow.next)
      | .pending _ => waitFor s (.commit t.toNat)
      | .landed e => .next (s.beginScalar.modMe (fun f => (f.commitTag t.toNat e).next))

/-! ### Event records (R309 to R311) -/

/-- An event record (R309) without OVF. -/
def eventWord (payload kind tag src : Nat) : Word :=
  w64 ((payload % 2 ^ 32) <<< 32 + kind <<< 28 + tag <<< 24 + (src % 4096) <<< 12)

/-- A record sets out for a flow; a target that is no flow of a launch receives nothing (R311). -/
def State.post (s : State) (dst : FlowKey) (word : Word) (scope : Nat) : State :=
  if (s.flow? dst).isSome then { s with evFlight := s.evFlight ++ [⟨dst, word, scope⟩] } else s

/-- EVRD, R311: the oldest record, or 0; the OVF mark goes with it. -/
def execEvrd (x : BitVec 5) (s : State) : Res :=
  let gate (k : State → Res) : Res :=
    if s.replayOf s.me then (if s.eqOpen then gateReplay s k else stallEngine s) else gateQueue s (.evrd x) (fun s => gateReplay s k)
  gate (fun s =>
    match s.me.events with
    | [] => .next (s.beginScalar.modMe (fun f => (f.wr x 0).next))
    | (w, sc) :: rest =>
      let w := if s.me.evOvf then w ||| 0x80000000 else w
      let s := s.beginScalar.acquire s.me.key sc
      .next (s.modMe (fun f => (({ f with events := rest, evOvf := false }).wr x w).next)))

/-- An engine word ordered rel: it waits for stores that wait in the VSQ for the strip's release point too (R163, R201). -/
def gateRel (s : State) (i : Instr) (k : State → Res) : Res := if s.me.held.isEmpty then gateEngine s i k else stall s

/-- The same for one that raises nothing any more, and stands in EQ till then. In replay mode it is an AMO, which the boundary runs
(R209, R306, R311). -/
def gateQueueRel (s : State) (i : Instr) (k : State → Res) : Res :=
  if s.replayOf s.me then
    if !s.me.held.isEmpty then stall s else if s.eqOpen then gateReplay s k else stallEngine s
  else if s.me.held.isEmpty && s.eqOpen then gateReplay s k
  else queueWord s i

/-- EVPOST, R311: an AMO ordered rel at dev. -/
def execEvpost (a b : BitVec 5) (s : State) : Res :=
  match firstTrap (regErr s.me (sRefs [a, b])) with
  | some tr => .next (s.trap tr)
  | none =>
    gateQueueRel s (.evpost a b) (fun s =>
      let k := s.me.key
      let w := eventWord (wbits (s.me.rd a) 0 32) 4 0 k.lflow
      let dst : FlowKey := ⟨k.launch, wbits (s.me.rd b) 0 12⟩
      .next (((s.beginScalar.perform k 4).post dst w 4).modMe Flow.next))

/-! ### BAR (R312) -/

/-- The members of a group (R181). -/
def Launch.members (l : Launch) (g : Nat) : List Nat := (l.groups.filter (fun p => p.1 == g)).map (·.2)

/-- The flows of a group. -/
def State.memberFlows (s : State) (l : Launch) (g : Nat) : List Flow :=
  s.flows.filter (fun f => f.key.launch == l.id && (l.members g).contains f.key.lflow)

/-- The smallest scope that holds all of some flows (R205): dev where one of them is saved. -/
def scopeOf (fs : List Flow) : Nat :=
  match fs with
  | [] => 4
  | f :: _ =>
    if fs.any (fun g => g.status == .saved) then 4
    else if fs.all (fun g => g.loc.coreIdx == f.loc.coreIdx) then 1
    else if fs.all (fun g => g.loc.clusterIdx == f.loc.clusterIdx) then 2
    else if fs.all (fun g => g.loc.die == f.loc.die) then 3
    else 4

/-- BAR: the flow's n-th arrival pairs with every other member's; it waits until BAR_RELEASE lets the instance pass, and
passes with the acquire effect at the smallest scope that holds all members (R205). -/
def execBar (g : BitVec 8) (s : State) : Res :=
  let me := s.me.key.lflow
  let l? := s.launch? s.me.key.launch
  let member := match l? with | some l => (l.members g.toNat).contains me | none => false
  if !member then .next (s.trap ⟨1, subNotMember, w64 g.toNat, none, 0⟩)
  else
    let done := match l? with | some l => aget l.barDone g.toNat 0 | none => 0
    match s.me.barInst with
    | some (_, n) =>
      if n < done then
        let sc := match l? with | some l => scopeOf (s.memberFlows l g.toNat) | none => 4
        .next ((s.beginScalar.acquire s.me.key sc).modMe (fun f => ({ f with barInst := none }).next))
      else waitFor s (.bar g.toNat n)
    | none =>
      if !s.eqFree then stallEngine s
      else gateReplay s (fun s =>
        let n := match l? with | some l => aget l.barArr (me, g.toNat) 0 | none => 0
        waitFor ((s.modLaunch s.me.key.launch (fun l => { l with barArr := aset l.barArr (me, g.toNat) (n + 1) })).modMe
          (fun f => { f with barInst := some (g.toNat, n) })) (.bar g.toNat n))

/-! ### CTXYIELD and ENCHK (R387, R388) -/

/-- CTXYIELD: a pre-emption point, else nothing. -/
def execCtxyield (s : State) : Res :=
  if !s.eqFree then stallEngine s
  else if s.me.preemptible then .next ((s.beginScalar.modMe Flow.next).park .yield) else scalarWord s [] id

/-- ENCHK. -/
def execEnchk (x a : BitVec 5) (s : State) : Res :=
  let e := (s.me.rd a).toNat
  let n := (s.ten s.me.tenant).enbudget
  match firstTrap (regErr s.me (sRefs [a])) with
  | some t => .next (s.trap t)
  | none =>
    gateQueue s (.enchk x a) (fun s => scalarWord s [] (fun f => f.wr x (w64 (n + (if n < e then 2 ^ 63 else 0)))))

end Sys2Proof.Machine
end

