-- ==== Sys2Proof/Machine/Matrix.lean ====
section
/-! DEFINITION. The matrix unit: R72, R73, R254 to R281, R330. The unit's effects are taken at issue, in the flow's
program order; `mxq` holds the words that have not completed (MATRIX_WORD_COMPLETE). -/

namespace Sys2Proof.Machine

/-! ### Slots -/

def Flow.slot (f : Flow) (t : BitVec 4) : Slot := f.slots.getD t.toNat (Slot.init 0)
def Flow.setSlot (f : Flow) (t : BitVec 4) (x : Slot) : Flow := { f with slots := f.slots.set t.toNat x }

/-- A cleared slot with its declaration kept (R260, R261). -/
def Slot.cleared (x : Slot) (rows : Nat) : Slot :=
  { x with sums := List.replicate rows 0, lists := List.replicate rows [], z := true, p := false, rc := 0 }

/-- Code c of a sum row. -/
def rowCode (row : BitVec 4096) (c : Nat) : Nat := bits row.toNat (32 * c) 32

/-- The value of a sum entry: f32, or i32 (R259). -/
def Slot.entryVal (x : Slot) (r c : Nat) : FVal :=
  let k := rowCode (x.sums.getD r 0) c
  if x.kind = 1 then .ofInt (sgn 32 k) else (efmt 0).val k

/-- Whether candidate (v, i) ranks above (w, j) (R272). -/
def aboveEntry (v i w j : Nat) : Bool :=
  let x := (efmt 0).val v
  let y := (efmt 0).val w
  y.lt x || (x.eqv y && decide (i < j))

/-- Placement by rank. -/
def placeEntry (v i : Nat) : List (BitVec 32 × BitVec 32) → List (BitVec 32 × BitVec 32)
  | [] => [(BitVec.ofNat 32 v, BitVec.ofNat 32 i)]
  | e :: es =>
    if aboveEntry v i e.1.toNat e.2.toNat then (BitVec.ofNat 32 v, BitVec.ofNat 32 i) :: e :: es
    else e :: placeEntry v i es

/-- A row's list after a candidate that is no NaN (R272). -/
def insertEntry (k v i : Nat) (l : List (BitVec 32 × BitVec 32)) : List (BitVec 32 × BitVec 32) :=
  match l.find? (fun e => e.2.toNat == i) with
  | some e =>
    if aboveEntry v i e.1.toNat e.2.toNat then (placeEntry v i (l.filter (fun x => x.2.toNat != i))).take k else l
  | none => (placeEntry v i l).take k

/-- Insert of R272 into row r; a NaN is counted in NANC when `count` says so (R275). -/
def Slot.insert (x : Slot) (r v i : Nat) (count : Bool) : Slot :=
  if ((efmt 0).val v).isNan then
    if count && x.nanc != BitVec.allOnes 32 then { x with nanc := x.nanc + 1 } else x
  else { x with lists := x.lists.modify r (insertEntry x.k v i) }

/-- Thr(t, r) of R276, as a value. -/
def Slot.thr (x : Slot) (r : Nat) : FVal :=
  let l := x.lists.getD r []
  if l.length = x.k then (match l.getLast? with | some e => (efmt 0).val e.1.toNat | none => .inf true) else .inf true

/-- An absent entry in memory (R275). -/
def absentEntry : Nat := 0x7FC00000 + 0xFFFFFFFF <<< 32

/-- A ranked row as memory holds it. -/
def Slot.rowWords (x : Slot) (r : Nat) : List Nat :=
  let l := x.lists.getD r []
  (List.range x.k).map (fun e =>
    match l[e]? with
    | some p => p.1.toNat + p.2.toNat <<< 32
    | none => absentEntry)

/-- The rows r up of a ranked slot take the entries of memory rows (R275, R278). -/
def Slot.mergeRows (x : Slot) (rows : List (List Byte)) : Slot :=
  rows.zipIdx.foldl (fun x p =>
    (chunksOf 8 (p.1.length / 8) (p.1)).foldl (fun x bs =>
      let w := natLE bs
      x.insert p.2 (w % 2 ^ 32) (w >>> 32) false) x) x

/-! ### Checks and completion -/

def noGrant : Trap := ⟨0x0C, 1, 0, none, 0⟩
def mxState (eval : Word) : Trap := ⟨1, subMxState, eval, none, 0⟩

def accRef (t : BitVec 4) : RegRef := .acc t.toNat

/-- A slot rewritten whole no longer holds an error (R444). -/
def Flow.mendSlot (f : Flow) (t : BitVec 4) : Flow := { f with bad := f.bad.filter (fun b => b != accRef t) }

/-- A word of the unit is taken (R263). -/
def Flow.takeMx (f : Flow) (x : Option Nat) : Flow := { f with mxq := f.mxq ++ [x] }

/-- What a matrix word does once its exceptions have passed: it must wait, it fails on what it reads, or it is done. -/
inductive MxRes where
  | wait
  | fail (s : State) (t : Trap)
  | done (s : State)

/-- What a matrix word raises beside the checks that hold for all: its ILLEGALs that stand with VL = 0 too (R211), those
and its other exceptions in the order of R262, and what it does to the convoy whatever VL is. -/
structure MxOwn where
  zero : List (Bool × Trap) := []
  own : List (Bool × Trap) := []
  convoy : Flow → Flow := id

/-- A vector-class matrix word: the checks of R84, the registers and slots it reads (R443), the exceptions of R262, then
its effect. With VL = 0 it raises nothing but ILLEGAL and FEATURE, claims its pipes and leaves every slot, and every transfer tag
but a Lost one, as it is (R211, R262, R457; that R211 covers slots and tags, and that FEATURE stands, is log 95). In VQ it counts VL elements of the VTYPE width (R187, log 96). -/
def mxWord (s : State) (i : Instr) (c : Bool) (claims : List Pipe) (typeOk : Bool) (groups : List (BitVec 6))
    (refs : List RegRef) (o : MxOwn) (eff : State → MxRes) : Res :=
  match firstTrap [(s.me.convoyBad c claims, ill subConvoy), (!typeOk, ill subType), (groupBad groups s.me.grp, ill subGroup)] with
  | some t => .next (s.trap t)
  | none =>
    if s.me.vlN = 0 then run s (featErr s.dev featMatrix i ++ o.zero) (fun s => vecEff s c claims false 32 1 o.convoy)
    else
      match firstTrap (featErr s.dev featMatrix i ++ regErr s.me refs ++ (s.me.rows == 0, noGrant) :: o.own) with
      | some t => .next (s.trap t)
      | none =>
        if 32 ≤ s.me.vq.length then .next s
        else
          match eff s with
          | .wait => .next (s.modMe (fun f => { f with qEnd := f.qEnd || s.replayOf f }))
          | .fail s t => .next (s.trap t)
          | .done s => .next (s.modMe (fun f => (o.convoy f).issueVec c claims false f.ew f.grp))

/-- A scalar-class matrix word. -/
def mxScalar (s : State) (i : Instr) (refs : List RegRef) (own : List (Bool × Trap)) (k : State → Res) : Res :=
  match firstTrap (featErr s.dev featMatrix i ++ regErr s.me refs ++ own) with
  | some t => .next (s.trap t)
  | none => if s.eqFree then k s else stallEngine s

/-! ### Attachment and declaration (R257 to R261) -/

/-- The quarters of the flow's cluster that no flow holds. -/
def State.freeQuarters (s : State) : List Nat :=
  let held := s.flows.filter (fun f => f.loc.clusterIdx == s.me.loc.clusterIdx)
  (List.range 4).filter (fun q => !held.any (fun f => f.qm.getLsbD q))

/-- A flow that holds the quarters given, every slot as MATTACH leaves it (R257). -/
def Flow.attach (f : Flow) (qs : List Nat) : Flow :=
  { f with
    qm := BitVec.ofNat 4 (sumN (qs.map (fun q => 2 ^ q)))
    slots := List.replicate 16 (Slot.init (64 * qs.length))
    bad := f.bad.filter (fun b => match b with | .acc _ => false | _ => true) }

/-- The quarters released, their contents lost (R257). -/
def Flow.detach (f : Flow) : Flow := f.attach []

/-- MATTACH, R257: never a wait for a quarter. It has completed when it has issued (R263). -/
def execMattach (n : BitVec 4) (s : State) : Res :=
  mxScalar s (.mattach n) [] [] (fun s => gateReplay s (fun s =>
    let qs := (s.freeQuarters).take n.toNat
    .next (s.beginScalar.modMe (fun f =>
      (if f.rows != 0 then f else f.attach qs).next))))

/-- MDETACH, R257. -/
def execMdetach (s : State) : Res :=
  mxScalar s .mdetach [] [] (fun s =>
    if !s.me.mxq.isEmpty then stallEngine s else .next (s.beginScalar.modMe (fun f => f.detach.next)))

/-- MDECL of a kind (R260): it waits for the earlier words of the unit, and has completed when it has issued (R263). -/
def mdecl (s : State) (i : Instr) (refs : List RegRef) (own : List (Bool × Trap)) (kind k : Nat) (t : BitVec 4) : Res :=
  mxScalar s i refs ((s.me.rows == 0, noGrant) :: own) (fun s =>
    if !s.me.mxq.isEmpty then stallEngine s
    else
      .next (s.beginScalar.modMe (fun f =>
        let new := { Slot.init f.rows with kind := kind, k := k }
        let f := { f with slots := f.slots.map (fun (x : Slot) => if x.link = some t.toNat then { x with link := none } else x) }
        ((f.setSlot t new).mendSlot t).next)))

/-- MDECL f32, R260. -/
def execMdeclF32 (t : BitVec 4) (s : State) : Res := mdecl s (.mdeclF32 t) [] [] 0 0 t
/-- MDECL i32, R260. -/
def execMdeclI32 (t : BitVec 4) (s : State) : Res := mdecl s (.mdeclI32 t) [] [] 1 0 t
/-- MDECL rank, R260. -/
def execMdeclRank (k : BitVec 5) (t : BitVec 4) (s : State) : Res :=
  let n := (s.me.rd k).toNat
  mdecl s (.mdeclRank k t) (sRefs [k]) [(decide (n < 1 ∨ 64 < n), mxState (s.me.rd k))] 2 n t

/-- MZERO, R261. -/
def execMzero (c : Bool) (t : BitVec 4) (s : State) : Res :=
  mxWord s (.mzero c t) c [.x] true [] [] ⟨[], [], id⟩ (fun s =>
    .done (s.modMe (fun f => ((f.setSlot t ((f.slot t).cleared f.rows)).mendSlot t).takeMx none)))

/-- MWAIT, R280: a stall until every earlier matrix word has completed. -/
def execMwait (s : State) : Res :=
  mxScalar s .mwait [] [(s.me.rows == 0, noGrant)] (fun s =>
    if !s.me.mxq.isEmpty then stallEngine s else .next (s.beginScalar.modMe Flow.next))

/-! ### Outer products (R266 to R271) -/

/-- K of R72. -/
def fragK (c : Nat) : Nat := if 16 ≤ fwidth c then 1 else if 6 ≤ fwidth c then 2 else 4

/-- Cycles per step of R72. -/
def stepCycles (c : Nat) : Nat := if c = 0 then 4 else if c = 1 then 2 else 1

/-- Price of a unit cycle per held quarter (R363). -/
def mxPrice (c : Nat) : Nat := if 16 ≤ fwidth c then 1400000 else if 6 ≤ fwidth c then 1500000 else 1600000

/-- A matrix operand's exact element at position i before its scale: 0 where it does not lie wholly in the group's string (R48,
R267). -/
def Flow.operand (f : Flow) (str : Nat) (i : Nat) : FVal :=
  if f.view.2 * f.grp < (i + 1) * f.ew then .zero else elemCode f.fmtc (fun j => bits str (j * f.ew) f.ew) i

/-- The scale of an operand's fragment that starts at position i (R72, R267); 1 for an unscaled format. `scale0` is the operand's
first scale byte. -/
def Flow.fragScale (f : Flow) (scale0 i : Nat) : FVal :=
  if isScaled f.fmtc then scaleVal (isE43 f.fmtc) (f.scaleByte (scale0 + i / 64)) else .one

/-- A B position: none contributes an exact product of 0 (R157, R267). -/
abbrev BOperand := Nat → Option FVal

/-- B from the register file. -/
def Flow.regB (f : Flow) (vb : Nat) : BOperand :=
  let str := f.gstr vb f.grp
  fun i => if f.vlN ≤ i then none else some (f.operand str i)

/-- B from the matrix feed (R157, R271). -/
def Flow.feedB (f : Flow) (feed : Feed) : BOperand := fun i =>
  match feed.elems.getD i none with
  | some x => some ((efmt f.fmtc).val x)
  | none => none

/-- The exact product of a pair: 0 where B has no element, whatever A is (R157, R267). -/
def fragTerm (p : FVal × Option FVal) : FVal :=
  match p.2 with
  | some y => p.1.mul y
  | none => .zero

/-- The exact sum of the products of one fragment (R72). -/
def fragSum : List (FVal × Option FVal) → FVal
  | [] => .zero
  | p :: rest => rest.foldl (fun r q => r.add .rne (fragTerm q)) (fragTerm p)

/-- The integer of an exact integral value. -/
def FVal.toInt : FVal → Int
  | .fin n m e _ => let k : Int := if e < 0 then ((m >>> (-e).toNat : Nat) : Int) else ((m <<< e.toNat : Nat) : Int); if n then -k else k
  | _ => 0

/-- One accumulation (R72, R73, R268). -/
def accStep (kind acc : Nat) (p : FVal) : Nat :=
  if kind = 1 then codeOf 32 (sgn 32 acc + p.toInt)
  else convert 0 .rne false (((efmt 0).val acc).add .rne p)

/-- One row after the REP steps of a MOP: columns below C take their products in step order, the sum of each times both
scales (R72, R268). `a` gives element jK + k of the row, `sa` the scale of its fragment of step j, `sc` that of the fragment of B at
a position. -/
def mopRow (kind rep k tile : Nat) (a : Nat → FVal) (b : BOperand) (sa sc : Nat → FVal) (row : BitVec 4096) : BitVec 4096 :=
  let c := min tile 128
  let cols := (List.range c).map (fun col =>
    (List.range rep).foldl (fun acc j =>
      let at_ := (j * tile + col) * k
      accStep kind acc (((fragSum ((List.range k).map (fun q => (a (j * k + q), b (at_ + q))))).mul (sa j)).mul (sc at_)))
      (rowCode row col))
  BitVec.ofNat 4096 (packCodes 32 cols + (row.toNat >>> (32 * c)) <<< (32 * c))

/-- The formats an i32 slot takes (R73, R268): i16, i8, ui8, i6, i4, oi4. -/
def i32Format (c : Nat) : Bool := decide (9 ≤ c ∧ c ≤ 14)

/-- MXSTATE of a MOP's destination (R268). -/
def mopBad (f : Flow) (t : BitVec 4) : Bool :=
  (f.slot t).kind == 2 || ((f.slot t).kind == 1 && !i32Format f.fmtc)

/-- Whether pruning drops the word (R268, R277): a bound that is not above the least threshold of the linked slot. -/
def Flow.prunes (f : Flow) (t : BitVec 4) (sb : BitVec 5) : Bool :=
  (f.slot t).p ||
    (match (f.slot t).link with
     | none => false
     | some l =>
       let b := (efmt 0).val (wbits (f.rd sb) 0 32)
       sb != 0 && !b.isNan && (List.range f.rows).all (fun r => !((f.slots.getD l (Slot.init 0)).thr r).lt b))

/-- The slot whose thresholds the pruning decision reads: an error there is read too (R268, R443). -/
def Flow.pruneReads (f : Flow) (t : BitVec 4) (sb : BitVec 5) : List RegRef :=
  match (f.slot t).link with
  | some l => if (f.slot t).p || sb = 0 || ((efmt 0).val (wbits (f.rd sb) 0 32)).isNan then [] else [.acc l]
  | none => []

/-- The scale register that a word reads under a block-scaled format (R42, R443). -/
def Flow.scaleRefs (f : Flow) : List RegRef := if isScaled f.fmtc && f.svp.getLsbD 6 then [.v (wbits f.svp 0 6)] else []

/-- A dropped word (R268). -/
def Flow.dropMop (f : Flow) (t : BitVec 4) : Flow :=
  let x := f.slot t
  f.setSlot t { x with p := true, dropc := if x.dropc = BitVec.allOnes 32 then x.dropc else x.dropc + 1 }

/-- Whether the word takes over the X claim of a VLDW `.mx` of its convoy (R330). -/
def Flow.takesFeed (f : Flow) (c : Bool) (vb : Nat) : Option Feed :=
  match f.convoy.feed with
  | some x => if !f.starts c && x.reg == vb then some x else none
  | none => none

/-- A MOP or MOPA (R268, R269). `a` gives the A operand of a row, `sa` the scale of its fragment of a step; `src` is MOPA's source
slot. With VL = 0 one that pruning would not drop makes the check of R42 all the same, as an ILLEGAL that R211 leaves in force (log
95). A word that takes B from a feed names no register group there, so it makes no GROUP check on vb (log 118). -/
def mopWord (s : State) (i : Instr) (c typeOk : Bool) (groups : List (BitVec 6)) (bad : Bool) (aRefs : List RegRef)
    (t : BitVec 4) (vb : BitVec 6) (r : BitVec 3) (sb : BitVec 5) (a : Flow → Nat → Nat → FVal) (sa : Flow → Nat → Nat → FVal)
    (src : Option (BitVec 4)) : Res :=
  let f := s.me
  let feed := f.takesFeed c vb.toNat
  let claims : List Pipe := if feed.isSome then [] else [.x]
  let dropped := f.prunes t sb
  let reads := if dropped then [] else
    aRefs ++ (if feed.isSome then [] else f.refs vb) ++ [accRef t] ++ (src.map accRef).toList ++ f.scaleRefs
  let svp : Bool × Trap := (!dropped && f.svpBad f.fmtc, ill subSvp)
  let g (f : Flow) : Flow := { f with convoy := { f.convoy with feed := if feed.isSome then none else f.convoy.feed } }
  mxWord s i c claims typeOk groups ((if sb = 0 then [] else sRefs [sb]) ++ f.pruneReads t sb ++ reads)
    ⟨[svp], [(bad, mxState 0), svp], g⟩
    (fun s =>
      let rep := r.toNat + 1
      let k := fragK f.fmtc
      let b := match feed with | some x => f.feedB x | none => f.regB vb.toNat
      if dropped then .done (s.modMe (fun f => (f.dropMop t).takeMx none))
      else
        let cost := rep * stepCycles f.fmtc * popN 4 f.qm.toNat * mxPrice f.fmtc
        .done ((s.charge f.tenant f.key.launch cost).modMe (fun f =>
          let x := f.slot t
          let sums := x.sums.zipIdx.map (fun p => mopRow x.kind rep k f.tile (a f p.2) b (sa f p.2) (f.fragScale 0) p.1)
          let f' := f.setSlot t { x with sums := sums, z := false, rc := 0 }
          let f' := match src with
            | some q => let y := f'.slot q; f'.setSlot q { y with rc := (y.rc + rep * k) % 128 }
            | none => f'
          f'.takeMx none)))

/-- MOP, R266, R268. With B from a VLDW .mx feed no GROUP check is made on vb (DESIGN CHOICE, log 118). -/
def execMop (c : Bool) (a b : BitVec 6) (t : BitVec 4) (r : BitVec 3) (p : BitVec 5) (s : State) : Res :=
  let rep := r.toNat + 1
  mopWord s (.mop c a b t r p) c (decide (s.me.fmtc ≤ 27)) (if (s.me.takesFeed c b.toNat).isSome then [a] else [a, b])
    (mopBad s.me t) (s.me.refs a) t b r p
    (fun f row => let str := f.gstr a.toNat f.grp; fun x => f.operand str (row * rep * fragK f.fmtc + x))
    (fun f row j => f.fragScale 128 ((row * rep + j) * fragK f.fmtc)) none

/-- MOPA, R269: A through the down-converter from a sum slot. -/
def execMopa (c : Bool) (q : BitVec 4) (b : BitVec 6) (t : BitVec 4) (r : BitVec 3) (p : BitVec 5) (s : State) : Res :=
  let kq := (s.me.slot q).kind
  let fc := s.me.fmtc
  mopWord s (.mopa c q b t r p) c (decide (fc ≤ 13)) (if (s.me.takesFeed c b.toNat).isSome then [] else [b])
    (mopBad s.me t || kq == 2 || (kq == 0 && decide (8 < fc)) || (kq == 1 && decide (fc < 9))) [] t b r p
    (fun f row x => (efmt f.fmtc).val (f.conv ((f.slot q).entryVal row (((f.slot q).rc + x) % 128)))) (fun _ _ _ => .one) (some q)

/-! ### Ranked slots (R274 to R276) -/

/-- MRANK, R274. -/
def execMrank (c : Bool) (a : BitVec 5) (t q : BitVec 4) (s : State) : Res :=
  let f := s.me
  mxWord s (.mrank c a t q) c [.x] true [] (sRefs [a] ++ [accRef q, accRef t])
    ⟨[], [((f.slot t).kind != 2 || (f.slot q).kind == 2, mxState 0)], id⟩ (fun s =>
    .done (s.modMe (fun f =>
      let x := f.slot q
      if x.p then (f.setSlot q { x with p := false }).takeMx none
      else
        let n := min f.vlN 128
        let base := wbits (f.rd a) 0 32
        let y := (List.range f.rows).foldl (fun y r =>
          (List.range n).foldl (fun y col =>
            let v := if x.kind = 1 then convert 0 .rne false (x.entryVal r col) else rowCode (x.sums.getD r 0) col
            y.insert r v ((base + col) % 2 ^ 32) true) y) (f.slot t)
        ((f.setSlot t { y with z := false }).setSlot q { x with link := some t.toNat }).takeMx none)))

/-- The first address of row r. -/
def rowAt (base : Nat) (stride : Int) (r : Nat) : Nat := (((base : Int) + (r : Int) * stride) % (2 ^ 64 : Int)).toNat

/-- The first failure over rows of n bytes, row r at base + r × stride: per address XLATE, then HOME_LOST (R278). -/
def State.rowsErr (s : State) (base : Nat) (stride : Int) (n : Nat) (acc : Acc) : Nat → Nat → Option (XErr × Nat)
  | 0, _ => none
  | k + 1, r =>
    match s.rangeErr (s.ctx s.me) (rowAt base stride r) acc n with
    | some e => some e
    | none => s.rowsErr base stride n acc k (r + 1)

/-- The rows as the flow's loads read them, or DATAERR. -/
def State.readRows (s : State) (base : Nat) (stride : Int) (n : Nat) : Nat → Nat → Except Trap (List (List Byte))
  | 0, _ => .ok []
  | k + 1, r =>
    match s.readRange s.me (rowAt base stride r) n with
    | .error t => .error t
    | .ok (bs, _) =>
      match s.readRows base stride n k (r + 1) with
      | .error t => .error t
      | .ok rest => .ok (bs :: rest)

/-- The exceptions of the memory side that hold before anything is read: XLATE and HOME_LOST of every row. -/
def rowTraps (s : State) (base : Nat) (stride : Int) (n : Nat) (acc : Acc) : List (Bool × Trap) :=
  match s.rowsErr base stride n acc s.me.rows 0 with
  | some (e, a) => [(true, errTrap e (w64 a))]
  | none => []

/-- Charges the bytes of every row. -/
def State.chargeRows (s : State) (base : Nat) (stride : Int) (n rows : Nat) : State :=
  (List.range rows).foldl (fun (s : State) (r : Nat) =>
    (s.rangeXls (s.ctx s.me) (rowAt base stride r) .r n).foldl
      (fun (s : State) (x : Xl) => s.chargeBits s.me x.pa 8) s) s

/-- The rows as the flow's loads read them once they are in reach, charged, or the DATAERR of one. -/
def State.loadRows (s : State) (base : Nat) (stride : Int) (n : Nat) (eff : Flow → List (List Byte) → Flow) : MxRes :=
  if s.stuck true false || s.clash ((List.range s.me.rows).map (fun r => s.rangeXls (s.ctx s.me) (rowAt base stride r) .r n)).flatten then .wait
  else
    let s := (List.range s.me.rows).foldl (fun (s : State) (r : Nat) => s.reachRange (rowAt base stride r) n) s
    match s.readRows base stride n s.me.rows 0 with
    | .error t => .fail s t
    | .ok rows => .done ((s.chargeRows base stride n s.me.rows).modMe (fun f => (eff f rows).takeMx none))

/-- MRMERGE, R275. -/
def execMrmerge (c : Bool) (a : BitVec 5) (t : BitVec 4) (s : State) : Res :=
  let base := (s.me.rd a).toNat
  let n := 8 * (s.me.slot t).k
  mxWord s (.mrmerge c a t) c [.x, .l] true [] (sRefs [a] ++ [accRef t])
    ⟨[], [((s.me.slot t).kind != 2, mxState 0), (base % 8 != 0, alignT (s.me.rd a))] ++ rowTraps s base n n .r, id⟩
    (fun s => s.loadRows base n n (fun f rows => f.setSlot t { ((f.slot t).mergeRows rows) with z := false }))

/-- MTHR, R276: it waits for every earlier word of the unit. -/
def execMthr (c : Bool) (d : BitVec 6) (t : BitVec 4) (s : State) : Res :=
  mxWord s (.mthr c d t) c [.x] (classF s.me.fmtc) [d] [accRef t]
    ⟨[], [((s.me.slot t).kind != 2, mxState 0)], id⟩ (fun s =>
    if !s.me.mxq.isEmpty then .wait
    else .done (s.modMe (fun f =>
      let xs := (List.range f.vlN).map (fun i => if i < f.rows then f.conv ((f.slot t).thr i) else 0)
      (f.writeElems d.toNat f.grp f.ew 15 xs).takeMx none)))

/-! ### Moving slots (R278, R279) -/

/-- Bytes of a row of a slot in memory. -/
def Slot.rowBytes (x : Slot) : Nat := if x.kind = 2 then 8 * x.k else 512

/-- The checks of MLDA and MSTA up to the memory side. -/
def moveTraps (s : State) (a b : BitVec 5) (t : BitVec 4) (acc : Acc) : List (Bool × Trap) :=
  let w := if (s.me.slot t).kind = 2 then 8 else 4
  let base := s.me.rd a
  let st := s.me.rd b
  [(base.toNat % w != 0, alignT base), (st.toNat % w != 0, alignT (base + st))] ++
    rowTraps s base.toNat st.toInt (s.me.slot t).rowBytes acc

/-- MLDA, R278. -/
def execMlda (c : Bool) (a b : BitVec 5) (t : BitVec 4) (s : State) : Res :=
  let base := (s.me.rd a).toNat
  let st := (s.me.rd b).toInt
  let n := (s.me.slot t).rowBytes
  mxWord s (.mlda c a b t) c [.x, .l] true [] (sRefs [a, b]) ⟨[], moveTraps s a b t .r, id⟩ (fun s =>
    s.loadRows base st n (fun f rows =>
      let x := (f.slot t).cleared f.rows
      let x := if x.kind = 2 then x.mergeRows rows
        else { x with sums := rows.map (fun bs => BitVec.ofNat 4096 (natLE bs)) }
      (f.setSlot t { x with z := false }).mendSlot t))

/-- The virtual addresses of the bytes of an MSTA's rows, in order. -/
def rowVas (base : Nat) (st : Int) (n rows : Nat) : List Nat :=
  ((List.range rows).map (fun r => (List.range n).map (fun i => (rowAt base st r + i) % 2 ^ 64))).flatten

/-- The exceptions of MSTA in their order; DATAERR is R427's, at the first byte that fails. -/
def mstaTraps (a b : BitVec 5) (t : BitVec 4) (s : State) : List (Bool × Trap) :=
  let base := (s.me.rd a).toNat
  let st := (s.me.rd b).toInt
  let n := (s.me.slot t).rowBytes
  let pas := ((List.range s.me.rows).map (fun r => (s.rangeXls (s.ctx s.me) (rowAt base st r) .w n).map (·.pa))).flatten
  moveTraps s a b t .w ++
    (match s.lostByte pas with
     | some i => [(true, dataErrT 1 (w64 ((rowVas base st n s.me.rows).getD i 0)))]
     | none => [])

/-- MSTA, R278: its stores are stores of the flow, row by row. D is set once every check has passed (R397). -/
def execMsta (c : Bool) (a b : BitVec 5) (t : BitVec 4) (s : State) : Res :=
  let base := (s.me.rd a).toNat
  let st := (s.me.rd b).toInt
  let n := (s.me.slot t).rowBytes
  mxWord s (.msta c a b t) c [.x, .s] true [] (sRefs [a, b] ++ [accRef t]) ⟨[], mstaTraps a b t s, id⟩ (fun s =>
    let s := s.orDirtyAll (s.ctx s.me) (rowVas base st n s.me.rows)
    match firstTrap (mstaTraps a b t s) with
    | some e => .fail s e
    | none =>
      let f := s.me
      let x := f.slot t
      let rows := (List.range f.rows).map (fun r =>
        let data := if x.kind = 2 then packCodes 64 (x.rowWords r) else (x.sums.getD r 0).toNat
        let xs := s.rangeXls (s.ctx f) (rowAt base st r) .w n
        (f.bitStores (f.seq + r) (rowAt base st r) 0 (8 * n) data xs, xs))
      let s := (rows.map (·.2)).flatten.foldl (fun s x => s.setDirty (s.ctx f) x) s
      .done (s.modMe (fun f =>
        { f with sb := f.sb ++ (rows.map (·.1)).flatten, seq := f.seq + f.rows, mxq := f.mxq ++ [some (f.seq + f.rows - 1)] })))

/-- MRD's TYPE check against the slot (R265). -/
def mrdTypeBad (f : Flow) (q : BitVec 4) (row : Word) : Bool :=
  if row = BitVec.allOnes 64 ∨ (f.slot q).kind = 2 then !(f.fmtc == 0 || f.fmtc == 32 || f.fmtc == 33)
  else !classN f.fmtc

/-- The codes MRD lands (R279). -/
def mrdElems (f : Flow) (q : BitVec 4) (row : Word) : List Nat :=
  let x := f.slot q
  if row = BitVec.allOnes 64 then [x.nanc.toNat, x.dropc.toNat, if x.kind = 2 then x.k else 0, x.kind]
  else if x.kind = 2 then ((x.rowWords row.toNat).map (fun w => [w % 2 ^ 32, w >>> 32])).flatten
  else (List.range 128).map (fun c => f.conv (x.entryVal row.toNat c))

/-- MRD, R279. With VL = 0 it lands nothing and takes no tag, but a Lost one is Free from its issue on (R53, log 95). -/
def execMrd (c : Bool) (d : BitVec 6) (a : BitVec 5) (t q : BitVec 4) (s : State) : Res :=
  let row := s.me.rd a
  let n := (s.me.vlN * s.me.ew + 7) / 8
  let tags := s.me.tagTraps t.toNat n
  mxWord s (.mrd c d a t q) c [.x] true [d] (sRefs [a] ++ [accRef q])
    ⟨(mrdTypeBad s.me q row, ill subType) :: tags,
      [(mrdTypeBad s.me q row, ill subType), (row != BitVec.allOnes 64 && decide (s.me.rows ≤ row.toNat), mxState row)] ++ tags,
      fun f => match f.tags.getD t.toNat .free with | .lost => f.setTag t.toNat .free | _ => f⟩
    (fun s =>
    if !s.landRoom s.me t.toNat n then .wait
    else .done (s.modMe (fun f =>
      let xs := mrdElems f q row
      let e := f.newLanding d.toNat (2 ^ f.vlN - 1)
      let data := (List.range f.vlN).map (fun i => (i, xs.getD i 0 % 2 ^ f.ew))
      (f.setTag t.toNat (.pending { e with data := data, complete := true })).takeMx none)))

end Sys2Proof.Machine
end

