-- ==== Sys2Proof/Machine/Plans.lean ====
section
/-! DEFINITION. Access plans: R207, R208, R225 to R253. -/

namespace Sys2Proof.Machine

/-! ### The arena and the plan object -/

/-- Places of the tenant's arena in use: plan objects and save records, as (offset, bytes). -/
def State.arenaUsed (s : State) (t : Nat) : List (Nat × Nat) :=
  (s.plans.filter (fun p => p.tenant == t)).map (fun p => (p.off, p.size)) ++
    (s.saves.filter (fun r => r.tenant == t)).map (fun r => (r.off, r.size))

/-- The lowest multiple of 256 at which n bytes of the arena are free (R226, R251). -/
def State.arenaFind (s : State) (t n : Nat) : Option Nat :=
  let used := s.arenaUsed t
  let cands := sortBy id (0 :: used.map (fun u => (u.1 + u.2 + 255) / 256 * 256))
  cands.find? (fun c => decide (c + n ≤ (s.ten t).arenaSize) && used.all (fun u => decide (c + n ≤ u.1 ∨ u.1 + u.2 ≤ c)))

/-- The generation of an arena place (R226). -/
def State.planGen (s : State) (t off : Nat) : Nat := aget s.planGens (t, off) 1

/-- Size(N) of R228. -/
def planSize (n : Nat) : Nat := 256 * ((272 + 36 * n + 255) / 256)

/-- The live object of a handle in a context, by the GEN that its header holds (R226, R227). -/
def State.planOf (s : State) (t : Nat) (h : Word) : Option PlanRec :=
  if wbits h 56 8 != 0 then none
  else
    let x := s.ten t
    s.plans.find? (fun p => p.tenant == t && p.off == wbits h 0 40 &&
      natLE (s.keyBytes (x.arenaPa (p.off + 0x24)) x.rootKey 2) == wbits h 40 16)

def PlanRec.handle (p : PlanRec) : Word := planHandle p.gen p.off

/-- n bytes of the object at a place of the object, as they stand (R227). -/
def State.planGet (s : State) (p : PlanRec) (o n : Nat) : Nat :=
  let t := s.ten p.tenant
  natLE (s.keyBytes (t.arenaPa (p.off + o)) t.rootKey n)

/-- Writes bytes of the object. -/
def State.planPut (s : State) (p : PlanRec) (o : Nat) (bs : List Byte) : State :=
  let t := s.ten p.tenant
  s.devWrite (t.arenaPa (p.off + o)) t.rootKey bs

/-- Header fields of R228. -/
def State.pCode (s : State) (p : PlanRec) : Nat := s.planGet p 0 8 % 8
def State.pSub (s : State) (p : PlanRec) : Nat := bits (s.planGet p 0 8) 4 4
def State.pCause (s : State) (p : PlanRec) : Nat := bits (s.planGet p 0 8) 8 8
def State.pFaddr (s : State) (p : PlanRec) : Word := w64 (s.planGet p 8 8)
def State.pTbase (s : State) (p : PlanRec) : Nat := s.planGet p 0x10 8
def State.pN (s : State) (p : PlanRec) : Nat := s.planGet p 0x18 8 % 2 ^ 17
def State.pE (s : State) (p : PlanRec) : Nat := bits (s.planGet p 0x18 8) 17 4
def State.pL (s : State) (p : PlanRec) : Nat := bits (s.planGet p 0x18 8) 32 32
def State.pSize (s : State) (p : PlanRec) : Nat := s.planGet p 0x74 4
def State.pKind (s : State) (p : PlanRec) : Nat := s.planGet p 0x20 4

/-- A plan's sources (R228): per source its base, count and index size. -/
structure Sources where
  kind : Nat
  a : Nat
  na : Nat
  wa : Nat
  b : Nat
  nb : Nat
  wb : Nat
  deriving DecidableEq, Repr

def State.pSources (s : State) (p : PlanRec) : Sources :=
  let k := s.pKind p
  ⟨k % 4, s.planGet p 0x28 8, s.planGet p 0x30 4, if bit k 8 then 8 else 4,
   s.planGet p 0x38 8, s.planGet p 0x34 4, if bit k 9 then 8 else 4⟩

/-- rank(p) and u_k as the body holds them (R229). -/
def State.pRank (s : State) (p : PlanRec) (i : Nat) : Nat := s.planGet p (s.planGet p 0x64 4 + 4 * i) 4
def State.pUnique (s : State) (p : PlanRec) (k : Nat) : Nat := s.planGet p (s.planGet p 0x60 4 + 8 * k) 8
/-- The first failure of a read of the object, as parts of it (place and bytes): HOME_LOST, then DATAERR, with the plan's
handle as EVAL (R444, R448, log 120). -/
def State.planErr (s : State) (p : PlanRec) (parts : List (Nat × Nat)) (h : Word) : Option Trap :=
  if s.dev.dieLost == 0 && s.bad.isEmpty && s.badCache.isEmpty then none
  else
    parts.findSome? (fun r => (List.range r.2).findSome? (fun i => s.readErr ((s.ten p.tenant).arenaPa (p.off + r.1 + i)) h))

/-- The words of the body that give the table element of a position (R229). -/
def State.elementParts (s : State) (p : PlanRec) (i : Nat) : List (Nat × Nat) :=
  [(s.planGet p 0x64 4 + 4 * i, 4), (s.planGet p 0x60 4 + 8 * s.pRank p i, 8)]

/-- Whether a byte of the object lies on a lost die. -/
def State.objLost (s : State) (p : PlanRec) : Bool :=
  s.dev.dieLost != 0 && (List.range (p.size / 256)).any (fun i => (s.homeLost ((s.ten p.tenant).arenaPa (p.off + 256 * i))).isSome)

/-- The lowest position of the duplicate group of u_k. -/
def State.pFirst (s : State) (p : PlanRec) (k : Nat) : Nat :=
  s.planGet p (s.planGet p 0x68 4 + 4 * s.planGet p (s.planGet p 0x6C 4 + 4 * k) 4) 4
/-- The virtual address of the table element of position i (R225). -/
def State.pTarget (s : State) (p : PlanRec) (k : Nat) : Nat := (s.pTbase p + s.pUnique p k * 2 ^ s.pE p) % 2 ^ 64

/-- The header of an object (R228): everything but STATE, FADDR, FP and what the body decides. -/
def State.putHeader (s : State) (p : PlanRec) (tbase n e l : Nat) (src : Sources) : State :=
  let shape := n + e <<< 17 + l <<< 32
  let kind := src.kind + (b2n (src.wa == 8)) <<< 8 + (b2n (src.wb == 8)) <<< 9
  s.planPut p 0 (bytesLE 8 1 ++ bytesLE 8 0 ++ bytesLE 8 tbase ++ bytesLE 8 shape ++ bytesLE 4 kind ++
    bytesLE 2 p.gen ++ bytesLE 2 0 ++ bytesLE 8 src.a ++ bytesLE 4 src.na ++ bytesLE 4 src.nb ++ bytesLE 8 src.b ++
    bytesLE 8 0 ++ bytesLE 8 0 ++ bytesLE 8 0 ++ bytesLE 28 0 ++ bytesLE 4 p.size ++ bytesLE 136 0)

/-! ### Reading and analysing indices -/

/-- The bytes of index word i of a source, as loads at the word's home (R233), or the failure with its address:
XLATE, HOME_LOST, then DATAERR. -/
def State.idxBytes (s : State) (c : Ctx) (base w i : Nat) : Except (Nat × Nat × Nat) (List Byte) :=
  let va := (base + w * i) % 2 ^ 64
  match s.rangeErr c va .r w with
  | some (e, a) => .error (e.1, e.2, a)
  | none =>
    let xs := s.rangeXls c va .r w
    match s.badOf xs with
    | some (sub, _) => .error (7, sub, va)
    | none => .ok (xs.map (fun x => s.pointByte x.pa x.key))

/-- For each distinct index in ascending order, the lowest position at which it stands (R225). -/
def inverseOf (idx : List Nat) : List Nat :=
  let us := sortBy id (dedupN idx)
  us.map (fun u => idx.findIdx (fun x => x == u))

/-- Whether a source description is a composite's, or an inverse composite's. -/
def Sources.composite (src : Sources) : Bool := src.kind == 2 || src.kind == 3

/-- The positions of a composite's outer range that no inner index names. -/
def Build.spares (b : Build) (src : Sources) : List Nat :=
  if src.composite then (List.range src.na).filter (fun i => !b.inner.contains i) else []

/-- Whether a build has read what its body needs, and reads the outer words that only the fingerprint takes in (log 122). -/
def Build.atSpare (b : Build) (src : Sources) : Bool :=
  src.composite && decide (src.nb ≤ b.inner.length) && decide (b.inner.length ≤ b.outer.length)

/-- The index word that a build reads next, and what its value must be below (R240): of a composite the inner range,
judged against the outer count, then the outer words that the inner indices name, then the rest of the outer range for the
fingerprint (R234); else the range in ascending position.
The base, index size and position, the bound (none for no limit), and the record of a value that is not below it. -/
def Build.nextRead (b : Build) (src : Sources) (lim : Nat) : Option (Nat × Nat × Nat × Option Nat × (Nat → Nat × Nat × Nat)) :=
  let bound := if lim = 0 then none else some lim
  let outer (i : Nat) := some (src.a, src.wa, i, bound, fun _ => (9, 1, (src.a + src.wa * i) % 2 ^ 64))
  if b.pre.isSome || b.err.isSome then none
  else if src.composite then
    if b.inner.length < src.nb then some (src.b, src.wb, b.inner.length, some src.na, fun v => (9, 2, v))
    else if b.outer.length < b.inner.length then outer (b.inner.getD b.outer.length 0)
    else ((b.spares src)[b.spare.length]?).map (fun i => (src.a, src.wa, i, none, fun v => (9, 1, v)))
  else if b.outer.length < src.na then outer b.outer.length
  else none

/-- A build with one index more, in the pass it is in. -/
def Build.push (b : Build) (src : Sources) (v : Nat) : Build :=
  if src.composite && decide (b.inner.length < src.nb) then { b with inner := b.inner ++ [v] }
  else if b.atSpare src then { b with spare := b.spare ++ [some v] }
  else { b with outer := b.outer ++ [v] }

/-- A build whose next index word cannot be read: it fails, but for a word that its body does not need. -/
def Build.miss (b : Build) (src : Sources) (e : Nat × Nat × Nat) : Build :=
  if b.atSpare src then { b with spare := b.spare ++ [none] } else { b with err := some e }

/-- The index sequence of a build that has read all it needs, or its first failure: cause, subcode, FADDR (R240, R253). -/
def Build.result (b : Build) (src : Sources) : Except (Nat × Nat × Nat) (List Nat) :=
  match b.err with
  | some e => .error e
  | none => .ok (if src.kind = 1 ∨ src.kind = 3 then inverseOf b.outer else b.outer)

/-- One byte of the CRC-64/ECMA-182 of R234. -/
def crcByte (c x : Nat) : Nat :=
  (List.range 8).foldl (fun c _ => if bit c 63 then ((c <<< 1) % 2 ^ 64) ^^^ 0x42F0E1EBA9EA3693 else (c <<< 1) % 2 ^ 64)
    (c ^^^ (x <<< 56))

def crc64 (bs : List Byte) : Nat := bs.foldl (fun c b => crcByte c b.toNat) 0

/-- The bytes that a composite's build has read of outer word i: what its body took first of one that an inner index
names, else what it read for the fingerprint; none of one that could not be read (log 122). -/
def Build.outerBytes (b : Build) (src : Sources) (i : Nat) : List Byte :=
  if b.inner.contains i then bytesLE src.wa (b.outer.getD (b.inner.findIdx (· == i)) 0)
  else
    match b.spare.getD ((b.spares src).findIdx (· == i)) none with
    | some v => bytesLE src.wa v
    | none => []

/-- The fingerprint of what a build has read (R234): source A's range, then source B's. -/
def Build.print (b : Build) (src : Sources) : Nat :=
  if src.composite then crc64 (((List.range src.na).map (b.outerBytes src)).flatten ++ (b.inner.map (bytesLE src.wb)).flatten)
  else crc64 ((b.outer.map (bytesLE src.wa)).flatten)

/-- The lines of the schedule as runs (R229): (first line, lines). -/
def runsOf : List Nat → List (Nat × Nat)
  | [] => []
  | l :: ls =>
    match runsOf ls with
    | (a, n) :: rest => if a = l + 1 then (l, n + 1) :: rest else (l, 1) :: (a, n) :: rest
    | [] => [(l, 1)]

/-- The 128-byte lines that an element of n bytes at a touches. -/
def linesOf (a n : Nat) : List Nat := (List.range ((a % 128 + n + 127) / 128)).map (fun i => (a / 128 + i) % 2 ^ 57)

def align8 (n : Nat) : Nat := (n + 7) / 8 * 8

/-- The body of R229 and the header fields it decides, written into the object. -/
def State.putBody (s : State) (p : PlanRec) (idx : List Nat) (fp : Nat) : State :=
  let n := idx.length
  let us := sortBy id (dedupN idx)
  let u := us.length
  let ranks := idx.map (fun x => us.findIdx (fun y => y == x))
  let grp := sortBy (fun i => ranks.getD i 0) (List.range n)
  let starts := (List.range u).map (fun k => (ranks.filter (fun r => decide (r < k))).length)
  let e := 2 ^ s.pE p
  let tb := s.pTbase p
  let elLines := us.map (fun x => linesOf ((tb + x * e) % 2 ^ 64) e)
  let runs := runsOf (sortBy id (dedupN elLines.flatten))
  let sched := runs.map (fun r =>
    bytesLE 8 (r.1 * 128) ++ bytesLE 4 r.2 ++
      bytesLE 4 (elLines.findIdx (fun ls => ls.any (fun l => decide (r.1 ≤ l ∧ l < r.1 + r.2)))))
  let ou := 0x100
  let opos := align8 (ou + 8 * u)
  let ogrp := align8 (opos + 4 * n)
  let ost := align8 (ogrp + 4 * n)
  let osc := align8 (ost + 4 * u)
  let w4 (l : List Nat) : List Byte := (l.map (bytesLE 4)).flatten
  let s := s.planPut p 0x18 (bytesLE 8 (n + s.pE p <<< 17 + s.pL p <<< 32))
  let s := s.planPut p 0x40 (bytesLE 8 fp ++ bytesLE 8 (us.headD 0) ++ bytesLE 8 (us.getLastD 0) ++
    w4 [u, runs.length, ou, opos, ogrp, ost, osc])
  let s := s.planPut p ou ((us.map (bytesLE 8)).flatten)
  let s := s.planPut p opos (w4 ranks)
  let s := s.planPut p ogrp (w4 grp)
  let s := s.planPut p ost (w4 starts)
  s.planPut p osc sched.flatten

/-! ### Watches (R232 to R234) -/

/-- The words that a plan's sources lie in, as far as they translate: physical and virtual address. -/
def State.sourceWords (s : State) (c : Ctx) (src : Sources) : List (Nat × Nat) :=
  let ws (base n w : Nat) : List (Nat × Nat) :=
    (List.range n).filterMap (fun i =>
      let va := (base + w * i) % 2 ^ 64
      match s.access c va .r with
      | .ok x => some (x.pa / 8 * 8, va / 8 * 8)
      | .error _ => none)
  (ws src.a src.na src.wa ++ ws src.b src.nb src.wb).eraseDups

/-- Whether a word can be watched (R232). -/
def watchable (w : Nat) : Bool :=
  match regionOf w with
  | .hbm => true
  | .pool => true
  | .host _ => true
  | _ => false

/-- Whether the device keeps a watch on a word: on host memory only with CXL (R431). -/
def State.canWatch (s : State) (w : Nat) : Bool :=
  match regionOf w with
  | .host _ => s.dev.hostCxl
  | _ => watchable w

def sliceWord (w : Nat) : Bool := match regionOf w with | .host _ => false | _ => watchable w

/-- Whether two words share a set of a slice's filter (R234). -/
def sameSet (a b : Nat) : Bool := a / 128 % 1024 == b / 128 % 1024 && sliceWord a && sliceWord b && homeDie a == homeDie b

/-- Watches selected by p are lost: a Ready plan that loses one is Watch-lost (R230, R234). -/
def State.loseWatches (s : State) (p : Watch → Bool) : State :=
  let gone := s.watches.filter p
  let s := { s with watches := s.watches.filter (fun w => !p w) }
  gone.foldl (fun s w => if s.planState w.tenant w.off = 2 then s.setPlanState w.tenant w.off 4 0 0 else s) s

/-- A watch on a host word is registered where the HCA keeps its line (R232, log 115). -/
def State.addHostWatch (s : State) (t off a va : Nat) : State :=
  let held (s : State) : Bool := s.coh.hca.any (fun h => h.addr == a / 64 * 64)
  let s := if held s then s else s.hcaTake a 0 false
  if held s then { s with watches := ⟨a, va, t, off, 0⟩ :: s.watches } else s

/-- A watch is registered; a full set of the filter gives up the entry of the plan least recently applied, ties to
the lowest way (R234). -/
def State.addWatch (s : State) (t off a va : Nat) : State :=
  if s.watches.any (fun w => w.addr == a && w.tenant == t && w.off == off) then s
  else if !sliceWord a then s.addHostWatch t off a va
  else
    let mates := s.watches.filter (fun w => sameSet w.addr a)
    match mates.find? (fun w => w.addr / 128 == a / 128 && w.tenant == t && w.off == off) with
    | some w => { s with watches := ⟨a, va, t, off, w.way⟩ :: s.watches }
    | none =>
      match (List.range 8).find? (fun k => !(mates.any (fun w => w.way == k))) with
      | some k => { s with watches := ⟨a, va, t, off, k⟩ :: s.watches }
      | none =>
        let used (w : Watch) : Nat :=
          match s.plans.find? (fun p => p.tenant == w.tenant && p.off == w.off) with
          | some p => p.used
          | none => 0
        match argMin (fun w => used w * 8 + w.way) mates with
        | none => s
        | some v =>
          let s := s.loseWatches (fun w => sameSet w.addr a && w.way == v.way)
          { s with watches := ⟨a, va, t, off, v.way⟩ :: s.watches }

/-- Registers every watch of a plan afresh (R233, R241). -/
def State.watchPlan (s : State) (c : Ctx) (p : PlanRec) : State :=
  let s := { s with watches := s.watches.filter (fun w => !(w.tenant == p.tenant && w.off == p.off)) }
  ((s.sourceWords c (s.pSources p)).filter (fun a => s.canWatch a.1)).foldl (fun s a => s.addWatch p.tenant p.off a.1 a.2) s

/-- Whether every word of the sources is watched; one that does not translate is not (R230, R232). -/
def State.allWatched (s : State) (c : Ctx) (p : PlanRec) : Bool :=
  let src := s.pSources p
  let held (base n w : Nat) : Bool := (List.range n).all (fun i =>
    match s.access c ((base + w * i) % 2 ^ 64) .r with
    | .ok x => s.watches.any (fun w => w.addr == x.pa / 8 * 8 && w.tenant == p.tenant && w.off == p.off)
    | .error _ => false)
  held src.a src.na src.wa && held src.b src.nb src.wb

/-! ### Builds (R240) and the plan store (R235) -/

/-- A plan becomes resident in a cluster's store: at most 64 plans, the least recently applied leaving (R235). -/
def State.reside (s : State) (cl : Nat) (p : PlanRec) : State :=
  let key := (cl, p.tenant, p.off)
  let mine := (s.resident.filter (fun r => r.1 == cl && r != key)).take 63
  { s with resident := key :: (mine ++ s.resident.filter (fun r => r.1 != cl)) }

/-- A build places its plan in a cluster's store (R235): the plan least recently applied leaves a full one, and a plan that
has not been applied stands behind those that have (log 53). -/
def State.settleIn (s : State) (cl : Nat) (p : PlanRec) : State :=
  let key := (cl, p.tenant, p.off)
  if s.resident.contains key then s
  else { s with resident := (s.resident.filter (fun r => r.1 == cl)).take 63 ++ [key] ++ s.resident.filter (fun r => r.1 != cl) }

/-- A plan is applied: that is its last use (R234), and it becomes resident. -/
def State.useplan (s : State) (cl : Nat) (p : PlanRec) : State :=
  let s := s.reside cl p
  { s with
    plans := s.plans.map (fun q => if q.tenant = p.tenant ∧ q.off = p.off then { q with used := s.nextId } else q)
    nextId := s.nextId + 1 }

def Job.isBuild (j : Job) : Bool := match j.kind with | .build .. => true | _ => false

/-- Whether the cluster's builder takes another build: at most 16 (R240). -/
def State.builderFree (s : State) (cl : Nat) : Bool :=
  decide ((s.jobs.filter (fun j => j.isBuild && j.die * 16 + j.cluster == cl)).length < 16)

/-- Hands a build to the cluster's builder: its watches are registered first (R233). -/
def State.startBuild (s : State) (f : Flow) (p : PlanRec) (pre : Option (List Nat × Nat)) : State :=
  let c := { s.ctx f with core := none }
  let s := s.watchPlan c p
  { s with
    jobs := s.jobs ++ [⟨s.nextId, f.loc.die, f.loc.cluster, f.tenant, f.key, c, .build ⟨p.off, false, pre, [], [], [], none⟩⟩]
    nextId := s.nextId + 1 }

/-- A new object of n positions for the flow (R240, R251). -/
def State.newPlan (s : State) (f : Flow) (off n bound : Nat) : PlanRec :=
  ⟨f.tenant, off, s.planGen f.tenant off, planSize n, bound, 0⟩

/-- Allocates an object, starts its build and gives the flow its handle (R240, R246, R247). -/
def State.createPlan (s : State) (x : BitVec 5) (off tbase n e l bound : Nat) (src : Sources)
    (pre : Option (List Nat × Nat)) : State :=
  let f := s.me
  let p := s.newPlan f off n bound
  let s := { s with plans := s.plans ++ [p] }
  let s := (s.putHeader p tbase n e l src).startBuild f p pre
  s.beginScalar.modMe (fun f => (f.wrBusy x p.handle).next)

/-- The bound L that a build judges by: the object's own, and for an inverse that of the plan it inverts (R240, R246). -/
def State.buildBound (s : State) (p : PlanRec) : Nat := if s.pKind p % 2 = 1 then p.bound else s.pL p

/-- Charges n bytes at a place to the tenant of a job (R240, R295). -/
def State.chargeJob (s : State) (j : Job) (pa n : Nat) : State :=
  ({ s with freeCtr := s.freeCtr + 1 }).charge j.tenant j.flow.launch (n * s.bytePrice j.die pa)

/-- Puts a build back into its job. -/
def State.putBuild (s : State) (id : Nat) (b : Build) : State :=
  { s with jobs := s.jobs.map (fun j => if j.id = id then { j with kind := .build b } else j) }

/-- The object of a build. -/
def State.builds (s : State) (j : Job) (b : Build) : Option PlanRec :=
  s.plans.find? (fun p => p.tenant == j.tenant && p.off == b.off)

/-- Whether a build has read all it needs. -/
def State.buildRead (s : State) (j : Job) (b : Build) : Bool :=
  match s.builds j b with
  | some p => (b.nextRead (s.pSources p) (s.buildBound p)).isNone
  | none => true

/-- A build reads its next index word at the word's home and judges it (R233, R240). -/
def State.buildStep (s : State) (j : Job) (b : Build) : State :=
  match s.builds j b with
  | none => s
  | some p =>
    let src := s.pSources p
    match b.nextRead src (s.buildBound p) with
    | none => s
    | some (base, w, i, bound, past) =>
      let loc : Loc := ⟨j.die, j.cluster, 0, 0⟩
      let xs := s.rangeXls j.ctx ((base + w * i) % 2 ^ 64) .r w
      let s := xs.foldl (fun s x =>
        ((s.drainPath (s.pathOf loc x.pa x.key false)).chargeCross j.tenant j.flow.launch x.pa x.key 1 false).pointRead none x.pa x.key (x.pol != 2)) s
      match s.idxBytes j.ctx base w i with
      | .error e => s.putBuild j.id (b.miss src e)
      | .ok bs =>
        let v := natLE bs
        let s := s.chargeJob j ((xs.head?.map (·.pa)).getD 0) w
        let bad := match bound with | some l => decide (l ≤ v) | none => false
        s.putBuild j.id (if bad then { b with err := some (past v) } else b.push src v)

/-- A build finishes (R230, R240, R246): the body, or the failure, and the state, charged for the bytes written. -/
def State.finishBuild (s : State) (j : Job) (b : Build) : State :=
  let s := { s with jobs := s.jobs.filter (fun k => k.id != j.id) }
  match s.builds j b with
  | none => s
  | some p =>
    let src := s.pSources p
    let r : Except (Nat × Nat × Nat) (List Nat × Nat) := match b.pre with
      | some q => .ok q
      | none =>
        match b.result src with
        | .error e => .error e
        | .ok idx => .ok (idx, b.print src)
    let r : Except (Nat × Nat × Nat) (List Nat × Nat) := match r with
      | .ok (idx, fp) =>
        if s.pSize p < planSize idx.length then .error (0x0A, 2, planSize idx.length)
        else if s.objLost p then .error (0x0F, 1, p.handle.toNat)
        else .ok (idx, fp)
      | .error e => .error e
    let home := (s.ten p.tenant).arenaPa p.off
    let s := match r with
      | .ok (idx, fp) => (s.putBody p idx fp).chargeJob j home (planSize idx.length)
      | .error (_, _, a) => (s.planPut p 8 (bytesLE 8 a)).chargeJob j home 16
    let s :=
      if b.hit then s.setPlanState p.tenant p.off 3 1 8
      else
        match r with
        | .error (cause, sub, _) => s.setPlanState p.tenant p.off 5 sub cause
        | .ok _ => s.setPlanState p.tenant p.off (if s.allWatched j.ctx p then 2 else 4) 0 0
    s.settleIn (j.die * 16 + j.cluster) p

/-- The builder of a build is lost with its die (R447): the plan leaves Building as Failed, HOME_LOST at its first index word
(log 75). -/
def State.loseBuild (s : State) (j : Job) : State :=
  match j.kind with
  | .build b =>
    (match s.builds j b with
     | some p => if s.objLost p then s else (s.planPut p 8 (bytesLE 8 (s.pSources p).a)).setPlanState p.tenant p.off 5 1 0x0F
     | none => s)
  | _ => s

/-! ### Prepare and CHECK (R207, R241) -/

/-- Whether a store of the flow, or one of its core that has ENTERed and not APPLYed, covers a watched word of the
plan (R207, log 31). -/
def State.covered (s : State) (f : Flow) (p : PlanRec) : Bool :=
  let core := f.loc.coreIdx
  let mine (a : Nat) : Bool := s.watches.any (fun w => w.addr == a && w.tenant == p.tenant && w.off == p.off)
  f.ownStores.any (fun x => mine x.addr) ||
    (s.flows.filter (fun g => g.loc.coreIdx == core)).any (fun g => g.cq.any (fun x => mine x.addr)) ||
    s.net.any (fun fl => !fl.acc.load && (match fl.origin with | .flow _ c => c == core | _ => false) && mine fl.acc.addr)

/-- The index bytes of a range re-read as loads of the flow that APPLY at their homes (R207, R234). -/
def State.rehash (s : State) (f : Flow) (base w : Nat) : Nat → Nat → Except Trap (List Byte)
  | 0, _ => .ok []
  | n + 1, i =>
    let va := (base + w * i) % 2 ^ 64
    match s.readRange f va w with
    | .error t => .error t
    | .ok (_, xs) =>
      match s.rehash f base w n (i + 1) with
      | .error t => .error t
      | .ok bs => .ok (xs.map (fun x => overlayByte f.ownStores x.pa (s.pointByte x.pa x.key)) ++ bs)

/-- The index words of a source come into reach of the flow's loads at their homes (R207). -/
def State.reachHomes (s : State) (base n w : Nat) : State :=
  (piecesOf (s.rangeXls (s.ctx s.me) base .r (n * w))).foldl (fun s p => s.reach { p.1 with pol := 2 } p.2 true) s

/-- CHECK of a plan (R207, R234): the state after it, or the exception of a re-read. -/
def State.planCheck (s : State) (p : PlanRec) : State × Option Trap :=
  let c := s.pCode p
  if (c = 2 ∨ c = 4) ∧ s.covered s.me p then (s.setPlanState p.tenant p.off 3 1 8, none)
  else if c = 4 then
    let src := s.pSources p
    let s := (s.reachHomes src.a src.na src.wa).reachHomes src.b src.nb src.wb
    match s.rehash s.me src.a src.wa src.na 0 with
    | .error t => (s, some t)
    | .ok x =>
      match s.rehash s.me src.b src.wb src.nb 0 with
      | .error t => (s, some t)
      | .ok y => if crc64 (x ++ y) = s.planGet p 0x40 8 then (s, none) else (s.setPlanState p.tenant p.off 3 2 8, none)
  else (s, none)

/-- The outcomes of Prepare (R241). -/
inductive Prep where
  | wait (s : State)
  | trap (s : State) (t : Trap)
  | ok (s : State) (p : PlanRec)

/-- Prepare (R241, R253): a plan in Building holds the word; `rebuild` rebuilds a stale or failed plan, once Failed
only. -/
def State.prepare (s : State) (h : Word) (rebuild : Bool) : Prep :=
  match s.planOf s.me.tenant h with
  | none => .trap s ⟨0x0A, 3, h, none, 0⟩
  | some p =>
    match s.planErr p [(0, 0x78)] h with
    | some t => .trap s t
    | none =>
      if s.stuck true false then .wait s
      else
        let s := s.ready true false
        let failed : Trap := ⟨s.pCause p, s.pSub p, s.pFaddr p, none, 0⟩
        let again := rebuild && !(s.me.rebuilt && s.pCode p == 5)
        if s.pCode p = 1 then .wait s
        else if s.pCode p = 5 ∧ !again then .trap s failed
        else
          match s.planCheck p with
          | (s, some t) => .trap s t
          | (s, none) =>
            if s.pCode p = 3 ∨ s.pCode p = 5 then
              if again then
                if s.builderFree s.me.loc.clusterIdx then
                  let s := s.setPlanState p.tenant p.off 1 0 0
                  .wait ((s.startBuild s.me p none).modMe (fun f => { f with rebuilt := true }))
                else .wait s
              else .trap s (if s.pCode p = 5 then failed else ⟨8, s.pSub p, h, none, 0⟩)
            else .ok s p

/-- A plan word's own exceptions before Prepare, then Prepare, then the rest. -/
def planWord (s : State) (pre : List (Bool × Trap)) (h : Word) (rebuild : Bool) (k : State → PlanRec → EngRes) : EngRes :=
  runEng s pre (fun s =>
    if !s.eqOpen then .wait s
    else
      match s.prepare h rebuild with
      | .wait s => .wait s
      | .trap s t => .trap s t
      | .ok s p => k (s.useplan s.me.loc.clusterIdx p) p)

/-- A plan word at issue. `uses`: it consumes VPROG. -/
def planIssue (i : Instr) (uses : Bool) (r : EngRes) : Res :=
  match r with
  | .wait s => if s.ahead && !s.replayOf s.me && decide (s.me.eq.length < 16) then .next (s.deferPlan i uses) else stallEngine s
  | .trap s t => .next (s.trap t)
  | .done s => .next s

/-! ### PLAN, PINV, PCOMP -/

/-- PLAN, R240. -/
def execPlan (x a b : BitVec 5) (w : Bool) (s : State) : Res :=
  let ib := (s.me.rd a).toNat
  let tb := (s.me.rd x).toNat
  let shape := s.me.rd b
  let n := wbits shape 0 17
  let e := wbits shape 17 4
  let sz := if w then 8 else 4
  let loc := lowest (inLocal ib (n * sz)) (inLocal tb 1)
  match firstTrap (featErr s.dev featPlan (.plan x a b w) ++ regErr s.me (sRefs [a, b, x]) ++
      [(n == 0 || decide (65536 < n) || decide (12 < e) || wbits shape 21 11 != 0, ⟨0x0A, 1, shape, none, 0⟩),
       (ib % sz != 0, alignT (s.me.rd a)), (loc.isSome, xlateT 0 (w64 (loc.getD 0)))]) with
  | some t => .next (s.trap t)
  | none =>
    gateEngine s (.plan x a b w) (fun s =>
      match s.arenaFind s.me.tenant (planSize n) with
      | none => .next (s.trap ⟨0x0A, 2, w64 (planSize n), none, 0⟩)
      | some off =>
        if !s.builderFree s.me.loc.clusterIdx then holdEngine s (.plan x a b w)
        else .next (s.createPlan x off tb n e (wbits shape 32 32) (wbits shape 32 32) ⟨0, ib, n, sz, 0, 0, 4⟩ none))

/-- PINV once it is at the head of EQ. -/
def pinvCore (x a : BitVec 5) (s : State) : EngRes :=
  let h := s.me.rd a
  planWord s (featErr s.dev featPlan (.pinv x a) ++ regErr s.me (sRefs [a, x])) h false (fun s p =>
    let src := s.pSources p
    let u := s.planGet p 0x58 4
    if src.kind % 2 = 1 then .trap s ⟨0x0A, 4, h, none, 0⟩
    else
      match s.planErr p [(s.planGet p 0x68 4, 4 * s.pN p), (s.planGet p 0x6C 4, 4 * u)] h with
      | some t => .trap s t
      | none =>
      gateEng s (fun s =>
        match s.arenaFind s.me.tenant (planSize u) with
        | none => .trap s ⟨0x0A, 2, w64 (planSize u), none, 0⟩
        | some off =>
          if !s.builderFree s.me.loc.clusterIdx then .wait s
          else .done (s.createPlan x off (s.me.rd x).toNat u (s.pE p) (s.pN p) (s.pL p) { src with kind := src.kind + 1 }
            (some ((List.range u).map (s.pFirst p), s.planGet p 0x40 8)))))

/-- PINV, R246: the lowest position of each duplicate group of the source. -/
def execPinv (x a : BitVec 5) (s : State) : Res := planIssue (.pinv x a) false (pinvCore x a s)

/-- The index bytes a plain plan was built from, in ascending position. -/
def State.pIdx (s : State) (p : PlanRec) : List Nat := (List.range (s.pN p)).map (fun i => s.pUnique p (s.pRank p i))

/-- PCOMP once it is at the head of EQ: the outer plan is prepared first. -/
def pcompCore (x a b : BitVec 5) (s : State) : EngRes :=
  let ha := s.me.rd a
  let hb := s.me.rd b
  planWord s (featErr s.dev featPlan (.pcomp x a b) ++ regErr s.me (sRefs [a, b])) ha false (fun s o =>
    planWord s [] hb false (fun s i =>
      let so := s.pSources o
      let si := s.pSources i
      let imax := s.planGet i 0x50 8
      runEng s [(so.kind != 0, ⟨0x0A, 4, ha, none, 0⟩), (si.kind != 0, ⟨0x0A, 4, hb, none, 0⟩),
          (decide (s.pN o ≤ imax), ⟨9, 2, w64 imax, none, 0⟩)] (fun s =>
        match (s.planErr o [(s.planGet o 0x60 4, 8 * s.planGet o 0x58 4), (s.planGet o 0x64 4, 4 * s.pN o)] ha).orElse (fun _ =>
            s.planErr i [(s.planGet i 0x60 4, 8 * s.planGet i 0x58 4), (s.planGet i 0x64 4, 4 * s.pN i)] hb) with
        | some t => .trap s t
        | none =>
        gateEng s (fun s =>
          let n := s.pN i
          match s.arenaFind s.me.tenant (planSize n) with
          | none => .trap s ⟨0x0A, 2, w64 (planSize n), none, 0⟩
          | some off =>
            if !s.builderFree s.me.loc.clusterIdx then .wait s
            else
              let oi := s.pIdx o
              let ii := s.pIdx i
              let fp := crc64 ((oi.map (bytesLE so.wa)).flatten ++ (ii.map (bytesLE si.wa)).flatten)
              .done (s.createPlan x off (s.pTbase o) n (s.pE o) (s.pL o) (s.pL o) ⟨2, so.a, so.na, so.wa, si.a, si.na, si.wa⟩
                (some (ii.map (fun k => oi.getD k 0), fp)))))))

/-- PCOMP, R247. -/
def execPcomp (x a b : BitVec 5) (s : State) : Res := planIssue (.pcomp x a b) false (pcompCore x a b s)

/-! ### PAPPLY -/

/-- The table element of position off + i of a plan (R242, R243): its code, with the charge at its place. -/
def planRead (p : PlanRec) (off : Nat) : ElemRead := fun s f i =>
  let k := s.pRank p (off + i)
  match s.readSpan f (s.pTarget p k) (2 ^ s.pE p) with
  | .error t => .error t
  | .ok (bs, xs) => .ok (natLE bs, xs.zipIdx.map (fun x => ⟨8, 0, [x.1], s.pTarget p k + x.2⟩))

/-- The failure of the body words that an apply's positions need: those of `sel` below VL, from position `start` of the
flow on (R235, R444, R448). -/
def bodyErr (s : State) (p : PlanRec) (off start sel : Nat) (h : Word) : Option Trap :=
  if s.dev.dieLost == 0 && s.bad.isEmpty && s.badCache.isEmpty then none
  else
    ((List.range s.me.vlN).filter (fun i => decide (start ≤ i) && bit sel i)).findSome? (fun i =>
      s.planErr p (s.elementParts p (off + i)) h)

/-- The RANGE check of R242 and R245. -/
def rangeTrap (s : State) (p : PlanRec) (off : Word) : Bool × Trap :=
  (decide (s.pN p < off.toNat + s.me.vlN), ⟨9, 3, off, none, 0⟩)

/-- The SIZE check of R242 and R245. -/
def sizeTrap (s : State) (p : PlanRec) : Bool × Trap := (s.me.ew != 8 * 2 ^ s.pE p, ⟨9, 4, w64 (2 ^ s.pE p), none, 0⟩)

/-- PAPPLY to a register once it is at the head of EQ. The tag is checked at issue (R52, R241); with VL = 0 nothing is
raised beyond Prepare (R211, R242). The class D move makes the check of R42 as R119 has it for its like (log 98). -/
def papplyCore (v : BitVec 6) (a b : BitVec 5) (t : BitVec 4) (r : Bool) (s : State) : EngRes :=
  let off := s.me.rd b
  planWord s ([(!classD s.me.fmtc, ill subType), (groupBad [v] s.me.grp, ill subGroup)] ++
      featErr s.dev featPlan (.papply v a b t r) ++ regErr s.me (sRefs [a, b]) ++
      (s.me.svpBad s.me.fmtc, ill subSvp) :: s.me.tagTraps t.toNat ((s.me.vlN * s.me.ew + 7) / 8)) (s.me.rd a) r (fun s p =>
    runEng s (if s.me.vlN = 0 then [] else [rangeTrap s p off, sizeTrap s p]) (fun s =>
      match bodyErr s p off.toNat s.me.startPos s.me.act.toNat (s.me.rd a) with
      | some t => .trap s t
      | none => landLoad s v t.toNat (planRead p off.toNat)))

/-- PAPPLY to a register, R242. -/
def execPapply (v : BitVec 6) (a b : BitVec 5) (t : BitVec 4) (r : Bool) (s : State) : Res :=
  planIssue (.papply v a b t r) true (papplyCore v a b t r s)

/-- The stores of PAPPLY `.spm`: positions i, i + 1, … with what they read and where they write, until one fails: of its
addresses XLATE comes before HOME_LOST, and DATAERR last (R243). -/
def spmPositions (s : State) (f : Flow) (p : PlanRec) (off dst : Nat) :
    Nat → Nat → Nat → List Access × List Place × List Xl × Option (Nat × Trap)
  | 0, _, _ => ([], [], [], none)
  | n + 1, i, sel =>
    if bit sel 0 then
      let es := 2 ^ s.pE p
      let da := dst + i * es
      let lost (e : XErr × Nat) : Bool := e.1.1 != 6
      match s.spanErr (s.ctx f) (s.pTarget p (s.pRank p (off + i))) .r es, s.spanErr (s.ctx f) da .w es with
      | some e, some w => ([], [], [], some (i, if lost e && !lost w then errTrap w.1 (w64 w.2) else errTrap e.1 (w64 e.2)))
      | some e, none => ([], [], [], some (i, errTrap e.1 (w64 e.2)))
      | none, some w => ([], [], [], some (i, errTrap w.1 (w64 w.2)))
      | none, none =>
        match planRead p off s f i with
        | .error t => ([], [], [], some (i, t))
        | .ok (x, ch) =>
          let xs := s.rangeXls (s.ctx f) da .w es
          let r := spmPositions s f p off dst n (i + 1) (sel / 2)
          (f.bitStores (f.seq + i) da 0 (8 * es) x xs ++ r.1, ch ++ r.2.1, xs ++ r.2.2.1, r.2.2.2)
    else spmPositions s f p off dst n (i + 1) (sel / 2)

/-- PAPPLY `.spm` once it is at the head of EQ: the writes are stores of the flow to its scratchpad. -/
def papplySpmCore (x a b : BitVec 5) (r : Bool) (s : State) : EngRes :=
  let off := s.me.rd b
  let dst := s.me.rd x
  planWord s ([(!classD s.me.fmtc, ill subType)] ++ featErr s.dev featPlan (.papplySpm x a b r) ++
      regErr s.me (sRefs [a, b, x])) (s.me.rd a) r (fun s p =>
    let es := 2 ^ s.pE p
    runEng s (if s.me.vlN = 0 then [] else [rangeTrap s p off,
        (decide (dst.toNat < spmVa ∨ reservedVa < dst.toNat + s.me.vlN * es), xlateT 0 dst),
        (dst.toNat % min es 8 != 0, alignT dst)]) (fun s =>
      match bodyErr s p off.toNat s.me.startPos s.me.act.toNat (s.me.rd a) with
      | some t => .trap s t
      | none =>
      if s.stuck true true then .wait s
      else
        let start := s.me.startPos
        let go (s : State) :=
          spmPositions s s.me p off.toNat dst.toNat (s.me.vlN - start) start (s.me.act.toNat % 2 ^ s.me.vlN / 2 ^ start)
        let s := (s.ready true true).reachPlaces (go s).2.1
        let q := go s
        let s := (s.chargeAll s.me (oncePlaces q.2.1)).modMe (fun f => { f with sb := f.sb ++ q.1, seq := f.seq + f.vlN })
        match q.2.2.2 with
        | some (i, t) => .trap (s.modMe (fun f => { f with vprog := vprogAt i })) t
        | none => .done (s.beginScalar.modMe (fun f => { (f.next) with vprog := f.vprog &&& 0xFFFFFFFF7FFFFFFF, rebuilt := false }))))

/-- PAPPLY `.spm`, R242. -/
def execPapplySpm (x a b : BitVec 5) (r : Bool) (s : State) : Res :=
  planIssue (.papplySpm x a b r) true (papplySpmCore x a b r s)

/-! ### PSCAT -/

/-- The modes of PSCAT (R238). -/
def scatOp (o : Nat) : Option NodeOp :=
  match o with
  | 0 => some .sum
  | 1 => some .max
  | 2 => some .min
  | _ => none

/-- The first failure among the targets of PSCAT's active positions, each address for every permission needed. -/
def scatErr (s : State) (f : Flow) (p : PlanRec) (off : Nat) (rd : Bool) : Nat → Nat → Nat → Option Trap
  | 0, _, _ => none
  | n + 1, i, sel =>
    if bit sel 0 then
      let va := s.pTarget p (s.pRank p (off + i))
      let es := 2 ^ s.pE p
      match s.rangeErr (s.ctx f) va .w es, (if rd then s.rangeErr (s.ctx f) va .r es else none) with
      | some (e, a), some (e2, a2) => some (if a2 < a then errTrap e2 (w64 a2) else errTrap e (w64 a))
      | some (e, a), none => some (errTrap e (w64 a))
      | none, some (e, a) => some (errTrap e (w64 a))
      | none, none =>
        if (s.lostByte ((s.rangeXls (s.ctx f) va .w es).map (·.pa))).isSome then some (dataErrT 1 (w64 va))
        else scatErr s f p off rd n (i + 1) (sel / 2)
    else scatErr s f p off rd n (i + 1) (sel / 2)

/-- A combining target (R208, R245): M = Node(op, M, c) at its point of service in one step; left unchanged and logged
where it holds an uncorrectable error. -/
def State.combineAt (s : State) (f : Flow) (va : Nat) (xs : List Xl) (op : Nat → Nat → Nat) (c w : Nat) : State :=
  match xs.head?, s.badOf xs with
  | none, _ => s
  | some _, some (_, pa) => s.logErr 5 0 0 f.tenant f.loc.die pa va
  | some _, none =>
    let old := natLE (xs.map (fun x => s.keyByte x.pa x.key))
    (f.bitStores f.seq va 0 w (op old c) xs).foldl (fun s a =>
      let s := match regionOf a.addr with
        | .peer .. => s.putWord a.addr a.data.toNat a.en.toNat a.key
        | _ => s.applyStore a.addr a.data.toNat a.en.toNat a.key (some f.loc.coreIdx)
      s.dropWord f.loc.coreIdx a.addr a.key) s

/-- One rank of a scatter: the codes of its active positions, ascending. A combining target has the flow's own stores
there ENTER and pass its path before it. -/
def State.scatterRank (s : State) (p : PlanRec) (o k : Nat) (cs : List Nat) : State :=
  let f := s.me
  let es := 2 ^ s.pE p
  let va := s.pTarget p k
  let xs := s.rangeXls (s.ctx f) va .w es
  let s := xs.foldl (fun s x => s.setDirty (s.ctx f) x) s
  match scatOp o, cs with
  | _, [] => s
  | some op, c :: rest =>
    let upon (a : Access) : Bool := !a.load && xs.any (fun x => a.enAt x.pa != 0)
    let s := xs.foldl (fun s x => s.pushStores f.key f.loc x.pa x.key upon) s
    let s := xs.foldl (fun s x => match regionOf x.pa with | .peer .. => s.leavePeers x.pa x.key | _ => s) s
    let s := xs.foldl (fun s x => s.drainPath (s.pathOf f.loc x.pa x.key false)) s
    let s := match xs.head? with | some x => s.chargeCross f.tenant f.key.launch x.pa x.key es true | none => s
    let s := s.combineAt f va xs (f.node op) (rest.foldl (f.node op) c) (8 * es)
    xs.foldl (fun s x => s.chargeBits f x.pa 8) s
  | none, c :: rest =>
    let r := if o = 3 ∨ rest.isEmpty then (cs.getLastD c, s)
      else (cs.getD (Config.pick s.freeCtr cs.length % cs.length) c, { s with freeCtr := s.freeCtr + 1 })
    r.2.modMe (fun g => { g with sb := g.sb ++ f.bitStores f.seq va 0 (8 * es) r.1 xs })

/-- PSCAT once it is at the head of EQ: ranks in schedule order. It drains VQ. A combining one, which must read
memory, ends a replay quantum as an AMO does (R209, log 30). -/
def pscatCore (v : BitVec 6) (a b : BitVec 5) (m : BitVec 4) (o : BitVec 3) (s : State) : EngRes :=
  let off := s.me.rd b
  let comb := (scatOp o.toNat).isSome
  planWord s ([(!classD s.me.fmtc || (comb && !classN s.me.fmtc), ill subType), (groupBad [v] s.me.grp, ill subGroup)] ++
      featErr s.dev featPlan (.pscat v a b m o) ++ regErr s.me (sRefs [a, b] ++ s.me.vRefs (s.me.refs v ++ mRef m)) ++
      [(s.me.svpBad s.me.fmtc, ill subSvp)]) (s.me.rd a) false
    (fun s p =>
      let f := s.me
      let sel := f.selN m % 2 ^ f.vlN
      let clear (s : State) : State := s.modMe (fun f => { f with vprog := f.vprog &&& 0xFFFFFFFF7FFFFFFF })
      runEng s [rangeTrap s p off, sizeTrap s p] (fun s =>
        match (bodyErr s p off.toNat 0 sel (s.me.rd a)).orElse (fun _ => scatErr s f p off.toNat comb f.vlN 0 sel) with
        | some t => .trap (clear s) t
        | none =>
          if s.stuck comb true || !s.me.vqDrained then .wait s
          else
            let act (s : State) : EngRes :=
              let s := s.ready comb true
              let live := (List.range f.vlN).filter (fun i => bit sel i)
              let s := s.orDirtyAll (s.ctx f) (live.map (fun i => s.pTarget p (s.pRank p (off.toNat + i))))
              match scatErr s f p off.toNat comb f.vlN 0 sel with
              | some t => .trap (clear s) t
              | none =>
              let xs := (f.srcs v).zipIdx.filter (fun q => bit sel q.2)
              let rs := xs.map (fun q => (s.pRank p (off.toNat + q.2), q.1))
              let ks := sortBy id (dedupN (rs.map (·.1)))
              let s := ks.foldl (fun s k => s.scatterRank p o.toNat k ((rs.filter (fun r => r.1 == k)).map (·.2))) s
              .done (s.beginScalar.modMe (fun f => { (f.next) with seq := f.seq + 1 }))
            if comb then gateEng s act else act s))

/-- PSCAT, R245. -/
def execPscat (v : BitVec 6) (a b : BitVec 5) (m : BitVec 4) (o : BitVec 3) (s : State) : Res :=
  planIssue (.pscat v a b m o) false (pscatCore v a b m o s)

/-- The plan words of R241: they prepare a plan before they act. -/
def isPlanWord : Instr → Bool
  | .papply .. | .papplySpm .. | .pscat .. | .pinv .. | .pcomp .. => true
  | _ => false

/-- A plan word of R241 at the head of EQ. -/
def planCore (i : Instr) (s : State) : EngRes :=
  match i with
  | .papply v a b t r => papplyCore v a b t r s
  | .papplySpm x a b r => papplySpmCore x a b r s
  | .pscat v a b m o => pscatCore v a b m o s
  | .pinv x a => pinvCore x a s
  | .pcomp x a b => pcompCore x a b s
  | _ => .wait s

/-! ### Status, release and residency -/

/-- Body chunks that the plans resident in a cluster's store can hold (R235). -/
def State.storeChunks (s : State) (cl : Nat) : Nat :=
  sumN ((s.resident.filter (fun r => r.1 == cl)).map (fun r =>
    match s.plans.find? (fun p => p.tenant == r.2.1 && p.off == r.2.2) with
    | some p => (p.size - 256 + 2047) / 2048
    | none => 0))

/-- RES of R248: a listed plan is resident while the store's chunks suffice; past that the store may have evicted it,
and the bit is a free value (log 32). -/
def State.resBit (s : State) (cl : Nat) (p : PlanRec) : Bool × State :=
  let key := (cl, p.tenant, p.off)
  if !s.resident.contains key then (false, s)
  else if s.storeChunks cl ≤ 512 ∨ (s.resident.find? (fun r => r.1 == cl)) = some key then (true, s)
  else ((Config.freeValue s.freeCtr).getLsbD 0, { s with freeCtr := s.freeCtr + 1 })

/-- PSTAT, R248: an invalid handle yields 0. -/
def execPstat (x a : BitVec 5) (s : State) : Res :=
  match firstTrap (featErr s.dev featPlan (.pstat x a) ++ regErr s.me (sRefs [a])) with
  | some t => .next (s.trap t)
  | none =>
    gateQueue s (.pstat x a) (fun s =>
    if s.stuck true false then stallEngine s
    else
      match s.planOf s.me.tenant (s.me.rd a) with
      | none => .next (s.beginScalar.modMe (fun f => (f.wrBusy x 0).next))
      | some p =>
        let s := s.ready true false
        let r := s.resBit s.me.loc.clusterIdx p
        let c := s.pCode p
        let rec3 := if c = 3 ∨ c = 5 then s.pSub p <<< 4 + s.pCause p <<< 8 else 0
        let v := w64 (c + (b2n r.1) <<< 3 + rec3 + s.pN p <<< 32)
        .next (r.2.beginScalar.modMe (fun f => (f.wrBusy x v).next)))

/-- Frees an object (R249): its build, watches and copies go. -/
def State.freePlan (s : State) (p : PlanRec) : State :=
  let s := s.setPlanState p.tenant p.off 0 0 0
  { s with
    plans := s.plans.filter (fun q => !(q.tenant == p.tenant && q.off == p.off))
    watches := s.watches.filter (fun w => !(w.tenant == p.tenant && w.off == p.off))
    resident := s.resident.filter (fun r => !(r.2.1 == p.tenant && r.2.2 == p.off))
    jobs := s.jobs.filter (fun j => !(j.tenant == p.tenant && (match j.kind with | .build b => b.off == p.off | _ => false))) }

/-- PFREE's step: the object goes and the generation of its place rises (R226, R249). -/
def State.pfree (s : State) (p : PlanRec) : State :=
  let s := s.freePlan p
  { s with planGens := aset s.planGens (p.tenant, p.off) (if p.gen = 65535 then 1 else p.gen + 1) }

/-- A plan word that needs a live handle and does not wait for it. -/
def handleWord (s : State) (i : Instr) (pre : List (Bool × Trap)) (h : Word) (k : State → PlanRec → Res) : Res :=
  match firstTrap pre with
  | some t => .next (s.trap t)
  | none =>
    if !s.eqOpen then holdEngine s i
    else
      match s.planOf s.me.tenant h with
      | none => .next (s.trap ⟨0x0A, 3, h, none, 0⟩)
      | some p => k s p

/-- PFREE, R249. -/
def execPfree (a : BitVec 5) (s : State) : Res :=
  handleWord s (.pfree a) (featErr s.dev featPlan (.pfree a) ++ regErr s.me (sRefs [a])) (s.me.rd a) (fun s p =>
    gateReplay s (fun s => .next ((s.pfree p).beginScalar.modMe Flow.next)))

/-- PSPILL, R250: it waits for a build of this cluster to finish writing the arena. -/
def execPspill (a : BitVec 5) (s : State) : Res :=
  handleWord s (.pspill a) (featErr s.dev featPlan (.pspill a) ++ regErr s.me (sRefs [a])) (s.me.rd a) (fun s p =>
    let cl := s.me.loc.clusterIdx
    let building := s.jobs.any (fun j => j.tenant == p.tenant && j.die * 16 + j.cluster == cl &&
      (match j.kind with | .build b => b.off == p.off | _ => false))
    if building then holdEngine s (.pspill a)
    else
      let s := { s with resident := s.resident.filter (fun r => r != (cl, p.tenant, p.off)) }
      .next (s.beginScalar.modMe Flow.next))

/-- PFILL, R250; it counts as an apply for residency (R235). -/
def execPfill (a : BitVec 5) (s : State) : Res :=
  handleWord s (.pfill a) (featErr s.dev featPlan (.pfill a) ++ regErr s.me (sRefs [a])) (s.me.rd a) (fun s p =>
    .next ((s.reside s.me.loc.clusterIdx p).beginScalar.modMe Flow.next))

end Sys2Proof.Machine
end

