-- ==== Sys2Proof/Machine/Routing.lean ====
section
/-! DEFINITION. Expert routing: token rows, arrival counters and replica tables (R332 to R346). -/

namespace Sys2Proof.Machine

/-- One byte of the CRC-8 of R333. -/
def crc8Byte (c x : Nat) : Nat :=
  (List.range 8).foldl (fun c _ => if bit c 7 then ((c <<< 1) % 256) ^^^ 0x07 else (c <<< 1) % 256) (c ^^^ x)

/-- The CRC-8 of bits 63:8 of a header, highest byte first (R333). -/
def rowCrc (h : Nat) : Nat := (List.range 7).foldl (fun c i => crc8Byte c (bits h (56 - 8 * i) 8)) 0

/-- The header ROWSEND sends (R332, R342). -/
def rowHeader (dev die h : Nat) : Nat :=
  let x := (dev % 1024) <<< 54 + (die % 4) <<< 52 + (bits h 8 44) <<< 8
  x + rowCrc x

/-- Fields of a destination word (R334). -/
def dstDev (d : Word) : Nat := wbits d 54 10
def dstDie (d : Word) : Nat := wbits d 52 2
def dstClu (d : Word) : Nat := wbits d 48 4
def dstRow (d : Word) : Nat := wbits d 22 22
def dstCtr (d : Word) : Nat := wbits d 0 22

/-- A routing word's checks. -/
def rowInstr (s : State) (i : Instr) (typeOk : Bool) (groups : List (BitVec 6)) (refs : List RegRef)
    (own : List (Bool × Trap)) (k : State → Res) : Res :=
  match firstTrap ([(!typeOk, ill subType), (groupBad groups s.me.grp, ill subGroup)] ++ featErr s.dev featRoute i ++
      regErr s.me refs ++ own) with
  | some t => .next (s.trap t)
  | none => k s

/-- ROWSEND, R342: VQ drains for the register's producer, the row is captured and joins EQ; ACCEPT hands it to the port. -/
def execRowsend (v : BitVec 6) (a b : BitVec 5) (s : State) : Res :=
  let d := s.me.rd b
  rowInstr s (.rowsend v a b) (s.me.fmtc == 0 || s.me.fmtc == 2) [v] (sRefs [a, b] ++ s.me.vRefs (s.me.refs v))
    [(wbits d 22 3 != 0 || wbits d 0 3 != 0, alignT d)] (fun s =>
    if !s.me.vqDrained then stall s
    else
    let n := s.me.vlN * s.me.ew
    let data := bits (s.me.gstr v.toNat s.me.grp) 0 n
    let hdr := rowHeader s.dev.domDev.toNat s.me.loc.die (s.me.rd a).toNat
    pushCmd s (.row (w64 hdr) d (bytesLE (8 * ((n + 63) / 64)) data)) id)

/-- The refusal records as ROWACK writes them (R343). -/
def SendLog.records (l : SendLog) : Nat := packCodes 64 ((l.refs.map (fun r => [r.2.1.toNat, r.2.2.toNat])).flatten)

/-- The exception of ROWACK's n bytes of records at an address: per address XLATE, then HOME_LOST (R278, R343); then DATAERR. -/
def State.recordsTrap (s : State) (va : Word) (n : Nat) : Option Trap :=
  match s.rangeErr (s.ctx s.me) va.toNat .w n with
  | some (e, ad) => some (errTrap e (w64 ad))
  | none => (s.lostByte ((s.rangeXls (s.ctx s.me) va.toNat .w n).map (·.pa))).map (fun i => dataErrT 1 (va + w64 i))

/-- ROWACK, R343: it stalls until every row has been answered, and completes with an acquire at dom (R337). A record that
covers part of a lost granule is DATAERR (R346, R427). -/
def execRowack (x a : BitVec 5) (s : State) : Res :=
  let va := s.me.rd a
  rowInstr s (.rowack x a) true [] (sRefs [a]) [(va.toNat % 8 != 0, alignT va)] (fun s =>
    if !s.eqOpen || s.me.log.pending != 0 then holdEngine s (.rowack x a)
    else
      let n := 16 * s.me.log.refs.length
      let s := if (s.recordsTrap va n).isSome then s
        else s.orDirtyAll (s.ctx s.me) ((List.range n).map (fun i => (va.toNat + i) % 2 ^ 64))
      match s.recordsTrap va n with
      | some t => .next (s.trap t)
      | none =>
        let f := s.me
        let xs := s.rangeXls (s.ctx f) va.toNat .w n
        let s := xs.foldl (fun s x => s.setDirty (s.ctx f) x) s
        let accs := f.bitStores f.seq va.toNat 0 (8 * n) f.log.records xs
        let v := w64 ((b2n f.log.ovf) <<< 63 + min f.log.refN (2 ^ 32 - 1))
        let s := s.beginScalar.modMe (fun f =>
          (({ f with sb := f.sb ++ accs, seq := f.seq + 1, log := ⟨0, [], 0, false⟩ }).wrBusy x v).next)
        .next (s.acquire f.key 5))

/-- A counter as ARRWAIT's load finds it at its bank, behind what stands in the bank's queue and the flow's own earlier
stores (R196, R199, R344); the state after that load. -/
def State.counterOf (s : State) (va : Word) : Option (State × Xl × Nat) :=
  match s.access (s.ctx s.me) va.toNat .r with
  | .ok x =>
    let y := { x with pol := 2 }
    let s := (s.ready true false).reach y 8 false
    some (s, x, natLE (s.loadBytes s.me y 8))
  | .error _ => none

/-- Whether a counter ends the wait of ARRWAIT (R344). -/
def counterReady (c e : Nat) : Bool := bit c 56 || decide (e ≤ c % 2 ^ 32)

/-- ARRWAIT, R344. -/
def execArrwait (a b : BitVec 5) (s : State) : Res :=
  let va := s.me.rd a
  let e := wbits (s.me.rd b) 0 32
  rowInstr s (.arrwait a b) true [] (sRefs [a, b])
    ([(va.toNat % 8 != 0, alignT va),
      (decide (va.toNat < spmVa ∨ reservedVa < va.toNat + 8), xlateT 0 va)] ++
      (match s.access (s.ctx s.me) va.toNat .r with
       | .error er => [(true, errTrap er va)]
       | .ok _ => [])) (fun s =>
    if !s.eqFree then stallEngine s
    else gateReplay s (fun s =>
      if s.stuck true false then stall s
      else
      match s.counterOf va with
      | none => .next s
      | some (s, x, c) =>
        match s.dataBad x.pa with
        | some sub => .next (s.trap { dataErrT sub va with pa := x.pa })
        | none =>
          if bit c 56 then .next (s.trap ⟨0x10, 1, va, none, 0⟩)
          else if counterReady c e then .next ((s.beginScalar.acquire s.me.key 2).modMe Flow.next)
          else waitFor s (.arrwait va.toNat e)))

/-- The scope of REPLSEL's acquire (R345). -/
def replScope (xs : List Xl) : Nat :=
  match xs.head? with
  | some x => (match regionOf x.pa with | .peer .. => 5 | .host _ => 6 | _ => 4)
  | none => 4

/-- REPLSEL, R345. -/
def execReplsel (x a b : BitVec 5) (s : State) : Res :=
  let t := s.me.rd a
  let r := wbits (s.me.rd b) 0 7
  let bk := r % 2
  rowInstr s (.replsel x a b) true [] (sRefs [a, b]) [(t.toNat % 64 != 0, alignT t)] (fun s =>
    if !s.eqOpen then holdEngine s (.replsel x a b)
    else if s.stuck true false then stallEngine s
    else
      let s := (s.reachRange t.toNat 4).reachRange (t.toNat + 8 + 8 * bk) 8
      match s.readRange s.me t.toNat 4, s.readRange s.me (t.toNat + 8 + 8 * bk) 8 with
      | .error tr, _ => .next (s.trap tr)
      | _, .error tr => .next (s.trap tr)
      | .ok (n, xs), .ok (st, ys) =>
        let n := natLE n
        let v := if 1 ≤ n ∧ n ≤ 2 ^ 20 ∧ natLE st = 2 ^ 63 + r then t + w64 (64 + bk * 8 * n) else 0
        let s := (xs ++ ys).foldl (fun s y => s.chargeBits s.me y.pa 8) s
        .next ((s.beginScalar.acquire s.me.key (replScope xs)).modMe (fun f => (f.wrBusy x v).next)))

/-! ### The routing port (R335 to R337) -/

/-- The bytes of a row at its place: header, then data. -/
def Row.bytes (r : Row) : List Byte := bytesLE 8 r.hdr.toNat ++ r.data

/-- Whether [o, o + n) of the scratchpads of a die lies in an allocation of a live context of a tenant: a launch reserves
its range in every cluster of the dies on which it has flows (R335, R355). -/
def State.spmAllocated (s : State) (t die o n : Nat) : Bool :=
  (s.ten t).live && s.launches.any (fun l => l.tenant == t && nth0 l.counts die != 0 &&
    decide (4096 * l.spmOff ≤ o ∧ o + n ≤ 4096 * (l.spmOff + l.spmLen)))

/-- Base of the scratchpad a destination word names, in this device. -/
def dstBase (d : Word) : Nat := spmBase + (dstDie d * 16 + dstClu d) * 2 ^ 22

/-- The bank that a scratchpad offset of a destination's cluster lies in. -/
def dstBank (d : Word) (o : Nat) : QueueId := .bank (dstDie d * 16 + dstClu d) (o / 8 % 64)

/-- Changes a row. -/
def State.modRow (s : State) (id : Nat) (g : Row → Row) : State :=
  { s with rows := s.rows.map (fun r => if r.id = id then g r else r) }

/-- Bytes of a row at its place. -/
def Row.size (r : Row) : Nat := 8 + r.data.length

/-- Whether a row came from a peer device: its sender's account stands there. -/
def Row.foreign (r : Row) : Bool := r.sender == ⟨0, 4096⟩

/-- A row is charged to its sender at a price a byte (R342); the sender of a peer's row has no account here. -/
def State.chargeRow (s : State) (r : Row) (fj : Nat) : State :=
  if r.foreign then s else s.charge r.tenant r.sender.launch (r.size * fj)

/-- Whether a row goes to another device, and the die of its sender (R332, R334). -/
def State.toPeer (s : State) (r : Row) : Bool := dstDev r.dst != s.dev.domDev.toNat
def Row.fromDie (r : Row) : Nat := wbits r.hdr 52 2

/-- The answer to a row; an accepted one is charged for the receiving scratchpad (R342). -/
def State.rowAnswer (s : State) (r : Row) (n : Nat) : State :=
  (if n = 0 then s.chargeRow r priceSpm else s).modRow r.id (fun r => { r with st := .answered n })

/-- A row crosses the links to its receiver: a die link where it leaves the sender's die, Vexcon where it goes to a peer
(R342). -/
def State.crossLinks (s : State) (r : Row) : State :=
  s.chargeRow r ((if s.toPeer r then priceVex else 0) + (if s.toPeer r || dstDie r.dst != r.fromDie then priceDie else 0))

/-- The arrival of a row: its writes join the bank queues, or it is refused (R335). A row that is LOST crosses no link. -/
def State.arrive (s : State) (r : Row) : State :=
  let n := r.size
  let c := dstCtr r.dst
  if s.toPeer r then
    if !s.dev.domEn || !s.dev.reaches (dstDev r.dst) then s.rowAnswer r 4
    else
      -- the peer device answers; what it answers is its own (log 34)
      let q := (s.crossLinks r).draw
      q.2.rowAnswer r (q.1.toNat % 5)
  else if s.dev.dieLost.getLsbD (dstDie r.dst) then s.rowAnswer r 4
  else
    let s := s.crossLinks r
    if !s.spmAllocated r.tenant (dstDie r.dst) (dstRow r.dst) n || !s.spmAllocated r.tenant (dstDie r.dst) c 8 then s.rowAnswer r 3
    else
      let base := dstBase r.dst
      let s := s.drainPath [dstBank r.dst c]
      let ctr := natLE (s.keyBytes (base + c) 0 8)
      if rowCrc r.hdr.toNat ≠ r.hdr.toNat % 256 then (s.applyStore (base + c) (2 ^ 56) (2 ^ 56) 0 none).rowAnswer r 2
      else
        let round := bits ctr 57 7
        let hr := wbits r.hdr 22 7
        if hr ≠ round ∧ hr ≠ (round + 127) % 128 then s.rowAnswer r 1
        else
          let fl := (chunksOf 8 ((n + 7) / 8) r.bytes).zipIdx.map (fun p =>
            let a := base + dstRow r.dst + 8 * p.2
            let acc : Access := { s.me.newAccess a 0 ⟨a, 0, 0, 0, 0, false, false⟩ with
              data := w64 (natLE p.1), en := w64 (2 ^ (8 * p.1.length) - 1) }
            (⟨[dstBank r.dst (dstRow r.dst + 8 * p.2)], acc, .row r.id⟩ : Flight))
          { s with net := s.net ++ fl }.modRow r.id (fun r => { r with st := .written })

/-- The counter counts a row whose writes have all APPLYed, at its bank (R335, R337). -/
def State.countRow (s : State) (r : Row) : State :=
  let s := s.drainPath [dstBank r.dst (dstCtr r.dst)]
  let a := dstBase r.dst + dstCtr r.dst
  let ctr := natLE (s.keyBytes a 0 8)
  let round := bits ctr 57 7
  let hr := wbits r.hdr 22 7
  if round = hr ∨ round = (hr + 1) % 128 then (s.applyStore a ((ctr + 1) % 2 ^ 32) (2 ^ 32 - 1) 0 none).rowAnswer r 0
  else s.rowAnswer r 1

/-- A refusal enters the log: the 16 of lowest issue order are kept (R343). -/
def SendLog.refuse (l : SendLog) (id : Nat) (hdr dst : Word) : SendLog :=
  let refs := sortBy (fun r => r.1) (l.refs ++ [(id, hdr, dst)])
  { l with refs := refs.take 16, refN := l.refN + 1, ovf := l.ovf || decide (16 < refs.length) }

/-- An answer reaches the sender (R335, R343): the destination word takes REASON in bits 47:44. -/
def State.answerRow (s : State) (r : Row) (reason : Nat) : State :=
  let dst := (r.dst &&& ~~~(0xF00000000000 : Word)) ||| w64 (reason <<< 44)
  let s := { s with rows := s.rows.filter (fun q => q.id != r.id) }
  s.modFlow r.sender (fun f =>
    let l := { f.log with pending := f.log.pending - 1 }
    { f with log := if reason = 0 then l else l.refuse r.id r.hdr dst })

end Sys2Proof.Machine
end

