-- ==== Sys2Proof/Machine/Strips.lean ====
section
/-! DEFINITION. Fetch (R74, R103), strip loops and vector branches: R165 to R175. -/

namespace Sys2Proof.Machine

/-- The word at an address, translated with execute permission (R103); a failure names that address in EPC and
EVAL. The bytes are those a load of the flow would read (log 24). -/
def State.fetch (s : State) (f : Flow) (pc : Word) : Except Trap Nat :=
  match s.accessBytes (s.ctx f) pc.toNat .x 4 with
  | .error e => .error { errTrap e pc with epc := some pc }
  | .ok xs =>
    match s.badOf xs with
    | some (sub, pa) => .error { dataErrT sub pc with epc := some pc, pa := pa }
    | none => .ok (natLE (s.readXls f xs))

/-- The carried groups of the launch's kernel (R165, R353): the VTYPE groups that hold a carried register, each with
its operation; where a group's registers name several, with that of the lowest (DESIGN CHOICE, log 128). -/
def State.carriedSet (s : State) (f : Flow) : List (Nat × Nat) :=
  match s.launch? f.key.launch with
  | none => []
  | some l =>
    ((List.range 48).filter (fun v => bit l.carry v)).foldl (fun acc v =>
      let g := v - v % f.grp
      if acc.any (fun p => p.1 == g) then acc else acc ++ [(g, bits l.carryop (2 * v) 2)]) []

/-- The operation a CARRYOP code names (R353). -/
def carryNode : Nat → NodeOp
  | 0 => .sum
  | 1 => .max
  | _ => .min

/-- The strip start of R167; it closes an ordering interval. -/
def Flow.stripStart (f : Flow) : Flow :=
  match f.loop with
  | none => f
  | some l =>
    { f with
      vl := BitVec.ofNat 16 (min (f.rd l.n).toNat (if l.par then f.vlmax1 else f.vlmax))
      act := BitVec.allOnes 32768
      vprog := f.vprog &&& 0xFFFFFFFF7FFFFFFF
      loop := some { l with strip := l.strip + 1 }
      strips := f.strips + 1
      ival := f.ival + 1 }

/-- Every carried group at the identity of its operation below VLMAX(), zero above (R166). -/
def Flow.initCarried (f : Flow) (cs : List (Nat × Nat)) : Flow :=
  cs.foldl (fun f p =>
    (f.setGstr p.1 f.grp (packCodes f.ew (List.replicate f.vlmax (identityCode f.fmtc (carryNode p.2))))).clearGroup p.1 f.grp) f

/-- LOOPV once it has its grant (R166). -/
def Flow.openLoop (f : Flow) (n : BitVec 5) (par : Bool) (cs : List (Nat × Nat)) (g : BitVec 8) : Flow :=
  let avl := f.rd n
  let f := (f.regrant g).initCarried cs
  Flow.stripStart { f with loop := some ⟨n, f.pc + 4, par, 0, cs, f.grp⟩, avl := avl, skipPoint := false, pc := f.pc + 4 }

/-- LOOPV, R166. It is a pre-emption point before it executes and while it waits for a grant (R376). -/
def execLoopv (n : BitVec 5) (p : Bool) (s : State) : Res :=
  match firstTrap (regErr s.me (sRefs [n]) ++ [(s.me.loop.isSome, ill subLoop), (s.energyDue, energyT s)]) with
  | some t => .next (s.trapE t)
  | none =>
    if s.me.preemptible then .next (s.park .loopv)
    else
      match s.grantFor s.me (max (s.me.rd n).toNat 1) with
      | none => waitFor s (.grant true)
      | some g =>
        let cs := s.carriedSet s.me
        .next (s.beginScalar.modMe (fun f => f.openLoop n p cs g))

/-- The waiting stores commit, each for the positions `keep` selects (R163, R168, R170). -/
def Flow.commitStores (f : Flow) (keep : Nat → Bool) : Flow :=
  let ws := ((f.vsq.map (fun w => w.writes)).flatten.filter (fun p => keep p.1)).map (·.2)
  { f with vsq := [], sb := f.sb ++ ws }

/-- The codes of positions [0, t) of copy k of a group under `.par` (R171). -/
def Flow.copyElems (f : Flow) (v k t : Nat) : List Nat :=
  let x := (List.range f.grp).foldl (fun acc j => acc + f.slice (v + j) (2048 * k) 2048 <<< (2048 * j)) 0
  unpackCodes f.ew t x

/-- The fold of a carried group over the copies of a `.par` loop (R172), as a string under the full grant. -/
def Flow.parFold (f : Flow) (v : Nat) (op : NodeOp) : Nat :=
  packCodes f.ew (foldChunks (f.node op) ((List.range f.granted).map (fun k => f.copyElems v k f.vlmax1)))

/-- Closes the loop: every bit of the active set is 1 again (R151), VL by R169, and the folds of R172, under the
grouping and width in force here (DESIGN CHOICE, log 129). -/
def Flow.closeLoop (f : Flow) : Flow :=
  match f.loop with
  | none => f
  | some l =>
    let xs := if l.par then l.carried.map (fun p => (p.1, f.parFold p.1 (carryNode p.2))) else []
    let f' := { f with loop := none, act := BitVec.allOnes 32768 }
    let f' := xs.foldl (fun f p => f.setGstr p.1 f.grp p.2) f'
    if l.carried.isEmpty then f'
    else { f' with vl := BitVec.ofNat 16 (if l.par then f.vlmax1 else f.vlmax) }

/-- ENDV, R168: another strip, a pre-emption point once its stores are committed and S(N) is updated (R376), or the
end of the loop. -/
def execEndv (s : State) : Res :=
  match s.me.loop with
  | none => .next (s.trap (ill subLoop))
  | some l =>
    let more := decide (s.me.vlN < (s.me.rd l.n).toNat)
    let folded := if !more && l.par then (l.carried.map (fun p => groupRefs p.1 s.me.grp)).flatten else []
    match firstTrap (regErr s.me (sRefs [l.n] ++ folded) ++
        [(!s.me.frags.isEmpty, ill subLoop), (more && s.energyDue, energyT s)]) with
    | some t => .next (s.trapE t)
    | none =>
      let s := s.beginScalar.modMe (fun f => f.commitStores (fun _ => true))
      if more then
        let s := s.modMe (fun f => { (f.wr l.n (f.rd l.n - f.vl.setWidth 64)) with pc := l.body })
        if s.me.preemptible then .next (s.park .endv) else .next (s.modMe Flow.stripStart)
      else .next (s.modMe (fun f => ((f.wr l.n 0).closeLoop).next))

/-- The ENDV word (R168). -/
def endvWord : Nat := 0x4F0000F0

/-- The address after the first ENDV word from pc on; the words passed are fetched (R170). -/
def State.skipPast (s : State) (f : Flow) : Nat → Word → Except Trap Word
  | 0, pc => .ok pc
  | k + 1, pc =>
    match s.fetch f pc with
    | .error t => .error t
    | .ok w => if w = endvWord then .ok (pc + 4) else s.skipPast f k (pc + 4)

/-- BRKV, R170. It drains VQ up to its mask's producer (R175, R184). A word that it skips and that cannot be fetched
raises its trap once the exit has taken effect, with EPC at that word (log 94). -/
def execBrkv (m : BitVec 4) (s : State) : Res :=
  match firstTrap (regErr s.me (mRef m) ++
      [(match s.me.loop with | none => true | some l => l.par || !s.me.frags.isEmpty, ill subLoop)]) with
  | some t => .next (s.trap t)
  | none =>
    if !s.me.maskDrained m.toNat then stall s
    else
    let x := (s.me.selN m) % 2 ^ s.me.vlN
    if x = 0 then .next (s.beginScalar.modMe (fun f => (f.commitStores (fun _ => true)).next))
    else
      let e := firstOne s.me.vlN 0 x
      let s := s.beginScalar.modMe (fun f =>
        match f.loop with
        | none => f
        | some l =>
          let f := f.commitStores (fun p => decide (p < e))
          let n := (f.rd l.n).toNat
          Flow.closeLoop { (f.wr l.n (w64 (n - e))) with vl := BitVec.ofNat 16 e })
      match s.skipPast s.me (2 ^ 55) (s.me.pc + 4) with
      | .ok t => .next (s.modMe (fun f => { f with pc := t }))
      | .error t => .next (s.trap t)

/-- VBR, R173: the positions set in m go to the label, the others on. The top of the fragment buffer is the head
of the list. It drains VQ up to its mask's producer (R175, R184). -/
def execVbr (m : BitVec 4) (o : BitVec 14) (s : State) : Res :=
  if !s.me.maskDrained m.toNat && (firstTrap (regErr s.me (mRef m) ++ [(s.me.loop.isNone, ill subLoop)])).isNone then stall s
  else
  run s (regErr s.me (mRef m) ++ [(s.me.loop.isNone, ill subLoop), (decide (8 ≤ s.me.frags.length), ⟨0x0D, 0, 0, none, 0⟩)])
    (fun s => s.beginScalar.modMe (fun f =>
      let a := f.act.toNat % 2 ^ f.vlN
      let t := a &&& f.maskN m
      let r := a - t
      let target := f.pc + (o.signExtend 64) <<< 2
      if r = 0 then { f with frags := .join (BitVec.ofNat 32768 r) :: f.frags, pc := target }
      else ({ f with frags := .parked (BitVec.ofNat 32768 t) target :: f.frags, act := BitVec.ofNat 32768 r }).next))

/-- VJOIN, R174. -/
def execVjoin (s : State) : Res :=
  run s [(s.me.loop.isNone, ill subLoop)] (fun s => s.beginScalar.modMe (fun f =>
    match f.frags with
    | [] => f.next
    | .parked m t :: rest => { f with frags := .join f.act :: rest, act := m, pc := t }
    | .join m :: rest => ({ f with frags := rest, act := f.act ||| m }).next))

end Sys2Proof.Machine
end

