-- ==== Sys2Proof/Machine/Tasks.lean ====
section
/-! DEFINITION. Tasks: R302 to R308. -/

namespace Sys2Proof.Machine

/-- A task handle (R302). -/
def taskHandle (gen die entry : Nat) : Word := w64 (gen <<< 16 + die <<< 14 + entry)

def Task.handle (t : Task) : Word := taskHandle t.gen t.die t.entry

/-- Whether a template breaks R303. -/
def templateBad (x : Nat) : Bool :=
  bits x 0 2 != 0 || decide (2 ^ 24 ≤ bits x 64 32) || decide (bits x 96 8 < 1 ∨ 8 < bits x 96 8) ||
    decide (3 < bits x 104 8) || bits x 116 4 != 0 || (decide (3 < bits x 120 8) && bits x 120 8 != 0xFF) ||
    bits x 224 32 != 0

/-- Generation of an HTS entry (R302, log 5). -/
def State.taskGen (s : State) (die e : Nat) : Nat := aget s.taskGens (die, e) 1

/-- A Free entry of the HTS of a die: which one is a free value (log 12). -/
def State.freeEntry (s : State) (die : Nat) : Option Nat :=
  let used := (s.tasks.filter (fun t => t.die == die)).map (·.entry)
  if 16384 ≤ used.length ∨ s.dev.dieLost.getLsbD die then none
  else
    let e0 := Config.pick s.freeCtr 16384 % 16384
    ((List.range 16384).find? (fun i => !used.contains ((e0 + i) % 16384))).map (fun i => (e0 + i) % 16384)

/-- The task a template describes (R303, R305), in a given entry. -/
def State.newTask (s : State) (f : Flow) (x : Nat) (arg : Word) (die e : Nat) (spawn : Bool) : Task where
  die := die
  entry := e
  gen := s.taskGen die e
  st := if spawn || bits x 64 32 == 0 then .ready else .defined
  pc := w64 (bits x 0 64)
  arg := arg
  tenant := f.tenant
  launch := f.key.launch
  count := bits x 64 32
  prio := bits x 104 8
  lgreq := bits x 96 8
  groups := ((List.range 4).filter (fun k => bit x (112 + k))).map (fun k => bits x (128 + 8 * k) 8)
  est := bits x 160 32
  done := bits x 192 32
  bound := none
  order := s.nextId

/-- TDEF and TSPAWN (R305). -/
def defineTask (s : State) (x a b : BitVec 5) (spawn : Bool) : Res :=
  let t := s.me.rd a
  match firstTrap (regErr s.me (sRefs [a, b]) ++ [(t.toNat % 8 != 0, alignT t)]) with
  | some tr => .next (s.trap tr)
  | none =>
    if s.stuck true false then stall s
    else if !s.eqOpen then holdEngine s (if spawn then .tspawn x a b else .tdef x a b)
    else
    let s := s.reachRange t.toNat 32
    match s.readRange s.me t.toNat 32 with
    | .error tr => .next (s.trap tr)
    | .ok (bs, xs) =>
      let w := natLE bs
      if templateBad w then .next (s.trap ⟨1, subTemplate, t, none, 0⟩)
      else
        gateRel s (if spawn then .tspawn x a b else .tdef x a b) (fun s =>
          let f := s.me
          let die := if bits w 120 8 = 0xFF then f.loc.die else bits w 120 8
          let s := (xs.foldl (fun s y => s.chargeBits f y.pa 8) s).perform f.key 4
          match s.freeEntry die with
          | none => .next (s.beginScalar.modMe (fun f => (f.wrBusy x 0).next))
          | some e =>
            let k := s.newTask f w (f.rd b) die e spawn
            let s := { s with tasks := s.tasks ++ [k], nextId := s.nextId + 1, freeCtr := s.freeCtr + 1 }
            .next (s.beginScalar.modMe (fun f => (f.wrBusy x k.handle).next)))

/-- TDEF, R305. -/
def execTdef (x a b : BitVec 5) (s : State) : Res := defineTask s x a b false
/-- TSPAWN, R305. -/
def execTspawn (x a b : BitVec 5) (s : State) : Res := defineTask s x a b true

/-- A decrement at an HTS (R306): of a Defined task of the handle's generation, else nothing. -/
def State.decTask (s : State) (h amount : Nat) : State :=
  let hit (t : Task) : Bool := decide (h < 2 ^ 32) && t.die == bits h 14 2 && t.entry == bits h 0 14 && t.gen == bits h 16 16 && t.st == .defined
  { s with
    tasks := s.tasks.map (fun t =>
      if hit t then
        if amount < t.count then { t with count := t.count - amount }
        else { t with count := 0, st := .ready, order := s.nextId }
      else t)
    nextId := s.nextId + 1 }

/-- TDEC, R306: an AMO ordered rel at dev. -/
def execTdec (a b : BitVec 5) (s : State) : Res :=
  match firstTrap (regErr s.me (sRefs [a, b])) with
  | some tr => .next (s.trap tr)
  | none =>
    gateQueueRel s (.tdec a b) (fun s =>
      let h := (s.me.rd a).toNat
      let n := min (s.me.rd b).toNat (2 ^ 24 - 1)
      .next (((s.beginScalar.perform s.me.key 4).decTask h n).modMe Flow.next))

end Sys2Proof.Machine
end

