-- ==== Sys2Proof/Machine/Timetable.lean ====
section
/-! DEFINITION. Movement timetables and the tier engine: R313 to R329. -/

namespace Sys2Proof.Machine

/-! ### Entries and records -/

/-- What the engine finds in an entry's 32 bytes (R314). -/
def ttEntry (idx : Nat) (x : Nat) : TtEnt where
  idx := idx
  st := 2
  start := bits x 0 16
  need := bits x 16 16
  act := bits x 32 8
  tiers := bits x 40 8
  wb := bit x 48
  va := w64 (bits x 64 64)
  len := bits x 128 32
  doff := bits x 160 32
  chk := false
  miss := false
  cause := 0
  sub := 0
  moved := 0
  lane := none
  after := 0
  evNew := false
  lineBad := false

/-- An entry of a line that cannot be read (R314). -/
def ttBad (idx sub : Nat) : TtEnt := { ttEntry idx 0 with st := 8, cause := 0x11, sub := sub, lineBad := true }

def TtEnt.src (e : TtEnt) : Nat := e.tiers % 4
def TtEnt.dst (e : TtEnt) : Nat := bits e.tiers 2 2
/-- FETCH and PIN copy from the home side to the local side (R315). -/
def TtEnt.inward (e : TtEnt) : Bool := e.act == 0 || e.act == 3
def TtEnt.home (e : TtEnt) : Nat := if e.inward then e.src else e.dst
/-- The tier of the local side. -/
def TtEnt.tier (e : TtEnt) : Nat := if e.inward then e.dst else e.src

/-- Whether a field breaks R314 or the table of R315; `raw` is the entry, `prev` the START before it. -/
def TtEnt.argBad (e : TtEnt) (raw prev : Nat) : Bool :=
  decide (e.need < e.start) || decide (4 < e.act) || bits raw 44 4 != 0 || bits raw 49 15 != 0 || bits raw 192 64 != 0 ||
    e.len % 8 != 0 || decide (e.len < 8) || decide (4194304 < e.len) || e.doff % 8 != 0 || decide (e.start < prev) ||
    decide (1 < e.home) || decide (e.tier < 1 ∨ 2 < e.tier) || e.home == e.tier

/-- The physical address of byte i of a local side: scratchpad or pool region (R315). -/
def State.localPa (s : State) (c : Ctx) (tier doff : Nat) : Nat :=
  if tier = 2 then spmBase + c.cluster * 2 ^ 22 + doff
  else 0x10000000000 + wbits (s.ten c.tenant).pool 0 40 + doff

/-- Whether the local side lies in its region: the launch's scratchpad, or the context's part of the pool, as far as ways of
32 MiB are set aside (R220, R315). -/
def State.localOk (s : State) (c : Ctx) (e : TtEnt) : Bool :=
  if e.tier = 2 then decide (c.spmLo ≤ e.doff ∧ e.doff + e.len ≤ c.spmHi)
  else
    let p := (s.ten c.tenant).pool
    decide (e.doff + e.len ≤ wbits p 40 24 * 2 ^ 20 ∧ wbits p 0 40 + e.doff + e.len ≤ s.dev.poolWays * 2 ^ 25)

/-- Tier of a physical address: 0 HBM, 1 pool. -/
def tierOf (pa : Nat) : Nat :=
  match regionOf pa with
  | .hbm => 0
  | .pool => 1
  | _ => 9

/-- Whether every page of the home side is of the named tier (R315). -/
def State.homeOk (s : State) (c : Ctx) (e : TtEnt) : Bool :=
  (List.range (e.len / 4096 + 2)).all (fun i =>
    let va := if i = 0 then e.va.toNat else (e.va.toNat / 4096 + i) * 4096
    decide (e.va.toNat + e.len ≤ va) ||
      (match s.translate c va .r with
       | .ok x => tierOf x.pa == e.home
       | .error _ => false))

/-- An entry as it is read: Queued when its START is reached, Idle, or Failed in the order ARG, RANGE, LOCAL, XLATE
(R315, R317). A home side in the arena window is LOCAL, as one that names TCM is (R213, log 99). -/
def State.readEntry (s : State) (c : Ctx) (cur prev idx raw : Nat) : TtEnt :=
  let e := ttEntry idx raw
  let fail (sub : Nat) : TtEnt := { e with st := 8, cause := 0x11, sub := sub }
  if e.argBad raw prev then fail 5
  else if !s.localOk c e then fail 7
  else if (firstIn spmVa localEnd e.va.toNat e.len).isSome || (inLocal e.va.toNat e.len).isSome then fail 4
  else if !s.homeOk c e then fail 1
  else if e.start ≤ cur then { e with st := 3 } else e

/-- Changes the binding of a flow. -/
def State.modTt (s : State) (k : FlowKey) (g : Binding → Binding) : State :=
  s.modFlow k (fun f => { f with tt := f.tt.map g })

/-- CUR of TTCUR. -/
def Flow.ttCur (f : Flow) : Nat := wbits f.ttcur 0 16

/-- START of the last entry whose fields were read (R314). -/
def Binding.lastStart (b : Binding) : Nat :=
  match (b.ents.filter (fun e => !e.lineBad)).getLast? with
  | some e => e.start
  | none => 0

/-- The lowest entry that is not Checked. -/
def Binding.lowUnchecked (b : Binding) : Nat :=
  match b.ents.find? (fun e => !e.chk) with
  | some e => e.idx
  | none => b.next

/-- The subcode of COPY_FAULT for the cause of a failed engine access (R289). -/
def copySub (cause : Nat) : Nat := if cause = 0x0F then 2 else if cause = 7 then 3 else 1

/-- How many entries of the line of the next one are read together (R314): those of the line that stand at most 64
ahead of the lowest unchecked one, and one beyond them where a check waits for it (R322). -/
def Binding.lineEntries (b : Binding) : Nat :=
  max 1 (min (min (4 - (b.table.toNat + 32 * b.next) / 32 % 4) (b.count - b.next)) (b.lowUnchecked + 65 - b.next))

/-- Where the engines of a cluster issue from. -/
def engineLoc (cl : Nat) : Loc := ⟨cl / 16, cl % 16, 0, 0⟩

/-- An engine of a cluster reads n bytes at a translated place behind what stands on its path (R196, R198); a host line of an
uncached page is not kept (R423). -/
def State.engineReach (s : State) (cl : Nat) (x : Xl) (n : Nat) : State :=
  let pa := x.pa
  let key := x.key
  let s := s.drainPath (s.pathOf (engineLoc cl) pa key false)
  let s := if pa / 8 = (pa + n - 1) / 8 then s else s.drainPath (s.pathOf (engineLoc cl) (pa + n - 1) key false)
  s.pointRead none pa key (x.pol != 2)

/-- Reads the next entries of the table (R314). -/
def State.readLine (s : State) (k : FlowKey) (f : Flow) (b : Binding) : State :=
  let va := b.table.toNat + 32 * b.next
  let n := b.lineEntries
  let line := va / 128 * 128
  let sub : Option Nat :=
    match s.rangeErr b.ctx line .r 128 with
    | some (e, _) => some (copySub e.1)
    | none => if (s.badOf (s.rangeXls b.ctx line .r 128)).isSome then some 3 else none
  let xs := s.rangeXls b.ctx va .r (32 * n)
  let s := (piecesOf xs).foldl (fun s p =>
    (s.chargeCross f.tenant k.launch p.1.pa p.1.key p.2 false).engineReach b.ctx.cluster p.1 p.2) s
  let ents := match sub with
    | some x => (List.range n).map (fun i => ttBad (b.next + i) x)
    | none =>
      let bs := xs.map (fun x => s.pointByte x.pa x.key)
      ((List.range n).foldl (fun (acc : List TtEnt × Nat) i =>
        let e := s.readEntry b.ctx f.ttCur acc.2 (b.next + i) (natLE ((bs.drop (32 * i)).take 32))
        (acc.1 ++ [e], e.start)) ([], b.lastStart)).1
  let price := if sub.isSome then 0 else sumN (xs.map (fun x => s.bytePrice f.loc.die x.pa))
  (s.charge f.tenant k.launch price).modTt k (fun b => { b with ents := b.ents ++ ents, next := b.next + n })

/-- Whether two local sides overlap (R317). -/
def TtEnt.localMeets (a b : TtEnt) : Bool :=
  a.tier == b.tier && decide (a.doff < b.doff + b.len ∧ b.doff < a.doff + a.len)

/-- A record that matches an entry exactly (R316). -/
def TtRec.fits (r : TtRec) (e : TtEnt) : Bool :=
  r.tier == e.tier && r.doff == e.doff && r.va == e.va && r.len == e.len && r.pinned == (e.act == 4)

/-- The record an EVICT or UNPIN releases. -/
def Binding.match? (b : Binding) (e : TtEnt) : Option TtRec :=
  if e.act = 1 ∨ e.act = 4 then b.recs.find? (fun r => r.fits e) else none

/-- Whether an entry moves bytes (R316, R326). -/
def Binding.moves (b : Binding) (e : TtEnt) : Bool :=
  if e.act = 1 ∨ e.act = 4 then
    (match b.match? e with | some r => r.wb || e.wb | none => false)
  else true

/-- Bytes of a chunk: it ends before a 4-KiB boundary of either side's address and with what is left (R282, R317). -/
def chunkLen (a b left : Nat) : Nat := min (min (4096 - a % 4096) (4096 - b % 4096)) left

/-- The chunks of len bytes between addresses a and b, from offset o on, at most so many: offset and bytes. -/
def chunkCuts (a b len : Nat) : Nat → Nat → List (Nat × Nat)
  | 0, _ => []
  | k + 1, o =>
    if o < len then
      let n := chunkLen (a + o) (b + o) (len - o)
      (o, n) :: chunkCuts a b len k (o + n)
    else []

/-- All the chunks of a movement. -/
def allCuts (a b len : Nat) : List (Nat × Nat) := chunkCuts a b len (2 * (len / 4096) + 4) 0

/-- The price of a tier (R363): HBM, pool, scratchpad. -/
def tierPrice (tier : Nat) : Nat := if tier = 0 then priceHbm else if tier = 1 then priceL2 else priceSpm

/-- Price of a byte that the Sluice of a cluster moves between a home side's place and a local side's (R326, R363). -/
def movePrice (cl home tier pa : Nat) : Nat :=
  let link (a : Nat) : Nat := if homeDie a = cl / 16 then 0 else priceDie
  tierPrice (tierOf home) + link home + tierPrice tier + (if tier = 2 then 0 else link pa)

/-- The charge of an entry's movement (R326). -/
def State.ttCharge (s : State) (c : Ctx) (e : TtEnt) : Nat :=
  let l := s.localPa c e.tier e.doff
  sumN ((allCuts e.va.toNat l e.len).map (fun p =>
    match s.translate c (e.va.toNat + p.1) .r with
    | .ok x => p.2 * movePrice c.cluster x.pa e.tier (l + p.1)
    | .error _ => p.2 * (tierPrice e.home + tierPrice e.tier)))

/-- Whether the charge of an entry fits its tenant's remaining window (R326, log 112). -/
def State.ttFits (s : State) (f : Flow) (b : Binding) (e : TtEnt) : Bool :=
  !b.moves e || decide (s.ttCharge b.ctx e ≤ (s.ten f.tenant).enbudget * 10 ^ 9)

/-- The bindings of a cluster. -/
def State.bindings (s : State) (cl : Nat) : List Binding :=
  (s.flows.filter (fun f => f.loc.clusterIdx == cl)).filterMap (fun f => f.tt)

/-- Whether the flow's accesses before the MARK that made an entry Queued have performed where it reads: at cluster for
a scratchpad's local side, else at dev (R323). -/
def State.ttReleased (s : State) (f : Flow) (e : TtEnt) : Bool :=
  !(s.loadsOut f e.after) && !(s.storesOut f e.after (if !e.inward && e.tier == 2 then 2 else 4))

/-- The point a flow stands at: parked at a word, or waiting at one that is a point (R376). -/
def Flow.pointOf (f : Flow) : Option Point :=
  match f.point, f.status with
  | some p, _ => some p
  | none, .waiting .wfe => some .wait
  | none, .waiting (.swait ..) => some .wait
  | none, .waiting (.bar ..) => some .wait
  | none, .waiting (.arrwait ..) => some .wait
  | none, .waiting (.grant l) => some (if l then .loopv else .setvl)
  | _, _ => none

/-- Whether a pending request is to be served where a flow stands; a forced save alone does not wait for its tags (R53, R376,
R377). -/
def Flow.asksSave (f : Flow) : Bool := f.preq && f.pointOf.isSome && (!f.holdsTag || f.point == some .forced)

/-- Whether a flow waits to be saved where it stands: not where it waits for something else and its last save found no room
(R378). -/
def Flow.saving (f : Flow) : Bool := f.asksSave && (f.point.isSome || !f.noRoom)

/-- Whether a Queued entry may start but for energy (R316, R317): lanes, record, index order, an earlier entry under way
that shares its local side, and the accesses before its MARK; none starts before a save (R328). -/
def State.ttReady (s : State) (f : Flow) (b : Binding) (e : TtEnt) : Bool :=
  let bs := s.bindings f.loc.clusterIdx
  e.st == 3 && !b.stopping && !f.saving &&
    !(b.ents.any (fun x => decide (x.idx < e.idx) && (x.st == 3 || (decide (x.st < 5) && x.localMeets e)))) &&
    decide (((bs.map (fun b => b.ents.filter (fun x => x.st == 4))).flatten).length < 8) &&
    (!e.inward || decide (sumN (bs.map (fun b => b.recs.length + (b.ents.filter (fun x => x.st == 4 && x.inward)).length)) < 256)) &&
    (e.after == 0 || s.ttReleased f e)

/-- Whether an entry is Queued for energy (R324, R326). -/
def State.ttDeferred (s : State) (f : Flow) (b : Binding) (e : TtEnt) : Bool := s.ttReady f b e && !s.ttFits f b e

/-- Changes entry n. -/
def Binding.modEnt (b : Binding) (n : Nat) (g : TtEnt → TtEnt) : Binding :=
  { b with ents := b.ents.map (fun e => if e.idx = n then g e else e) }

/-- Bytes written at translated places by the Sluice, word by word, behind what stands on their paths (R196, R203). -/
def State.engineWrite (s : State) (f : Flow) (c : Ctx) (xs : List Xl) (bs : List Byte) : State :=
  let s := xs.foldl (fun s x => s.setDirty c x) s
  (f.bitStores 0 0 0 (8 * bs.length) (natLE bs) xs).foldl (fun s a =>
    (s.drainPath (s.pathOf (engineLoc c.cluster) a.addr a.key true)).applyStore a.addr a.data.toNat a.en.toNat a.key none) s

/-- Local places as translated bytes; the pool copy stands under the key of its home page (log 33). -/
def State.localXls (s : State) (c : Ctx) (tier doff n key : Nat) : List Xl :=
  let pa := s.localPa c tier doff
  (List.range n).map (fun i => ⟨pa + i, if tier = 2 then 0 else key, 0, 0, 0, false, false⟩)

/-- A translation moved on by i bytes of its page. -/
def Xl.at (x : Xl) (i : Nat) : Xl := { x with pa := x.pa + i }

/-- Moves n bytes between a translated place of the home side and offset doff of the local side, toward the local side
when `inward`, charged to the flow (R326); or the failure's subcode (R317). -/
def State.ttPiece (s : State) (f : Flow) (c : Ctx) (tier doff : Nat) (home : Xl) (n : Nat) (inward : Bool) : Except Nat State :=
  let xs := (List.range n).map home.at
  let ls := s.localXls c tier doff n home.key
  let src := if inward then xs else ls
  let dst := if inward then ls else xs
  let s := (piecesOf src).foldl (fun s p => s.engineReach c.cluster p.1 p.2) s
  if (src ++ dst).any (fun x => (s.homeLost x.pa).isSome) then .error 2
  else if (s.badOf src).isSome || (s.lostByte (dst.map (·.pa))).isSome then .error 3
  else
    let s := s.engineWrite f c dst (src.map (fun x => s.pointByte x.pa x.key))
    .ok (s.charge f.tenant f.key.launch (n * movePrice c.cluster home.pa tier (s.localPa c tier doff)))

/-- Moves a chunk of n bytes of a movement from offset o on, translated as one, in pieces of 8 bytes. -/
def State.ttChunk (s : State) (f : Flow) (c : Ctx) (tier doff : Nat) (home : Xl) (n : Nat) (inward : Bool) : Except Nat State :=
  (List.range ((n + 7) / 8)).foldl (fun r i =>
    match r with
    | .error e => .error e
    | .ok s => s.ttPiece f c tier (doff + 8 * i) (home.at (8 * i)) (min 8 (n - 8 * i)) inward) (.ok s)

/-- A record is dropped; the entry that made it becomes `st` (R317). -/
def Binding.dropRec (b : Binding) (r : TtRec) (st : Nat) : Binding :=
  { b with
    recs := b.recs.filter (fun q => q != r)
    ents := b.ents.map (fun e => if e.idx = r.ent ∧ e.st = 5 then { e with st := st, evNew := st == 7 } else e) }

/-- Writes a record's local side home at once (R321, R325); charged, never deferred (R326). -/
def State.writeHome (s : State) (f : Flow) (c : Ctx) (r : TtRec) : State :=
  (allCuts r.va.toNat (s.localPa c r.tier r.doff) r.len).foldl (fun (s : State) (p : Nat × Nat) =>
    let s := s.dirtied c (r.va.toNat + p.1)
    match s.access c (r.va.toNat + p.1) .w with
    | .error _ => s
    | .ok x => (match s.ttChunk f c r.tier (r.doff + p.1) x p.2 false with | .ok s' => s' | .error _ => s)) s

/-- Releases a record as EVICT does, at once (R321, R325). -/
def State.releaseRec (s : State) (k : FlowKey) (r : TtRec) : State :=
  match s.flow? k with
  | none => s
  | some f =>
    match f.tt with
    | none => s
    | some b => (if r.wb then s.writeHome f b.ctx r else s).modTt k (fun b => b.dropRec r 6)

/-- An entry fails in transfer (R317). -/
def TtEnt.failed (sub : Nat) (e : TtEnt) : TtEnt := { e with st := 8, cause := 0x11, sub := sub, lane := none }

/-- The translations under which a record's home side would be written back, by the offset its chunks start at (R327). -/
def State.homeXls (s : State) (c : Ctx) (wb : Bool) (va tier doff len : Nat) : List (Nat × Xl) :=
  if !wb then []
  else
    (allCuts va (s.localPa c tier doff) len).filterMap (fun p =>
      match s.access c (va + p.1) .w with
      | .ok x => some (p.1, x)
      | .error _ => none)

/-- The completion of an entry that has moved its bytes (R316, R317). -/
def State.entryDone (s : State) (k : FlowKey) (e : TtEnt) : State :=
  s.modTt k (fun b =>
    let b := match b.match? e with
      | some r => b.dropRec r 6
      | none => b
    let b := if e.inward then { b with recs := b.recs ++ [⟨e.idx, e.tier, e.doff, e.va, e.len, e.wb, e.act == 3,
        s.homeXls b.ctx e.wb e.va.toNat e.tier e.doff e.len⟩] } else b
    b.modEnt e.idx (fun e => { e with st := 5 }))

/-- The next step of a Running entry (R316, R317): a lane takes its next chunk, unless the flow is to be saved (R328), and
translates it, moves the next piece
of its chunk, or the entry completes. -/
def State.entryStep (s : State) (k : FlowKey) (f : Flow) (b : Binding) (e : TtEnt) : State :=
  let put (s : State) (g : TtEnt → TtEnt) : State := s.modTt k (fun b => b.modEnt e.idx g)
  if b.moves e && decide (e.moved < e.len) then
    match e.lane with
    | none =>
      if f.saving then s else
      let va := (e.va.toNat + e.moved) % 2 ^ 64
      let n := chunkLen va (s.localPa b.ctx e.tier e.doff + e.moved) (e.len - e.moved)
      let s := if e.inward then s else s.dirtied b.ctx va
      match s.access b.ctx va (if e.inward then .r else .w) with
      | .error er => put s (TtEnt.failed (copySub er.1))
      | .ok x => put s (fun e => { e with lane := some ⟨e.moved, e.moved + n, x⟩ })
    | some l =>
      let n := min 8 (l.hi - e.moved)
      match s.ttPiece f b.ctx e.tier (e.doff + e.moved) (l.home.at (e.moved - l.lo)) n e.inward with
      | .error sub => put s (TtEnt.failed sub)
      | .ok s => put s (fun e => { e with moved := e.moved + n, lane := if e.moved + n < l.hi then e.lane else none })
  else s.entryDone k e

/-! ### TTSTAT (R324) -/

/-- The TTSTAT word of an entry. -/
def State.ttWord (s : State) (f : Flow) (b : Binding) (e : TtEnt) : Nat :=
  let cause := if e.st = 8 then e.cause else if s.ttDeferred f b e then 0x0E else 0
  e.st + (b2n e.chk) <<< 4 + (b2n e.miss) <<< 5 + cause <<< 8 + (if e.st = 8 then e.sub else 0) <<< 16

/-- What TTSTAT writes. -/
def State.ttStat (s : State) (f : Flow) (n : Word) : Word :=
  match f.tt with
  | none => 0
  | some b =>
    if n = BitVec.allOnes 64 then w64 (b.mode + 4 + b.misses <<< 16 + b.stall <<< 32)
    else if b.count ≤ n.toNat then 0
    else
      match b.ents.find? (fun e => e.idx == n.toNat) with
      | some e => w64 (s.ttWord f b e)
      | none => 1

/-- An engine word of the timetable feature: its checks, then how it waits for EQ. -/
def ttInstr (s : State) (i : Instr) (refs : List RegRef) (gate : State → (State → Res) → Res) (k : State → Res) : Res :=
  match firstTrap (featErr s.dev featTimetable i ++ regErr s.me refs) with
  | some t => .next (s.trap t)
  | none => gate s k

/-- A word that stays at issue while commands before it stand in EQ. -/
def gateIssue (s : State) (k : State → Res) : Res := if s.eqFree then k s else stallEngine s

/-- A word that raises nothing any more and acts on what the boundary orders: in replay mode it stands in EQ till then (R209). -/
def gateLogged (s : State) (i : Instr) (k : State → Res) : Res :=
  if s.eqOpen && (s.engineFree s.me.key || s.me.qGo) then k (s.modMe (fun f => { f with qGo := false })) else queueWord s i

/-- TTSTAT, R324. -/
def execTtstat (x a : BitVec 5) (s : State) : Res :=
  ttInstr s (.ttstat x a) (sRefs [a]) (fun s => gateQueue s (.ttstat x a)) (fun s =>
    let v := s.ttStat s.me (s.me.rd a)
    .next (s.beginScalar.modMe (fun f => (f.wrBusy x v).next)))

/-! ### TTBIND (R321) -/

/-- Unbinds: records are released, pinned ones included. -/
def State.unbind (s : State) (k : FlowKey) : State :=
  match (s.flow? k).bind (fun f => f.tt) with
  | none => s
  | some b => (b.recs.foldl (fun s r => s.releaseRec k r) s).modFlow k (fun f => { f with tt := none })

/-- TTBIND with a mode: an existing binding is unbound first, once its Running entries have finished. A retired cluster takes no new
one: the word waits, and its flow saves (R450). -/
def execTtbind (a b : BitVec 5) (o : BitVec 2) (s : State) : Res :=
  let t := s.me.rd a
  let n := s.me.rd b
  ttInstr s (.ttbind a b o) (sRefs [a, b]) (fun s => gateEngine s (.ttbind a b o)) (fun s =>
    if (match s.me.tt with | some b => b.ents.any (fun e => e.st == 4) | none => false) then
      stall (s.modTt s.me.key (fun b => { b with stopping := true }))
    else if t ≠ 0 ∧ s.dev.retcl.getLsbD s.me.loc.clusterIdx then stall s
    else
      let s := s.unbind s.me.key
      let c := { s.ctx s.me with core := none }
      if t = 0 then .next (s.beginScalar.modMe (fun f => ({ f with ttcur := 0, ttmiss := 0 }).next))
      else
        run s [(t.toNat % 32 != 0, alignT t), (decide (n.toNat < 1 ∨ 65535 < n.toNat), ⟨0x0B, 3, n, none, 0⟩),
            (decide (16 ≤ (s.bindings s.me.loc.clusterIdx).length), ⟨0x0B, 2, 16, none, 0⟩)]
          (fun s => s.beginScalar.modMe (fun f => ({ f with
            tt := some ⟨t, n.toNat, o.toNat, [], 0, [], 0, 0, none, false, [], false, false, c⟩
            ttcur := 0
            ttmiss := 0 }).next)))

/-! ### MARK (R322, R323) -/

/-- Whether the entries that MARK m needs have been read. -/
def Binding.readFor (b : Binding) (m : Nat) : Bool := b.next == b.count || b.ents.any (fun e => decide (m < e.start))

/-- C of R322. -/
def Binding.checked (b : Binding) (m : Nat) : List TtEnt :=
  b.ents.filter (fun e => (!e.chk && decide (e.need ≤ m)) || (e.chk && e.act == 3 && e.st == 7 && e.evNew))

def TtEnt.kept (e : TtEnt) : Bool := e.st == 5 || e.st == 6
def TtEnt.ended (e : TtEnt) : Bool := decide (5 ≤ e.st)

/-- TTMISS for a missed entry (R318). -/
def State.missWord (s : State) (f : Flow) (b : Binding) (e : TtEnt) : Word :=
  let kind := if e.st = 8 then 1 else if e.st = 7 then 2 else if s.ttDeferred f b e then 3 else 0
  w64 (e.idx + kind <<< 16 + 2 ^ 31)

/-- An entry that a MARK at a place in program order makes Queued (R317, R323). -/
def TtEnt.queue (cur seq : Nat) (e : TtEnt) : TtEnt := if e.st = 2 ∧ e.start ≤ cur then { e with st := 3, after := seq } else e

/-- TTCUR rises to m, and the entries it reaches become Queued (R317). -/
def Flow.reach (f : Flow) (m : Nat) : Flow :=
  let cur := max f.ttCur m
  { f with
    ttcur := w64 cur
    tt := f.tt.map (fun b => { b with ents := b.ents.map (TtEnt.queue cur f.seq) }) }

/-- An entry after the check of C, of which some missed (R322). -/
def TtEnt.check (c miss : List Nat) (e : TtEnt) : TtEnt :=
  { e with
    chk := e.chk || c.contains e.idx
    miss := e.miss || miss.contains e.idx
    evNew := e.evNew && !c.contains e.idx }

/-- The end of a check: misses are counted, C is Checked, and the flow goes on with the acquire of R323. -/
def State.endCheck (s : State) (k : FlowKey) (f : Flow) (b : Binding) : State :=
  let miss := b.ents.filter (fun e => b.cset.contains e.idx && !e.kept)
  let new : Binding := { b with
    misses := min (b.misses + miss.length) 65535
    check := none
    begun := false
    cset := []
    late := false
    ents := b.ents.map (TtEnt.check b.cset (miss.map (·.idx))) }
  let word (old : Word) : Word := (miss.getLast?.map (s.missWord f b)).getD old
  let s' := s.modFlow k (fun g => ({ g with ttmiss := word g.ttmiss, tt := some new }).next)
  s'.acquire k 2

/-- MARK: with no binding it raises TTCUR; else its check waits at the Sluice (MARK_CHECK_COMPLETE). Until the check has
found C, `cset` holds the entries that had ended when the MARK arrived (R322). -/
def execMark (m : BitVec 16) (s : State) : Res :=
  ttInstr s (.mark m) [] gateIssue (fun s =>
    match s.me.tt with
    | none => .next (s.beginScalar.modMe (fun f => (f.reach m.toNat).next))
    | some b =>
      if b.check.isSome then stallEngine s
      else
        gateReplay s (fun s =>
          .next (s.beginScalar.modTt s.me.key (fun b => { b with
            check := some m.toNat
            begun := false
            cset := (b.ents.filter TtEnt.ended).map (·.idx) }))))

/-! ### Pins by hand (R325) -/

/-- Whether a record's home side lies wholly in [a, a + n). -/
def TtRec.within (r : TtRec) (a n : Nat) : Bool := decide (a ≤ r.va.toNat ∧ r.va.toNat + r.len ≤ a + n)

/-- TIERPIN, R325. -/
def execTierpin (a b : BitVec 5) (s : State) : Res :=
  let lo := (s.me.rd a).toNat
  let n := (s.me.rd b).toNat
  ttInstr s (.tierpin a b) (sRefs [a, b]) (fun s => gateQueue s (.tierpin a b)) (fun s =>
    .next ((s.beginScalar.modTt s.me.key (fun b =>
      { b with recs := b.recs.map (fun (r : TtRec) => if n ≠ 0 ∧ r.within lo n then { r with pinned := true } else r) })).modMe Flow.next))

/-- TIERFREE, R325. -/
def execTierfree (a b : BitVec 5) (s : State) : Res :=
  let lo := (s.me.rd a).toNat
  let n := (s.me.rd b).toNat
  ttInstr s (.tierfree a b) (sRefs [a, b]) (fun s => gateLogged s (.tierfree a b)) (fun s =>
    let k := s.me.key
    let rs : List TtRec := match s.me.tt with
      | some b => if n = 0 then [] else b.recs.filter (fun (r : TtRec) => r.within lo n)
      | none => []
    .next ((rs.foldl (fun (s : State) r => s.releaseRec k r) s.beginScalar).modMe Flow.next))

end Sys2Proof.Machine
end

