-- ==== Sys2Proof/Machine/EvOrder.lean ====
section
/-! DEFINITION. The steps of a flow that no word of its own takes: its vector sequencers (R79, R187 to R190), results
and transfers that arrive (R51, R143, R148, R263), the end of a wait (R178), and the steps of the abstract machine
(R198). Each event acts where the rule enables it and changes nothing elsewhere. -/

namespace Sys2Proof.Machine

/-- An event acts where its condition holds; elsewhere the machine stands still. -/
def onlyIf (b : Bool) (s t : State) : Res := .next (if b then t else s)

/-- An event of a flow that exists. -/
def withFlow (s : State) (k : FlowKey) (g : Flow → State) : Res :=
  match s.flow? k with
  | some f => .next (g f)
  | none => .next s

/-! ### Convoys and sequencers -/

/-- Whether the flow stands at a SETVL, so that no word joins the convoy before it starts (R122, R376). -/
def Flow.atSetvl (f : Flow) : Bool := f.point.isSome || f.status == .waiting (.grant false)

/-- Whether the convoy at the head of VQ starts: it is whole, and the one before it has ended (R79). -/
def Flow.convoyReady (f : Flow) : Bool :=
  f.vecIdle && !f.vq.isEmpty && (!f.convoy.isOpen || f.atSetvl || !(convoyHead f.vq).2.isEmpty)

/-- CONVOY_START, R79. -/
def execEvConvoyStart (k : FlowKey) (s : State) : Res :=
  withFlow s k (fun f =>
    if f.convoyReady then
      let c := convoyHead f.vq
      s.modFlow k (fun f => { f with vq := c.2, cv := some (runConvoy c.1) })
    else s)

/-- A flow with the convoy that it advances in force: the one R79 allows to start, or the one under way. -/
def Flow.begun (f : Flow) : Flow :=
  if f.convoyReady then { f with vq := (convoyHead f.vq).2, cv := some (runConvoy (convoyHead f.vq).1) } else f

/-- The lowest position that a convoy has not yet advanced on lane group j: its element group d there is 512 bits at d % 4
of the slice of register d / 4 (R187). -/
def RunConvoy.posOn (c : RunConvoy) (j : Nat) : Nat :=
  let lanes := (List.range 8).filter (fun i => c.gnt.getLsbD i)
  let d := nth0 c.done j
  (2048 * lanes.length * (d / 4) + 2048 * (lanes.findIdx (· == j)) + 512 * (d % 4)) / max c.width 1

/-- Remaining elements of the convoy on lane group j (R189): VL less the lowest position not yet advanced there. -/
def Flow.remOn (f : Flow) (j : Nat) : Nat :=
  match f.begun.cv with
  | none => 0
  | some c => c.vl - c.posOn j

/-- Whether a vector load that has issued without its values has those of positions p to p + n − 1. -/
def Defer.has (d : Defer) (p n : Nat) : Bool :=
  match d.vec with
  | none => true
  | some e => ((e.elems.drop (p - e.start)).take (n - (e.start - p))).all (fun x => x.2.all (fun a => d.got.any (fun b => b.1 == a)))

/-- A flow is ready on a lane group while a convoy that may start, or has, has element groups left there, and a load of
it has the values of the next (R187). For the words issued before a SETVL it goes on holding the lane groups they were issued
under, or they could never complete (log 100). -/
def State.readyOn (s : State) (f : Flow) (j : Nat) : Bool :=
  match f.begun.cv with
  | some c =>
    decide (nth0 c.done j < nth0 c.total j) &&
      (s.ckpts.isEmpty || c.ws.all (fun w => match w.due with
        | some n => s.ckpts.all (fun d => !(d.before.key == f.key && d.seq == n) || d.has (c.posOn j) (ceilDiv 512 (max c.width 1)))
        | none => true))
  | none => false

/-- The sequencer of a lane group. -/
def State.seqr (s : State) (core j : Nat) : Seqr :=
  (s.seqrs.find? (fun q => q.core == core && q.lane == j)).getD ⟨core, j, [], none, 0, none⟩

/-- Whether the flow last advanced has ended its strip of a loop on the lane group (R189): no element group of the strip
is left there, and the flow has left the strip. -/
def State.stripEnded (s : State) (q : Seqr) : Bool :=
  match q.last with
  | none => false
  | some (k, strip) =>
    match s.flow? k with
    | none => true
    | some f =>
      !((match f.cv with | some c => decide (nth0 c.done q.lane < nth0 c.total q.lane) | none => false) && (match f.cv with | some c => c.strip == strip | none => false)) &&
        !f.vq.any (fun w => w.strip == strip) && f.stripNo != strip

/-- The precedent tenant among ready flows (R189): least charge over weight, tenants of weight 0 last. -/
def State.precedent (s : State) (q : Seqr) (ready : List Flow) : Option Nat :=
  let ts := sortBy id (dedupN (ready.map (fun f => f.tenant)))
  let w (t : Nat) : Nat := (s.ten t).weight
  let c (t : Nat) : Nat := aget q.charge t 0
  let pos := ts.filter (fun t => w t != 0)
  if pos.isEmpty then argMin c ts
  else pos.foldl (fun best t =>
    match best with
    | none => some t
    | some b => if c t * w b < c b * w t then some t else some b) none

/-- Ages after a lane group has charged n element-beats to a flow (R190). -/
def State.agesAfter (s : State) (core j : Nat) (k : FlowKey) (n : Nat) (f : Flow) : Flow :=
  if f.loc.coreIdx = core then
    { f with age := f.age.set j (if f.key = k || !s.readyOn f j then 0 else nth0 f.age j + n) }
  else f

/-- An advance of one flow's convoy by one element group (R187, R188), which starts a convoy that R79 allows to. A convoy outside a loop is a strip, and with its
last element group there no precedent tenant stands any more (R189). -/
def State.advance (s : State) (q : Seqr) (f : Flow) : State :=
  match f.begun.cv with
  | none => s
  | some c =>
    let j := q.lane
    let n := c.words
    let fj := c.aWords * priceA + (c.words - c.aWords) * pricePipe
    let s := s.charge f.tenant f.key.launch fj
    let s := s.modFlow f.key (fun f => { f.begun with
      cv := some { c with done := c.done.set j (nth0 c.done j + 1) }
      qBeats := f.qBeats + n })
    let ended := c.strip = 0 ∧ nth0 c.total j ≤ nth0 c.done j + 1
    let q' : Seqr := { q with
      charge := aset q.charge f.tenant (aget q.charge f.tenant 0 + n)
      since := q.since + n
      prec := if ended then none else q.prec
      last := if c.strip = 0 then none else some (f.key, c.strip) }
    { s with
      me := s.agesAfter q.core j f.key n s.me
      rest := s.rest.map (s.agesAfter q.core j f.key n)
      seqrs := q' :: s.seqrs.filter (fun p => !(p.core == q.core && p.lane == j)) }

/-- The flow a sequencer chooses (R189), and the sequencer after a revision; in a cycle in which no flow is ready no
precedent tenant stands. -/
def State.seqChoice (s : State) (q : Seqr) : Option Flow × Seqr :=
  let ready := s.flows.filter (fun f => f.loc.coreIdx == q.core && s.readyOn f q.lane)
  let fid (f : Flow) : Nat := f.loc.fid
  let aged := ready.filter (fun f => decide (4096 ≤ nth0 f.age q.lane))
  let revise := s.stripEnded q || decide (256 ≤ q.since) ||
    (match q.prec with | none => true | some t => !ready.any (fun f => f.tenant == t))
  let q := if revise then { q with prec := s.precedent q ready, since := 0, last := none } else q
  (if !aged.isEmpty then argMin (fun f => (2 ^ 64 - nth0 f.age q.lane) * 16 + fid f) aged
   else argMin (fun f => f.remOn q.lane * 16 + fid f) (ready.filter (fun f => q.prec == some f.tenant)), q)

/-- Whether a sequencer has a cycle to spend in which no flow is ready, after which no precedent tenant stands (R189). -/
def State.idleSeqr (s : State) (q : Seqr) : Bool :=
  (q.prec.isSome || q.since != 0 || q.last.isSome) && !s.flows.any (fun f => f.loc.coreIdx == q.core && s.readyOn f q.lane)

/-- VSEQ_ADVANCE, R189. -/
def execEvVseqAdvance (core lane : Nat) (s : State) : Res :=
  match s.seqChoice (s.seqr core lane) with
  | (some f, q) => .next (s.advance q f)
  | (none, q) => .next { s with seqrs := s.seqrs.map (fun p => if p.core = core ∧ p.lane = lane then q else p) }

/-! ### Results and transfers that arrive -/

/-- SCALAR_RESULT_WRITE, R148. -/
def execEvScalarResultWrite (k : FlowKey) (r : BitVec 5) (s : State) : Res :=
  .next (s.modFlow k (fun f => if f.busy.any (fun p => p.1 == r.toNat) then f.wr r (f.rd r) else f))

/-- The pair two flows wait for (R143): each names the other, at the same instance of the pair. -/
def vxlanePair (f g : Flow) : Option (Nat × Nat × Nat × Nat) :=
  match f.status, g.status with
  | .waiting (.vxlane p n d a), .waiting (.vxlane q m e b) =>
    if f.key.launch = g.key.launch ∧ p = g.key.lflow ∧ q = f.key.lflow ∧ n = m ∧ f.key ≠ g.key then some (d, a, e, b) else none
  | _, _ => none

/-- A flow after its exchange: its register, its place in VQ, the next word. -/
def Flow.endVxlane (f p : Flow) (vd va : Nat) : Flow :=
  { ((((f.exchanged p vd va).pushVq (f.convoy.words == 1) false false false f.ew f.grp)).next) with status := .running }

/-- VXLANE_EXCHANGE, R143: both members of a pair have issued, and each has room in VQ (R183). -/
def execEvVxlaneExchange (k l : FlowKey) (s : State) : Res :=
  match s.flow? k, s.flow? l with
  | some f, some g =>
    match vxlanePair f g with
    | some (d, a, e, b) =>
      onlyIf (decide (f.vq.length < 32 ∧ g.vq.length < 32)) s
        ((s.modFlow k (fun f => f.endVxlane g d b)).modFlow l (fun g => g.endVxlane f e a))
    | none => .next s
  | _, _ => .next s

/-- LANDING_DELIVERED, R51: a pending entry whose elements are all there is Landed. -/
def execEvLandingDelivered (k : FlowKey) (t : BitVec 4) (s : State) : Res :=
  .next (s.modFlow k (fun f =>
    match f.tags.getD t.toNat .free with
    | .pending e => if e.complete then f.setTag t.toNat (.landed e) else f
    | _ => f))

/-- Whether the matrix word at the head of the flow's queue completes (R263, R280): for MSTA once its stores have
ENTERed. -/
def Flow.mxDone (f : Flow) : Bool :=
  match f.mxq with
  | [] => false
  | none :: _ => true
  | some n :: _ => f.sb.all (fun a => a.load || decide (n < a.seq))

/-- MATRIX_WORD_COMPLETE, R263. -/
def execEvMatrixWordComplete (k : FlowKey) (s : State) : Res :=
  .next (s.modFlow k (fun f => if f.mxDone then { f with mxq := f.mxq.drop 1 } else f))

/-! ### Waits (R178) -/

/-- A flow's ARRWAIT finds its counter at its bank, or its load of it fails there (R344). -/
def State.arrived (s : State) (f : Flow) (a : Word) (e : Nat) : Bool :=
  match (s.swapIn f.key).counterOf a with
  | some (t, x, c) => (t.dataBad x.pa).isSome || counterReady c e
  | none => true

/-- Whether what a Waiting flow awaits has come. -/
def State.waitMet (s : State) (f : Flow) : Bool :=
  match f.status with
  | .waiting .wfe => f.woken
  | .waiting (.grant _) => decide (0 < s.grantCap f)
  | .waiting (.bar g n) => (match s.launch? f.key.launch with | some l => decide (n < aget l.barDone g 0) | none => false)
  | .waiting (.vxlane ..) => false
  | .waiting (.commit t) => (match f.tags.getD t .free with | .pending _ => false | _ => true)
  | .waiting (.swait t v) => (match f.ctags.getD t .free with | .faulted .. => true | c => f.eq.isEmpty && c.passes v)
  | .waiting (.arrwait a e) => s.arrived f (w64 a) e
  | _ => false

/-- WAIT_SATISFIED, R178: the flow is Running again, and its word executes. -/
def execEvWaitSatisfied (k : FlowKey) (s : State) : Res :=
  withFlow s k (fun f => if s.waitMet f then s.modFlow k (fun f => { f with status := .running }) else s)

/-! ### The abstract machine (R198) -/

/-- A step of access k of a flow's strip buffer, once the FENCEs that no longer wait have had their acquire effect
(R200). -/
def withAccess (s : State) (f : FlowKey) (k : Nat) (g : State → Flow → Access → State) : Res :=
  withFlow s f (fun h =>
    match h.sb[k]? with
    | some a =>
      let t := s.settleFences f a.seq
      (match t.flow? f with | some h => g t h a | none => s)
    | none => s)

/-- ENTER of access k of a flow's strip buffer. -/
def execEvEnter (f : FlowKey) (k : Nat) (s : State) : Res :=
  withAccess s f k (fun s g a => if !a.load && s.mayLeave g a && !s.replayOf g then s.enterAcc f a else s)

/-- The program-earlier stores of a flow that a load of it takes bytes of (R199). -/
def Flow.storesBefore (f : Flow) (a : Access) : List Access := f.ownStores.filter (fun b => decide (b.seq < a.seq))

/-- Whether a load may TAKE (R198, R199): every byte of it is in an earlier store of the flow, or in V_c unless its page
is uncached (R393). -/
def State.canTake (s : State) (f : Flow) (a : Access) : Bool :=
  let own := f.storesBefore a
  a.amo.isNone && (List.range a.size).all (fun i =>
    let p := a.addr + i
    own.any (fun x => x.enAt p == 255) || (a.fill && (s.viewByte? f.loc.coreIdx p a.key).isSome))

/-- TAKE of access k of a flow's strip buffer. -/
def execEvTake (f : FlowKey) (k : Nat) (s : State) : Res :=
  withAccess s f k (fun s g a =>
    if a.load && s.loadMayGo g a && s.canTake g a then
      match s.accErr a with
      | some t => s.failLoad f a t
      | none =>
        let own := g.storesBefore a
        let bs := (List.range a.size).map (fun i => s.seenByte g own (a.addr + i) a.key a.fill)
        ((s.deliver f a bs).l1Touch g.loc.coreIdx a.addr a.key).noteRead f a.addr a.key a.size
    else s)

/-- Whether an earlier store of the flow in its core holds a byte of a load, which must then TAKE (R199). -/
def Flow.coversLoad (f : Flow) (a : Access) : Bool := (f.storesBefore a).any (fun b => b.overlaps a)

/-- Whether a load or an AMO of the strip buffer can be SENT. -/
def State.canSend (s : State) (f : Flow) (a : Access) : Bool :=
  match a.amo with
  | some q => s.amoMayGo f a q
  | none => a.load && s.loadMayGo f a && !f.coversLoad a

/-- A load or an AMO of a flow joins its path; before an AMO its line of W_n is written back and drops (R440). -/
def State.sendLoad (s : State) (f : Flow) (a : Access) : State :=
  let s := if a.amo.isSome then s.leavePeers a.addr a.key else s
  let s := s.modFlow f.key (fun g => { g with sb := g.sb.erase a })
  { s with net := s.net ++ [⟨s.pathOf f.loc a.addr a.key false, a, .flow f.key f.loc.coreIdx⟩] }

/-- SEND: the store at the head of CQ_f (none), or the load or AMO at place k of the strip buffer. -/
def execEvSend (f : FlowKey) (k : Option Nat) (s : State) : Res :=
  match k with
  | none => .next (s.sendHead f)
  | some k => withAccess s f k (fun s g a => if s.canSend g a then s.sendLoad g a else s)

/-- Whether access k on its way heads its queue. -/
def State.headsQueue (s : State) (k : Nat) (fl : Flight) : Bool :=
  match fl.path.head? with
  | some q => !((s.net.take k).any (fun x => x.path.head? == some q))
  | none => true

/-- PASS of access k on its way: it joins the next queue of its path, behind what stands there. -/
def execEvPass (k : Nat) (s : State) : Res :=
  match s.net[k]? with
  | some fl =>
    if decide (1 < fl.path.length) && s.headsQueue k fl then
      .next { s with net := s.net.eraseIdx k ++ [{ fl with path := fl.path.drop 1 }] }
    else .next s
  | none => .next s

/-- APPLY of access k on its way. -/
def execEvApply (k : Nat) (s : State) : Res :=
  match s.net[k]? with
  | some fl =>
    if decide (fl.path.length ≤ 1) && s.headsQueue k fl then
      .next (State.applyFlight { s with net := s.net.eraseIdx k } fl)
    else .next s
  | none => .next s

/-- DROP: a byte of a core's L1, or a clean byte of W_n. -/
def execEvDrop (core : Option Nat) (addr : Nat) (s : State) : Res :=
  match core with
  | some c => onlyIf (s.canDrop c addr) s (s.dropByte c addr)
  | none => .next { s with peerCopies := s.peerCopies.filter (fun (p : PeerByte) => p.addr != addr || p.dirty) }

/-- WRITEBACK, R439: a dirty byte of W_n joins DQ towards its home and stays as a clean copy. -/
def execEvWriteback (addr : Nat) (s : State) : Res :=
  match s.peerCopies.find? (fun p => p.addr == addr && p.dirty) with
  | some p => .next (s.sendBack p)
  | none => .next s

end Sys2Proof.Machine
end

