-- ==== Sys2Proof/Machine/EvEngine.lean ====
section
/-! DEFINITION. The steps of the engines: acceptance, accesses and points of commands (R198, R204, R205, R282 to R299),
builds of plans (R240), the Sluice (R314 to R317, R322, R323) and the routing ports (R335 to R343). -/

namespace Sys2Proof.Machine

/-! ### Acceptance -/

def Job.copy? (j : Job) : Option Copy :=
  match j.kind with
  | .copy c => some c
  | .build .. => none

def Job.clusterIdx (j : Job) : Nat := j.die * 16 + j.cluster

/-- Copies of a cluster's engine. -/
def State.copies (s : State) (cl : Nat) : List Job := s.jobs.filter (fun j => j.copy?.isSome && j.clusterIdx == cl)

/-- A copy as it is accepted. -/
def newCopy (tag : Nat) (form : CopyForm) (phase : CopyPhase) (dst : Word) (total : Nat) (comp : Word) (rel vis : Nat) : Copy where
  tag := tag
  form := form
  phase := phase
  dst := dst
  total := total
  next := 0
  begun := []
  chunks := []
  task := wbits comp 32 32
  evv := wbits comp 16 16
  scope := wbits comp 13 3
  rel := rel
  vis := vis
  released := false
  lock := none
  held := []

/-- The copy a command stands for; none for a row or a plan word. -/
def Cmd.toCopy : Cmd → Option Copy
  | .stream t ext str src dst comp rel vis => some (newCopy t (.stream ext str src) .move dst (extTotal ext) comp rel vis)
  | .swalk t desc pos cnt dst comp rel vis => some (newCopy t (.walk desc pos cnt 0 0 0 []) .lock dst 0 comp rel vis)
  | .scow t desc e res comp rel vis => some (newCopy t (.cow desc e res 0 0 0 0 0 0 0 0) .lock 0 0 comp rel vis)
  | .row .. => none
  | .plan _ => none
  | .word .. => none

/-- Whether the engine takes a copy (R282 to R284): room in its queue, and the tag not Faulted and named by no copy
under way. -/
def State.copyMay (s : State) (f : Flow) (c : Copy) : Bool :=
  decide ((s.copies f.loc.clusterIdx).length < 64) &&
    (match f.ctags.getD c.tag .free with | .faulted .. => false | _ => true) &&
    !s.jobs.any (fun j => j.flow == f.key && (match j.copy? with | some d => d.tag == c.tag | none => false))

/-- A copy joins its engine: its tag is Active, and its scope is kept for a later SWAIT (R283, R300). -/
def State.acceptCopy (s : State) (f : Flow) (x : Ctx) (c : Copy) : State :=
  let s := s.modFlow f.key (fun f => { f with
    eq := f.eq.drop 1
    ctags := f.ctags.set c.tag .active
    cscope := f.cscope.set c.tag c.scope })
  { s with
    jobs := s.jobs ++ [⟨s.nextId, f.loc.die, f.loc.cluster, f.tenant, f.key, x, .copy c⟩]
    nextId := s.nextId + 1 }

/-- A row joins the routing port (R342): it is pending. -/
def State.acceptRow (s : State) (f : Flow) (hdr dst : Word) (data : List Byte) : State :=
  let s := s.modFlow f.key (fun f => { f with eq := f.eq.drop 1, log := { f.log with pending := f.log.pending + 1 } })
  { s with rows := s.rows ++ [⟨s.nextId, f.key, f.tenant, hdr, dst, data, .sent⟩], nextId := s.nextId + 1 }

/-! ### A plan word that EQ holds (R241) -/

/-- The flow as an engine word of EQ that can be undone finds it: the registers as they were at its issue, the accesses before it,
and EQ as its head sees it. -/
def Flow.atPlan (f b : Flow) (i : Instr) (seq : Nat) : Flow :=
  { f.undo b seq with eq := [], seq := seq, rebuilt := b.rebuilt, reserved := f.reserved.filter (fun t => planTag i != some t) }

/-- The flow after such a word has acted or has to wait: what the word left in its own view g of the flow, and the words that ran
ahead of it, none of which touches what an engine word may. -/
def Flow.takePlan (f g : Flow) (i : Instr) (seq : Nat) : Flow :=
  { f with
    sb := g.sb ++ f.sb.filter (fun a => decide (seq ≤ a.seq))
    cq := g.cq
    fences := g.fences ++ f.fences.filter (fun c => decide (seq < c.seq))
    rf := g.rf
    log := g.log
    tt := g.tt
    ttcur := g.ttcur
    ttmiss := g.ttmiss
    tags := match planTag i with | some t => f.tags.set t (g.tags.getD t .free) | none => f.tags }

/-- Such a word is done: its place in EQ and its tag's reservation go, and its result arrives. -/
def State.planDone (s : State) (f g : Flow) (i : Instr) (seq : Nat) : State :=
  let k := f.key
  let s := s.modFlow k (fun _ => { f.takePlan g i seq with
    eq := f.eq.drop 1
    reserved := g.reserved
    bad := f.bad.filter (fun b => (planTag i).all (fun t => b != .land t)) })
  let s := match planDest i with
    | some x => s.settle k seq (fun h => h.wrBusy x (g.rd x))
    | none => s
  { s with ckpts := s.ckpts.filter (fun p => !(p.seq == seq && p.before.key == k)) }

/-- Such a word has trapped in its view g: the words that ran ahead of it are undone, and their charge (R161);
its tag has the state it had at issue (R252, log 121). -/
def State.planTrap (s : State) (f g : Flow) (seq cost : Nat) : State :=
  let k := f.key
  let s := { s with ckpts := s.ckpts.filter (fun p => !(decide (seq ≤ p.seq) && p.before.key == k)) }
  (s.uncharge f.tenant k.launch cost).setMe { g with seq := f.seq, eq := [], reserved := [] }

/-- What an engine word answers in its view of the flow, which was b before it: it waits, it traps, or it is done. -/
def engRes (b : Flow) (r : Res) : Option EngRes :=
  match r with
  | .next t =>
    if t.me.status3 != b.status3 || t.me.pc == sentinel then some (.trap t (ill 0))
    else if t.me.pc == b.pc + 4 && t.me.eq.isEmpty then some (.done t)
    else some (.wait t)
  | _ => none

/-- The engine words that are no plan words of R241, at the head of EQ. -/
def engineCore (i : Instr) (s : State) : Res :=
  match i with
  | .plan x a b w => execPlan x a b w s
  | .pstat x a => execPstat x a s
  | .pfree a => execPfree a s
  | .pspill a => execPspill a s
  | .pfill a => execPfill a s
  | .tdef x a b => execTdef x a b s
  | .tspawn x a b => execTspawn x a b s
  | .tdec a b => execTdec a b s
  | .evrd x => execEvrd x s
  | .evpost a b => execEvpost a b s
  | .enchk x a => execEnchk x a s
  | .ttbind a b o => execTtbind a b o s
  | .ttstat x a => execTtstat x a s
  | .tierpin a b => execTierpin a b s
  | .tierfree a b => execTierfree a b s
  | .rowack x a => execRowack x a s
  | .replsel x a b => execReplsel x a b s
  | _ => .next s

/-- A plan word's answer, with the trap taken. -/
def EngRes.trapped : EngRes → EngRes
  | .trap s t => .trap (s.trap t) t
  | r => r

/-- ACCEPT of a word that can be undone: of a plan word Prepare, then its effect (R241). Loads of the flow that are under way come
first (log 102). -/
def State.acceptPlan (s : State) (f : Flow) (i : Instr) (e : EqEnt) : State :=
  let k := f.key
  let me := s.me.key
  if s.loadsOut f e.seq || !(s.netLoads k).isEmpty then s
  else
    match s.defer? k e.seq with
    | none => s
    | some d =>
      let view := f.atPlan d.before i e.seq
      let at' := (s.swapIn k).setMe view
      match (if isPlanWord i then some (planCore i at').trapped else engRes view (engineCore i at')) with
      | some (.wait t) =>
        let g := t.me
        let again (p : Defer) : Defer :=
          if p.seq = e.seq ∧ p.before.key = k then { p with before := { p.before with rebuilt := g.rebuilt } } else p
        ({ t with ckpts := t.ckpts.map again }.setMe (f.takePlan g i e.seq)).swapIn me
      | some (.done t) => (t.planDone f t.me i e.seq).swapIn me
      | some (.trap t _) => (t.planTrap f t.me e.seq d.cost).swapIn me
      | none => s

/-- The flow as an engine word that raises nothing any more finds it at the head of EQ: the registers that it read, and the
stores before it. -/
def Flow.atWordOf (f : Flow) (regs : List Word) (seq : Nat) : Flow :=
  { f with
    s := regs
    busy := []
    bad := []
    eq := []
    seq := seq
    vsq := f.vsq.filter (fun w => w.writes.any (fun p => decide (p.2.seq < seq))) }

/-- ACCEPT of such a word: it acts, and its result arrives; or it still waits. -/
def State.acceptWord (s : State) (f : Flow) (i : Instr) (regs : List Word) (e : EqEnt) : State :=
  let view := f.atWordOf regs e.seq
  match engRes view (engineCore i ((s.swapIn f.key).setMe view)) with
  | some (.done t) =>
    let g := t.me
    let h : Flow := { g with
      s := f.s
      busy := f.busy
      bad := f.bad
      eq := f.eq.drop 1
      seq := f.seq
      vsq := f.vsq
      pc := f.pc
      convoy := f.convoy
      qBeats := f.qBeats
      qGo := f.qGo }
    (t.setMe (match planDest i with | some x => h.wrBusy x (g.rd x) | none => h)).swapIn s.me.key
  | _ => s

/-- Whether the command at the head of a flow's EQ can be ACCEPTed. -/
def State.acceptable (s : State) (f : Flow) : Bool :=
  s.engineFree f.key &&
    (match f.eq.head? with
     | none => false
     | some e => s.orderLets f e.seq &&
       (match e.cmd with
        | .plan i => decide (s.acceptPlan f i e ≠ s)
        | .word i regs => decide (s.acceptWord f i regs e ≠ s)
        | .row .. => decide (f.log.pending < 64)
        | c => c.toCopy.any (s.copyMay f)))

/-- ACCEPT, R204. -/
def execEvAccept (k : FlowKey) (s : State) : Res :=
  withFlow s k (fun f =>
    if s.acceptable f then
      match f.eq.head? with
      | none => s
      | some e =>
        (match e.cmd with
         | .plan i => s.acceptPlan f i e
         | .word i regs => s.acceptWord f i regs e
         | .row hdr dst data => s.acceptRow f hdr dst data
         | c => (match c.toCopy with | some d => s.acceptCopy f e.ctx d | none => s))
    else s)

/-! ### Accesses of a copy -/

/-- Puts a copy back into its job. -/
def State.putCopy (s : State) (id : Nat) (c : Copy) : State :=
  { s with jobs := s.jobs.map (fun j => if j.id = id then { j with kind := .copy c } else j) }

def State.dropJob (s : State) (id : Nat) : State := { s with jobs := s.jobs.filter (fun j => j.id != id) }

/-- The subcode of COPY_FAULT for an engine's access that fails at an address: LOCAL in a local window (R213, R289). -/
def engSub (e : XErr) (va : Nat) : Nat := if (inLocal va 1).isSome then 4 else copySub e.1

/-- Translations of n bytes from va for an engine, or the COPY_FAULT subcode and address (R289). -/
def State.jobXls (s : State) (j : Job) (va n : Nat) (acc : Acc) : Except (Nat × Nat) (List Xl) :=
  match s.rangeErr j.ctx va acc n with
  | some (e, a) => .error (engSub e a, a)
  | none =>
    let xs := s.rangeXls j.ctx va acc n
    if acc = .r then
      match xs.zipIdx.find? (fun p => (s.dataBad p.1.pa).isSome) with
      | some p => .error (3, (va + p.2) % 2 ^ 64)
      | none => .ok xs
    else
      match s.lostByte (xs.map (·.pa)) with
      | some i => .error (3, (va + i) % 2 ^ 64)
      | none => .ok xs

/-- A number that an engine reads in a table, behind what stands on the way; table accesses are not charged (log 101). -/
def State.jobRead (s : State) (j : Job) (va n : Nat) : Except (Nat × Nat) (State × Nat) :=
  let s := (piecesOf (s.rangeXls j.ctx va .r n)).foldl (fun s p => s.engineReach j.clusterIdx p.1 p.2) s
  match s.jobXls j va n .r with
  | .error e => .error e
  | .ok xs => .ok (s, natLE (xs.map (fun x => s.pointByte x.pa x.key)))

/-- Whether a copy's access on its way is one of the chunk that starts at an offset. -/
def Flight.ofChunk (fl : Flight) (id off : Nat) : Bool := fl.origin == .job id && fl.acc.seq == off

/-- A write of an engine's command joins its path, word by word (R196, R203): `off` marks the chunk it is of. -/
def State.jobSend (s : State) (j : Job) (off va : Nat) (xs : List Xl) (bs : List Byte) : State :=
  let s := xs.foldl (fun s x => s.setDirty j.ctx x) s
  let accs := s.me.bitStores off va 0 (8 * bs.length) (natLE bs) xs
  { s with net := s.net ++ accs.map (fun a => ⟨s.pathOf (engineLoc j.clusterIdx) a.addr a.key true, { a with ival := j.clusterIdx }, .job j.id⟩) }

/-- Whether the writes a job has sent have performed at a scope (R197). -/
def State.jobPerformed (s : State) (id scope : Nat) : Bool :=
  !(s.net.any (fun fl => fl.origin == .job id && !fl.acc.load && inFlight scope fl.acc)) &&
    (decide (scope < 5) || (s.peerCopies.all (fun p => !(p.dirty && p.owe.contains ⟨0, id⟩)) && s.net.all (fun fl => !fl.owes ⟨0, id⟩)))

/-- What a job has sent APPLYs: it has performed at dev. -/
def State.jobApply (s : State) (id : Nat) : State := s.applyWhere (fun fl => fl.origin == .job id)

/-- The address of the lock of a table (R296). -/
def lockVa (desc : Word) : Nat := (desc.toNat + 0x28) % 2 ^ 64

def Copy.desc (c : Copy) : Option Word :=
  match c.form with
  | .walk d .. => some d
  | .cow d .. => some d
  | .stream .. => none

/-- Whether a copy holds, or waits for, a lock. -/
def Copy.locking (c : Copy) : Bool := c.phase == .lock || c.phase == .retry || c.lock.isSome

/-- Whether an address is in peer memory. -/
def isPeer (pa : Nat) : Bool := match regionOf pa with | .peer .. => true | _ => false

/-- Whether a table's lock is taken and given up at a scope beyond the device: dom for peer memory, sys for host memory
(R297). -/
def farTable (pa : Nat) : Bool := match regionOf pa with | .peer .. => true | .host _ => true | _ => false

/-- Gives up the table lock: an AMOSWAP of 0, ordered rel at dev, or at dom or sys for a table in peer or host memory (R297). -/
def State.unlockCopy (s : State) (j : Job) (c : Copy) : State :=
  match c.lock with
  | none => s
  | some x =>
    let s := s.jobApply j.id
    let s := if farTable x.pa then s.backOwed ⟨0, j.id⟩ else s
    let s := if isPeer x.pa then s.leavePeers x.pa x.key else s
    ((s.drainPath (s.pathOf (engineLoc j.clusterIdx) x.pa x.key false)).amoApply none x 8 (fun _ => some 0)).1

/-- The translation that a SCOW holds for an address (R299). -/
def Copy.heldAt (c : Copy) (va : Nat) : Option Xl := (c.held.find? (fun p => p.1 == va / 4096 * 4096)).map (fun p => p.2.at (va % 4096))

/-- n bytes of a SCOW's table written under the translations it holds. -/
def State.heldSend (s : State) (j : Job) (c : Copy) (va n x : Nat) : State :=
  s.jobSend j (2 ^ 64) va ((List.range n).filterMap (fun i => c.heldAt ((va + i) % 2 ^ 64))) (bytesLE n x)

/-- A fault in transfer (R289): the free list of a SCOW that has popped and written neither entry nor counts gets its
block back (R299), the lock is released, the tag is Faulted, and a record of kind 3 is posted. -/
def State.copyFail (s : State) (j : Job) (c : Copy) (sub : Nat) (eval : Nat) : State :=
  let s := match c.form with
    | .cow _ _ _ _ _ _ _ _ free _ n =>
      if c.total ≠ 0 ∧ (c.phase = CopyPhase.move ∨ c.phase = CopyPhase.finish) then s.heldSend j c free.toNat 4 n else s
    | _ => s
  let s := (s.unlockCopy j c).dropJob j.id
  let s := s.modFlow j.flow (fun f => { f with ctags := f.ctags.set c.tag (.faulted sub (w64 eval)) })
  s.post j.flow (eventWord sub 3 c.tag j.flow.lflow) c.scope

/-- The lock of a SWALK or SCOW (R297): the copies of an engine take their locks in acceptance order, one at a time. It is
an AMOCAS ordered acq, which for a table in peer or host memory drops the clean bytes of W_n. -/
def State.takeLock (s : State) (j : Job) (c : Copy) (desc : Word) : State :=
  if (s.copies j.clusterIdx).any (fun i => match i.copy? with
      | some d => d.lock.isSome || (d.locking && decide (i.id < j.id))
      | none => false) then s
  else if desc.toNat % 64 ≠ 0 then s.copyFail j c 6 desc.toNat
  else
    let word (s : State) : Except (Nat × Nat) (List Xl) := match s.jobXls j (lockVa desc) 8 .r with
      | .error e => .error e
      | .ok _ => s.jobXls j (lockVa desc) 8 .w
    let s := match word s with | .ok _ => s.orDirty j.ctx (lockVa desc) | .error _ => s
    match word s with
    | .error e => s.copyFail j c e.1 e.2
    | .ok xs =>
      match xs.head? with
      | none => s
      | some x =>
        let q := s.draw
        let own := q.1.toNat ||| 1
        let s := xs.foldl (fun s x => s.setDirty j.ctx x) q.2
        let s := if isPeer x.pa then s.leavePeers x.pa x.key else s
        let s := s.drainPath (s.pathOf (engineLoc j.clusterIdx) x.pa x.key false)
        let r := s.amoApply none x 8 (fun o => if o = 0 then some own else none)
        if r.2 = 0 then
          let s := r.1.putCopy j.id { c with phase := .table, lock := some x }
          if farTable x.pa then { s with peerCopies := s.peerCopies.filter (fun p => p.dirty) } else s
        else r.1.putCopy j.id { c with phase := .retry }

/-- The fields of a block-table descriptor (R296). -/
structure Desc where
  base : Nat
  ppb : Nat
  pb : Nat
  nent : Nat
  rc : Nat
  free : Nat
  deriving DecidableEq, Repr

def descOf (x : Nat) : Desc := ⟨bits x 0 64, bits x 64 32, bits x 96 32, bits x 128 32, bits x 192 64, bits x 256 64⟩

/-- Whether a descriptor's 64 bytes break R296. -/
def descBad (x : Nat) : Bool :=
  let d := descOf x
  decide (d.ppb < 1 ∨ 65536 < d.ppb) || d.ppb &&& (d.ppb - 1) != 0 || decide (d.pb < 1 ∨ 65536 < d.pb) ||
    decide (d.nent < 1 ∨ 2 ^ 24 < d.nent) || bits x 160 32 != 0 || bits x 384 128 != 0

/-- n table entries from entry i on. -/
def State.readEntries (s : State) (j : Job) (desc : Word) : Nat → Nat → Except (Nat × Nat) (State × List Nat)
  | 0, _ => .ok (s, [])
  | n + 1, i =>
    match s.jobRead j ((desc.toNat + 64 + 4 * i) % 2 ^ 64) 4 with
    | .error e => .error e
    | .ok (s, x) =>
      match s.readEntries j desc n (i + 1) with
      | .error e => .error e
      | .ok (s, xs) => .ok (s, x :: xs)

/-- SWALK's table reads (R298), and the release of its lock. -/
def State.walkTable (s : State) (j : Job) (c : Copy) (desc : Word) (d : Desc) (p n : Nat) : State :=
  if d.nent * d.ppb < p + n then s.copyFail j c 7 (p + n)
  else
    match inLocal c.dst.toNat (n * d.pb) with
    | some a => s.copyFail j c 4 a
    | none =>
      let k := if n = 0 then 0 else (p + n - 1) / d.ppb - p / d.ppb + 1
      match s.readEntries j desc k (p / d.ppb) with
      | .error e => s.copyFail j c e.1 e.2
      | .ok (s, es) =>
        (s.unlockCopy j c).putCopy j.id { c with
          phase := .move
          total := n * d.pb
          lock := none
          form := .walk desc p n (w64 d.base) d.ppb d.pb es }

/-- The translations of the pages of [a, a + n) for an access, by the pages' addresses, or the failure (R299): LOCAL, then
translation, HOME_LOST and a lost granule written in part, per address in order. -/
def State.holdRange (s : State) (j : Job) (acc : Acc) (a n : Nat) : Except (Nat × Nat) (List (Nat × Xl)) :=
  match inLocal a n with
  | some x => .error (4, x)
  | none =>
    let ps := (List.range ((a % 4096 + n + 4095) / 4096)).map (fun i => if i = 0 then a else (a / 4096 + i) * 4096 % 2 ^ 64)
    let r : Except (Nat × Nat) (List (Nat × Xl)) := ps.foldl (fun r va =>
      match r with
      | .error e => .error e
      | .ok l =>
        match s.access j.ctx va acc with
        | .error e => .error (copySub e.1, va)
        | .ok x => .ok (l ++ [(va / 4096 * 4096, { x with pa := x.pa - va % 4096 })])) (.ok [])
    match r with
    | .error e => .error e
    | .ok l =>
      if 8 < n then .ok l
      else
        match s.jobXls j a n acc with
        | .error e => .error e
        | .ok _ => .ok l

/-- The same of several ranges, in order. -/
def State.holdRanges (s : State) (j : Job) : List (Nat × Nat) → Except (Nat × Nat) (List (Nat × Xl))
  | [] => .ok []
  | (a, n) :: rest =>
    match s.holdRange j .w a n with
    | .error e => .error e
    | .ok l =>
      match s.holdRanges j rest with
      | .error e => .error e
      | .ok m => .ok (l ++ m)

/-- SCOW's table reads, checks and pop (R299). -/
def State.cowTable (s : State) (j : Job) (c : Copy) (desc : Word) (d : Desc) (e : Nat) (res : Word) : State :=
  let count (s : State) (b : Nat) : Except (Nat × Nat) (State × Nat) :=
    if b = 0xFFFFFFFF then .ok (s, 0) else s.jobRead j ((d.rc + 4 * b) % 2 ^ 64) 4
  if d.nent ≤ e then s.copyFail j c 7 e
  else
    match s.jobRead j ((desc.toNat + 64 + 4 * e) % 2 ^ 64) 4 with
    | .error x => s.copyFail j c x.1 x.2
    | .ok (s, b) =>
      match count s b with
      | .error x => s.copyFail j c x.1 x.2
      | .ok (s, k) =>
        let form (f n : Nat) : CopyForm := .cow desc e res b f (w64 d.base) (d.ppb * d.pb) (w64 d.rc) (w64 d.free) k n
        if k ≤ 1 then
          match s.holdRange j .w res.toNat 8 with
          | .error x => s.copyFail j c x.1 x.2
          | .ok l => s.putCopy j.id { c with phase := .finish, form := form b 0, held := l }
        else
          match s.jobRead j d.free 4 with
          | .error x => s.copyFail j c x.1 x.2
          | .ok (s, n) =>
            if n = 0 then s.copyFail j c 8 desc.toNat
            else
              match s.jobRead j ((d.free + 8 + 4 * (n - 1)) % 2 ^ 64) 4 with
              | .error x => s.copyFail j c x.1 x.2
              | .ok (s, f) =>
                let blk := d.ppb * d.pb
                match s.holdRange j .r ((d.base + b * blk) % 2 ^ 64) blk, s.holdRanges j [(d.free, 4), ((d.base + f * blk) % 2 ^ 64, blk), ((d.rc + 4 * f) % 2 ^ 64, 4),
                    ((desc.toNat + 64 + 4 * e) % 2 ^ 64, 4), ((d.rc + 4 * b) % 2 ^ 64, 4), (res.toNat, 8)] with
                | .error x, _ => s.copyFail j c x.1 x.2
                | .ok _, .error x => s.copyFail j c x.1 x.2
                | .ok src, .ok l =>
                  let c := { c with
                    phase := .move
                    total := blk
                    dst := w64 (d.base + f * blk)
                    form := form f n
                    held := l ++ src }
                  (s.heldSend j c d.free 4 (n - 1)).putCopy j.id c

/-- The descriptor is read under the lock, then the table (R296, R298, R299), all in one step (log 16). -/
def State.readTable (s : State) (j : Job) (c : Copy) : State :=
  match c.desc with
  | none => s
  | some desc =>
    match s.jobRead j desc.toNat 64 with
    | .error e => s.copyFail j c e.1 e.2
    | .ok (s, x) =>
      if descBad x then s.copyFail j c 6 desc.toNat
      else
        match c.form with
        | .walk _ p n .. => s.walkTable j c desc (descOf x) p n
        | .cow _ e res .. => s.cowTable j c desc (descOf x) e res
        | .stream .. => s

/-- Where byte i of a copy is read, and how many bytes from there run on; none for zeros (R290, R298, R299). -/
def Copy.source (c : Copy) (i : Nat) : Option Nat × Nat :=
  match c.form with
  | .stream ext str src => (some (srcAddr ext str src.toNat i), ext.headD 1 - i % max (ext.headD 1) 1)
  | .walk _ p _ base ppb pb es =>
    let q := p + i / pb
    let b := es.getD (q / ppb - p / ppb) 0xFFFFFFFF
    (if b = 0xFFFFFFFF then none else some ((base.toNat + b * ppb * pb + (q % ppb) * pb + i % pb) % 2 ^ 64), pb - i % pb)
  | .cow _ _ _ old _ base blk .. => (some ((base.toNat + old * blk + i) % 2 ^ 64), blk - i)

/-- Bytes [o, n) of addresses from a on, cut at the boundaries of aligned 8-byte words (R203): offset and size. -/
def wordCuts (a n : Nat) : Nat → Nat → List (Nat × Nat)
  | 0, _ => []
  | k + 1, o =>
    if o < n then
      let m := min (8 - (a + o) % 8) (n - o)
      (o, m) :: wordCuts a n k (o + m)
    else []

/-- Whether every byte that a chunk reads has arrived. -/
def Chunk.arrived (x : Chunk) : Bool := x.reads.isEmpty && x.got.length == x.len

/-- Whether a chunk's last access has APPLYed, so that its lane is free (R282). -/
def State.chunkEnded (s : State) (id : Nat) (x : Chunk) : Bool :=
  x.arrived && x.writes.isEmpty && !s.net.any (fun fl => fl.ofChunk id x.off)

/-- Chunks of copies that have ended whose accesses are still on their way from a cluster's engine, by their jobs and offsets. -/
def State.trailing (s : State) (cl : Nat) : List (Origin × Nat) :=
  ((s.net.filter (fun fl => match fl.origin with
    | .job id => decide (fl.acc.ival = cl ∧ fl.acc.seq < 2 ^ 64) && s.jobs.all (fun j => j.id != id)
    | _ => false)).map (fun fl => (fl.origin, fl.acc.seq))).eraseDups

/-- Chunks under way in the 16 lanes of a cluster's engine: a lane is free once its chunk's last access has APPLYed, the
copy's visibility point reached or not (R282). -/
def State.lanesUsed (s : State) (cl : Nat) : Nat :=
  sumN ((s.copies cl).map (fun j => match j.copy? with
    | some c => (c.chunks.filter (fun x => !s.chunkEnded j.id x)).length
    | none => 0)) + (s.trailing cl).length

/-- Whether a lane can take a copy's next chunk. -/
def State.laneFree (s : State) (j : Job) (c : Copy) : Bool :=
  c.phase == .move && decide (c.next < c.total) && decide (s.lanesUsed j.clusterIdx < 16)

/-- The destination of a chunk of n bytes at an address, translated for writing. -/
def State.chunkDst (s : State) (j : Job) (c : Copy) (va n : Nat) : Except (Nat × Nat) Xl :=
  let r : Except (Nat × Nat) Xl := match c.heldAt va with
    | some x => (match s.homeLost x.pa with | some _ => .error (2, va) | none => .ok x)
    | none => (match s.access j.ctx va .w with | .error e => .error (engSub e va, va) | .ok x => .ok x)
  match r with
  | .error e => .error e
  | .ok x =>
    match s.lostByte ((List.range n).map (fun i => x.pa + i)) with
    | some i => .error (3, (va + i) % 2 ^ 64)
    | none => .ok x

/-- Both sides of a chunk translated: none for a source of zeros. -/
def State.chunkSides (s : State) (j : Job) (c : Copy) (src : Option Nat) (dva n : Nat) : Except (Nat × Nat) (Option Xl × Xl) :=
  let sx : Except (Nat × Nat) (Option Xl) := match src with
    | none => .ok none
    | some va =>
      (match c.heldAt va with
       | some x => (match s.homeLost x.pa with | some _ => .error (2, va) | none => .ok (some x))
       | none => (match s.access j.ctx va .r with | .error e => .error (engSub e va, va) | .ok x => .ok (some x)))
  match sx, s.chunkDst j c dva n with
  | .error e, _ => .error e
  | _, .error e => .error e
  | .ok x, .ok y => .ok (x, y)

/-- A choice of the engine among n things: a free value (R204, log 12). -/
def State.choose (s : State) (n : Nat) : Nat × State := (Config.pick s.freeCtr n % max n 1, { s with freeCtr := s.freeCtr + 1 })

/-- How far byte i of a copy stands behind the start of a run of its source: what `Copy.source` reads runs on to the run's end. -/
def Copy.runOff (c : Copy) (i : Nat) : Nat :=
  match c.form with
  | .stream ext _ _ => i % max (ext.headD 1) 1
  | .walk _ _ _ _ _ pb _ => i % pb
  | .cow .. => i

/-- Whether no lane has taken byte o of a copy. -/
def Copy.openAt (c : Copy) (o : Nat) : Bool := c.begun.all (fun r => decide (o < r.1 ∨ r.1 + r.2 ≤ o))

/-- How many bytes from o on no lane has taken. -/
def Copy.openFrom (c : Copy) (o : Nat) : Nat :=
  if c.openAt o then (c.begun.map (fun r => r.1)).foldl (fun m a => if o < a then min m (a - o) else m) (c.total - o) else 0

/-- Where the chunks that no lane has taken begin: at the copy's start, or behind one that a lane has. -/
def Copy.gaps (c : Copy) : List Nat :=
  (0 :: c.begun.map (fun r => r.1 + r.2)).filter (fun o => decide (0 < c.openFrom o))

/-- Where a copy's next chunk begins (R204: in any order): a place that no lane has taken, as the engine chooses, moved back to a
run's start, a 4-KiB boundary of the destination or the end of what a lane has, whichever comes last. -/
def State.chunkStart (s : State) (c : Copy) : Nat × State :=
  let g := s.choose c.gaps.length
  let lo := c.gaps.getD g.1 0
  let p := g.2.choose (c.openFrom lo)
  let x := lo + p.1
  (max lo (max (x - c.runOff x) (x - (c.dst.toNat + x) % 4096)), p.2)

/-- A lane takes a chunk of a copy: it ends before a 4-KiB boundary of either side, and both sides are translated now
(R282); once they have passed, D of a cached leaf is set (R397). -/
def State.startChunk (s : State) (j : Job) (c : Copy) : State :=
  let at0 := s.chunkStart c
  let o := at0.1
  let s := at0.2
  let src := c.source o
  let sva := src.1.getD 0
  let dva := (c.dst.toNat + o) % 2 ^ 64
  let n := chunkLen sva dva (min src.2 (c.openFrom o))
  let sides (s : State) := s.chunkSides j c src.1 dva n
  let s := match sides s with
    | .ok _ => if (c.heldAt dva).isSome then s else s.orDirty j.ctx dva
    | .error _ => s
  match sides s with
  | .error e => s.copyFail j c e.1 e.2
  | .ok (x, y) =>
    let k : Chunk := {
      off := o
      len := n
      sva := sva
      src := x
      dva := dva
      dst := y
      reads := if x.isSome then wordCuts sva n (n + 1) 0 else []
      got := if x.isSome then [] else (List.range n).map (fun i => (i, 0))
      writes := wordCuts dva n (n + 1) 0
      err := none }
    (s.setDirty j.ctx y).putCopy j.id { c with
      next := c.next + n
      begun := (o, n) :: c.begun
      chunks := c.chunks.filter (fun x => !s.chunkEnded j.id x) ++ [k] }

/-- One read of a chunk joins its path; charged for the source's tier and links (R295). -/
def State.sendRead (s : State) (j : Job) (c : Copy) (x : Chunk) (p : Nat × Nat) : State :=
  match x.src with
  | none => s
  | some y =>
    let a : Access := { s.me.newAccess (y.pa + p.1) (x.sva + p.1) y with load := true, size := p.2, seq := x.off, dst := p.1, ival := j.clusterIdx }
    let s := s.putCopy j.id (c.modChunk x.off (fun x => { x with reads := x.reads.erase p }))
    let s := { s with net := s.net ++ [(⟨s.pathOf (engineLoc j.clusterIdx) a.addr a.key false, a, .job j.id⟩ : Flight)] }
    s.chargeJob j a.addr p.2

/-- One write of a chunk joins its path; charged for the destination's tier and links (R295). One whose home has been lost
faults the copy (R289, R447). -/
def State.sendWrite (s : State) (j : Job) (c : Copy) (x : Chunk) (p : Nat × Nat) : State :=
  if (s.homeLost (x.dst.pa + p.1)).isSome then
    s.putCopy j.id (c.modChunk x.off (fun x => { x with err := some (2, (x.dva + p.1) % 2 ^ 64) }))
  else
  let bs := (List.range p.2).map (fun i => aget x.got (p.1 + i) 0)
  let a := { s.me.wordStore (x.dst.at p.1) (x.dva + p.1) p.2 (natLE bs) with seq := x.off, ival := j.clusterIdx }
  let s := s.putCopy j.id (c.modChunk x.off (fun x => { x with writes := x.writes.erase p }))
  let s := { s with net := s.net ++ [(⟨s.pathOf (engineLoc j.clusterIdx) a.addr a.key true, a, .job j.id⟩ : Flight)] }
  s.chargeJob j (x.dst.pa + p.1) p.2

/-- The reads of a copy that can be sent, each with its chunk. -/
def Copy.readsLeft (c : Copy) : List (Chunk × (Nat × Nat)) := (c.chunks.map (fun x => x.reads.map (fun p => (x, p)))).flatten

/-- The writes of a copy whose bytes have arrived. -/
def Copy.writesLeft (c : Copy) : List (Chunk × (Nat × Nat)) :=
  (c.chunks.map (fun x =>
    (x.writes.filter (fun p => (List.range p.2).all (fun i => x.got.any (fun g => g.1 == p.1 + i)))).map (fun p => (x, p)))).flatten

/-- A read of a copy, or the start of its next chunk: which one is the engine's choice (R204). -/
def State.copyRead (s : State) (j : Job) (c : Copy) : State :=
  let rs := c.readsLeft
  let start := s.laneFree j c
  let q := s.choose (rs.length + b2n start)
  match rs[q.1]? with
  | some (x, p) => q.2.sendRead j c x p
  | none => if start then q.2.startChunk j c else s

/-- Whether a copy has sent its last write. -/
def Copy.allSent (c : Copy) : Bool := c.next == c.total && c.chunks.all (fun x => x.arrived && x.writes.isEmpty)

/-- A write of a copy, any of those whose bytes have arrived; after the last the copy goes on (R299). -/
def State.copyWrite (s : State) (j : Job) (c : Copy) : State :=
  let ws := c.writesLeft
  let q := s.choose ws.length
  match ws[q.1]? with
  | some (x, p) => q.2.sendWrite j c x p
  | none =>
    if !c.allSent then s
    else
      match c.form with
      | .cow .. => if s.jobPerformed j.id 4 then s.putCopy j.id { c with phase := .finish, chunks := [] } else s
      | _ => s.putCopy j.id { c with phase := .done }

/-- The last writes of a SCOW under the translations it holds (R299), once the block copy has APPLYed: none where one of
their homes is lost. -/
def State.cowFinish (s : State) (j : Job) (c : Copy) : State :=
  match c.form with
  | .cow desc e res old new _ _ rc _ cnt _ =>
    let ws : List (Nat × Nat × Nat) :=
      if c.total = 0 then [(res.toNat, 8, old)]
      else
        [((rc.toNat + 4 * new) % 2 ^ 64, 4, 1), ((desc.toNat + 64 + 4 * e) % 2 ^ 64, 4, new),
         ((rc.toNat + 4 * old) % 2 ^ 64, 4, cnt - 1), (res.toNat, 8, 2 ^ 32 + new)]
    match ws.find? (fun w => (c.heldAt w.1).any (fun x => (s.homeLost x.pa).isSome)) with
    | some w => s.copyFail j c 2 w.1
    | none => (ws.foldl (fun s w => s.heldSend j c w.1 w.2.1 w.2.2) s).putCopy j.id { c with phase := .unlock }
  | _ => s

/-- One access of a copy: what its phase does next, after a failure that a read of it met. -/
def State.copyStep (s : State) (j : Job) (c : Copy) (write : Bool) : State :=
  match c.chunks.findSome? (fun x => x.err) with
  | some e => s.copyFail j c e.1 e.2
  | none =>
    match c.phase, write with
    | .lock, false => (match c.desc with | some d => s.takeLock j c d | none => s)
    | .table, false => s.readTable j c
    | .move, false => s.copyRead j c
    | .move, true => s.copyWrite j c
    | .finish, true => s.cowFinish j c
    | .unlock, true =>
      if s.jobPerformed j.id c.scope then (s.unlockCopy j c).putCopy j.id { c with phase := .done, lock := none, held := [] } else s
    | _, _ => s

def State.job? (s : State) (id : Nat) : Option Job := s.jobs.find? (fun j => j.id == id)

/-- EACCESS of a command: a copy's next read or write, a build's next index word. -/
def execEvEaccess (id : Nat) (write : Bool) (s : State) : Res :=
  match s.job? id with
  | some j =>
    (match j.kind with
     | .copy c => onlyIf (s.engineFree j.flow) s (s.copyStep j c write)
     | .build b => onlyIf (!write && s.engineFree j.flow) s (s.buildStep j b))
  | none => .next s

/-- TABLE_LOCK_RETRY, R297. -/
def execEvTableLockRetry (id : Nat) (s : State) : Res :=
  match (s.job? id).bind Job.copy? with
  | some c => onlyIf (c.phase == .retry) s (s.putCopy id { c with phase := .lock })
  | none => .next s

/-! ### Points (R205, R283, R286) -/

/-- Whether every source read has APPLYed. -/
def Copy.readDone (c : Copy) : Bool :=
  match c.phase with
  | .move => c.next == c.total && c.chunks.all Chunk.arrived
  | .finish => true
  | .unlock => true
  | .done => true
  | _ => false

/-- Whether the visibility point's condition holds: for SCOW the lock's release (R299). -/
def State.visibleDue (s : State) (j : Job) (c : Copy) : Bool :=
  match c.form with
  | .cow .. => c.phase == .done
  | _ => c.phase == .done && s.jobPerformed j.id c.scope

/-- The action of a point (R286). A decrement is ordered rel at dev: what the copy has sent APPLYs first (R205). -/
def State.pointAction (s : State) (j : Job) (c : Copy) (code kind : Nat) : State :=
  match code with
  | 1 => s.post j.flow (eventWord c.evv kind c.tag j.flow.lflow) c.scope
  | 2 => (s.jobApply j.id).decTask c.task 1
  | _ => s

/-- The release point. -/
def State.releasePoint (s : State) (j : Job) (c : Copy) : State :=
  let s := s.putCopy j.id { c with released := true }
  (s.modFlow j.flow (fun f => { f with ctags := f.ctags.set c.tag .released })).pointAction j c c.rel 1

/-- The visibility point: the tag is Free and the copy ends. -/
def State.visiblePoint (s : State) (j : Job) (c : Copy) : State :=
  let s := s.dropJob j.id
  (s.modFlow j.flow (fun f => { f with ctags := f.ctags.set c.tag .free })).pointAction j c c.vis 2

/-- POINT: the release point, or the visibility point, after the release point. -/
def execEvPoint (id : Nat) (visible : Bool) (s : State) : Res :=
  match s.job? id with
  | none => .next s
  | some j =>
    match j.copy? with
    | none => .next s
    | some c =>
      if visible then onlyIf (s.visibleDue j c && c.released) s (s.visiblePoint j c)
      else onlyIf (c.readDone && !c.released) s (s.releasePoint j c)

/-! ### Plan builds -/

/-- PLAN_BUILD_COMPLETE, R240: once the build has read all it needs. -/
def execEvPlanBuildComplete (id : Nat) (s : State) : Res :=
  match s.job? id with
  | some j =>
    match j.kind with
    | .build b => onlyIf (s.engineFree j.flow && s.buildRead j b) s (s.finishBuild j b)
    | .copy _ => .next s
  | none => .next s

/-! ### The Sluice -/

/-- An event of a bound timetable. -/
def withTable (s : State) (k : FlowKey) (g : Flow → Binding → State) : Res :=
  match s.flow? k with
  | some f =>
    match f.tt with
    | some b => .next (g f b)
    | none => .next s
  | none => .next s

/-- Whether the Sluice reads another line (R314): at most 64 entries ahead of the lowest that is not Checked, and
further for a check that waits for its entries to be read (R322). -/
def State.lineDue (s : State) (f : Flow) (b : Binding) : Bool :=
  s.engineFree f.key && !b.stopping && decide (b.next < b.count) &&
    (decide (b.next < b.lowUnchecked + 65) || (match b.check with | some m => !b.readFor m | none => false))

/-- TIMETABLE_LINE_READ, R314. -/
def execEvTimetableLineRead (k : FlowKey) (s : State) : Res :=
  withTable s k (fun f b => if s.lineDue f b then s.readLine k f b else s)

/-- TIMETABLE_ENTRY_START, R317, R326. -/
def execEvTimetableEntryStart (k : FlowKey) (n : Nat) (s : State) : Res :=
  withTable s k (fun f b =>
    match b.ents.find? (fun e => e.idx == n) with
    | some e =>
      if s.engineFree k && s.ttReady f b e && s.ttFits f b e then
        s.modTt k (fun b => b.modEnt n (fun e => { e with st := 4 }))
      else s
    | none => s)

/-- TIMETABLE_ENTRY_DONE, R316, R317: a Running entry moves its next piece, and completes after its last. -/
def execEvTimetableEntryDone (k : FlowKey) (n : Nat) (s : State) : Res :=
  withTable s k (fun f b =>
    match b.ents.find? (fun e => e.idx == n && e.st == 4) with
    | some e => if s.engineFree k then s.entryStep k f b e else s
    | none => s)

/-- SCHED_MISS in trap mode (R322): the check ends without marking, and EVAL is the TTSTAT word of the lowest entry
missed. -/
def State.missTrap (s : State) (k : FlowKey) (f : Flow) (b : Binding) (e : TtEnt) : State :=
  let s := s.modFlow k (fun g => { g with
    ttmiss := s.missWord f b e
    tt := g.tt.map (fun b => { b with check := none, begun := false, cset := [], late := false }) })
  let me := s.me.key
  ((s.swapIn k).trap ⟨0x0B, 1, w64 (s.ttWord f b e), none, 0⟩).swapIn me

/-- Whether the entries of C have all ended. -/
def Binding.checkEnded (b : Binding) : Bool := b.ents.all (fun e => !b.cset.contains e.idx || e.ended)

/-- The cycles of a stall are counted where an entry of C had not ended when the MARK arrived; how many they are is a free
value (R322, log 35). -/
def Binding.stalled (b : Binding) (n : Nat) : Binding :=
  if b.mode = 1 && b.late then { b with stall := min (b.stall + n) (2 ^ 32 - 1) } else b

/-- The check ends once the entries of C need no more waiting for (R322). -/
def State.closeCheck (s : State) (k : FlowKey) : State :=
  match s.flow? k with
  | none => s
  | some f =>
    match f.tt with
    | none => s
    | some b =>
      if b.mode = 1 && !b.checkEnded then s
      else
        let q := s.draw
        q.2.endCheck k f (b.stalled q.1.toNat)

/-- The check of a MARK, once its entries have been read (R322, R323): it finds C; a miss traps, or TTCUR rises; in
stall mode the entries of C must then end. -/
def State.markCheck (s : State) (k : FlowKey) (f : Flow) (b : Binding) (m : Nat) : State :=
  if b.begun then s.closeCheck k
  else if !b.readFor m then s
  else
    let c := b.checked m
    match (if b.mode = 0 then c.find? (fun e => !e.kept) else none) with
    | some e => s.missTrap k f b e
    | none =>
      let begin (b : Binding) : Binding :=
        { b with begun := true, cset := c.map (·.idx), late := c.any (fun e => !b.cset.contains e.idx) }
      ((s.modTt k begin).modFlow k (fun f => f.reach m)).closeCheck k

/-- MARK_CHECK_COMPLETE, R322. -/
def execEvMarkCheckComplete (k : FlowKey) (s : State) : Res :=
  withTable s k (fun f b =>
    match b.check with
    | some m => if s.engineFree k then s.markCheck k f b m else s
    | none => s)

/-! ### Rows -/

/-- An event of a row that stands in a state. -/
def withRow (s : State) (id : Nat) (g : Row → State) : Res :=
  match s.rows.find? (fun r => r.id == id) with
  | some r => .next (if s.engineFree r.sender then g r else s)
  | none => .next s

/-- ROW_ARRIVE, R335. -/
def execEvRowArrive (id : Nat) (s : State) : Res :=
  withRow s id (fun r => if r.st = .sent then s.arrive r else s)

/-- ROW_COUNTER_INCREMENT, R337: after every write of the row has APPLYed. -/
def execEvRowCounterIncrement (id : Nat) (s : State) : Res :=
  withRow s id (fun r =>
    if r.st = .written ∧ !s.net.any (fun fl => fl.origin == .row id) then s.countRow r else s)

/-- ROW_ANSWER, R343. -/
def execEvRowAnswer (id : Nat) (s : State) : Res :=
  withRow s id (fun r => match r.st with | .answered n => s.answerRow r n | _ => s)

end Sys2Proof.Machine
end

