-- ==== Sys2Proof/Machine/EvTask.lean ====
section
/-! DEFINITION. Dispatch and end of tasks (R178 to R180, R304 to R308), event records (R310, R311), barriers (R312),
energy windows (R364), replay boundaries (R209) and page-table walks (R395, R398). -/

namespace Sys2Proof.Machine

/-! ### Dispatch (R179, R307) -/

/-- Lane groups of a tenant's partition on a core that no flow holds. -/
def State.freeLanes (s : State) (f : Flow) : Nat :=
  ((s.partitionOf f.tenant f.loc).filter (fun j => !s.flows.any (fun g => g.loc.coreIdx == f.loc.coreIdx && g.vgnt.getLsbD j))).length

/-- Whether a Ready task can run on a flow (R179, R307). -/
def State.suits (s : State) (t : Task) (f : Flow) : Bool :=
  f.status == .idle && f.key.launch == t.launch && f.loc.die == t.die &&
    (match t.bound with | some n => n == f.key.lflow | none => true) &&
    (match s.launch? t.launch with
     | some l => t.groups.all (fun g => (l.members g).contains f.key.lflow)
     | none => false) &&
    decide (t.lgreq ≤ (s.partitionOf f.tenant f.loc).length)

/-- The flow a Ready task is dispatched to: most free lane groups on its core, then lowest LFLOW. -/
def State.flowFor (s : State) (t : Task) : Option Flow :=
  argMin (fun f => (8 - s.freeLanes f) * 4096 + f.key.lflow) (s.flows.filter (fun f => s.suits t f))

/-- Ready tasks of a die in the order of R307: highest PRIO, then the earliest Ready. -/
def State.readyTasks (s : State) (die : Nat) : List Task :=
  sortBy (fun t => (3 - t.prio) * 2 ^ 64 + t.order) (s.tasks.filter (fun t => t.die == die && t.st == .ready))

/-- The task dispatched next, with its flow: one whose estimate fits and that can be placed (R307, R365). -/
def State.nextTask (s : State) (die : Nat) : Option (Task × Flow) :=
  ((s.readyTasks die).filter (fun t => decide (t.est ≤ (s.ten t.tenant).enbudget))).findSome?
    (fun t => (s.flowFor t).map (fun f => (t, f)))

/-- The flow as dispatch leaves it (R54, R179): what survives a task is its copies, its log, its records and its
place in program order, with its stores and FENCEs (R200, R283, R310, R342). -/
def Flow.dispatched (f : Flow) (t : Task) (stack size : Nat) : Flow :=
  let sp := w64 (stack + (f.key.lflow + 1) * size)
  let new := Flow.init f.key f.loc f.tenant
  { new with
    status := .running
    pc := t.pc
    s := (((((new.s.set 1 sentinel).set 2 sp).set 3 sp).set 4 t.arg).set 5 t.handle)
    convoy := Convoy.none
    ival := f.ival
    seq := f.seq
    strips := f.strips
    sb := f.sb
    cq := f.cq
    fences := f.fences
    rf := f.rf
    issued := f.issued
    ctags := f.ctags
    cscope := f.cscope
    log := f.log
    events := f.events
    evOvf := f.evOvf
    task := t.handle
    enTrapped := f.enTrapped
    qEnd := f.qEnd
    qBeats := f.qBeats }

/-- TASK_DISPATCH, R307: the task is Running on its flow, whose first access follows an acquire, at dev or for a root task at
sys (R205, R351). -/
def execEvTaskDispatch (die : Nat) (s : State) : Res :=
  match s.nextTask die with
  | none => .next s
  | some (t, f) =>
    match s.launch? t.launch with
    | none => .next s
    | some l =>
      let s := { s with tasks := s.tasks.map (fun (u : Task) => if u.die = t.die ∧ u.entry = t.entry then { u with st := .running } else u) }
      let s := s.modFlow f.key (fun f => f.dispatched t l.stack.toNat l.stacksz)
      .next (s.acquire f.key (if t.bound.isSome then 6 else 4))

/-! ### The end of a task (R180, R308) -/

/-- Whether every word a flow has issued has completed (R180): VQ, matrix words, EQ, results and loads. -/
def State.wordsDone (s : State) (f : Flow) : Bool :=
  f.vqDrained && f.mxq.isEmpty && f.eq.isEmpty && f.busy.isEmpty && f.sb.all (fun a => !a.load) &&
    (s.netLoads f.key).isEmpty && s.ckpts.all (fun p => p.before.key != f.key)

/-- Whether a flow stands at the return sentinel (R180). -/
def Flow.atEnd (f : Flow) : Bool := f.status == .running && f.pc == sentinel && f.point.isNone

/-- The flow after its task (R180): no loop, no fragments, no grant, no attachment, every tag Free. The stores that the
VSQ holds of an open strip go with the loop (log 103). -/
def Flow.afterTask (f : Flow) : Flow :=
  { f.detach with
    status := .idle
    loop := none
    frags := []
    vsq := []
    act := BitVec.allOnes 32768
    vgnt := 0
    tags := List.replicate 16 .free
    reserved := []
    task := 0
    preq := false
    asked := []
    skipPoint := false
    noRoom := false
    convoy := Convoy.none
    cv := none
    rebuilt := false }

/-- The HTS entry of a handle becomes Free, and its generation rises (R302, R308). -/
def State.freeTask (s : State) (t : Task) : State :=
  { s with
    tasks := s.tasks.filter (fun u => !(u.die == t.die && u.entry == t.entry))
    taskGens := aset s.taskGens (t.die, t.entry) (if t.gen = 65535 then 1 else t.gen + 1) }

/-- PREEMPT's bit of a tenant clears once every flow that the PF's write named has been saved or has ended its task (R375). -/
def State.servePreempt (s : State) (t : Nat) : State :=
  if s.flows.any (fun f => f.tenant == t && f.asked.contains 0) then s else s.modTen t (fun x => { x with preempt := false })

/-- The end of a task, its words and its timetable's movements done. -/
def State.endTask (s : State) (f : Flow) : State :=
  let s := s.unbind f.key
  match s.tasks.find? (fun t => t.st == .running && t.handle == f.task) with
  | none => (s.modFlow f.key Flow.afterTask).servePreempt f.tenant
  | some t =>
    let s := if t.done = 0 then s else (s.perform f.key 4).decTask t.done 1
    (((s.freeTask t).modFlow f.key Flow.afterTask)).servePreempt f.tenant

/-- Whether a binding still moves bytes. -/
def Flow.moving (f : Flow) : Bool := match f.tt with | some b => b.ents.any (fun e => e.st == 4) | none => false

/-- TASK_END, R180. -/
def execEvTaskEnd (k : FlowKey) (s : State) : Res :=
  withFlow s k (fun f =>
    if f.atEnd && s.wordsDone f && s.engineFree k then
      if f.moving then s.modTt k (fun b => { b with stopping := true }) else s.endTask f
    else s)

/-! ### Event records and barriers -/

/-- A record reaches a flow's queue: at most 32, else it is dropped and OVF set (R310). -/
def Flow.receive (f : Flow) (word : Word) (scope : Nat) : Flow :=
  if f.events.length < 32 then { f with events := f.events ++ [(word, scope)] } else { f with evOvf := true }

/-- EVENT_RECORD_DELIVERED, R311: record k on its way. -/
def execEvEventRecordDelivered (k : Nat) (s : State) : Res :=
  match s.evFlight[k]? with
  | some e => .next ({ s with evFlight := s.evFlight.eraseIdx k }.modFlow e.dest (fun f => f.receive e.word e.scope))
  | none => .next s

/-- Whether every member of a group has issued its next BAR. -/
def Launch.arrived (l : Launch) (g : Nat) : Bool :=
  let n := aget l.barDone g 0
  !(l.members g).isEmpty && (l.members g).all (fun m => decide (n < aget l.barArr (m, g) 0))

/-- Whether a barrier can be passed: every member has arrived, and no earlier store of one is held for its strip's end
(R163, R205). -/
def State.barReady (s : State) (l : Launch) (g : Nat) : Bool :=
  l.arrived g && (s.memberFlows l g).all (fun f => f.held.isEmpty)

/-- BAR_RELEASE, R312: every member's accesses perform at the smallest scope that holds them all, and all pass. -/
def execEvBarRelease (launch group : Nat) (s : State) : Res :=
  match s.launch? launch with
  | none => .next s
  | some l =>
    if s.barReady l group then
      let fs := s.memberFlows l group
      let s := fs.foldl (fun s f => s.perform f.key (scopeOf fs)) s
      .next (s.modLaunch launch (fun l => { l with barDone := aset l.barDone group (aget l.barDone group 0 + 1) }))
    else .next s

/-! ### Windows and replay -/

/-- A tenant's account at a window boundary (R364). A narrowed cap is lifted once ENUSED is below SHARE (R366). -/
def Tenant.nextWindow (t : Tenant) : Tenant :=
  let t := { t with spent := min (t.enused - t.share) t.share * 10 ^ 9 }
  { t with capped := t.live && t.overrun }

/-- WINDOW_BOUNDARY, R362, R364, R366: 1 ms of the device clock has passed. -/
def execEvWindowBoundary (s : State) : Res :=
  .next { s with
    dev := { s.dev with clock := s.dev.clock + 10 ^ 6 }
    tenants := s.tenants.map Tenant.nextWindow
    me := { s.me with enTrapped := false }
    rest := s.rest.map (fun (f : Flow) => { f with enTrapped := false }) }

/-- Whether a flow has ended its quantum, or runs none (R209). -/
def Flow.quantumOver (f : Flow) : Bool := f.status != .running || f.qEnd || f.atEnd || f.point.isSome

/-- Bytes a flow's replay log holds: 16 for each store of a word, 64 for each command (log 30). -/
def Flow.logBytes (f : Flow) : Nat := 16 * f.sb.length + 64 * f.eq.length

/-- Whether a flow's quantum has ended by its beats or its log (R209). -/
def Flow.quantumFull (f : Flow) : Bool := decide (65536 ≤ f.qBeats ∨ 2 ^ 20 ≤ f.logBytes)

/-- The flows of a context in ascending LFLOW order, those of an earlier launch first where two share a number. -/
def State.flowsOf (s : State) (t : Nat) : List FlowKey :=
  (sortBy (fun k => k.lflow * 2 ^ 64 + k.launch) ((s.flows.filter (fun f => f.tenant == t && f.status != .free)).map (·.key)))

/-- Whether a context's boundary has come: every flow has ended its quantum, and one of them did so with a word,
with its task or with a log. -/
def State.boundaryDue (s : State) (t : Nat) : Bool :=
  let fs := s.flows.filter (fun f => f.tenant == t)
  (s.ten t).live && (s.ten t).replay && s.replayQ.isEmpty && fs.all Flow.quantumOver &&
    fs.any (fun f => f.qEnd || f.atEnd || !f.sb.isEmpty || !f.eq.isEmpty)

/-- REPLAY_BOUNDARY, R209: every flow's stores and AMO, then every flow's commands and the word that ended its quantum
(`replayStep` takes them). -/
def execEvReplayBoundary (t : Nat) (s : State) : Res :=
  let ks := s.flowsOf t
  onlyIf (s.boundaryDue t) s { s with replayQ := ks.map (fun k => (k, false)) ++ ks.map (fun k => (k, true)) }

/-- The logged stores of a flow APPLY in program order (R209). -/
def State.applyLog (s : State) (k : FlowKey) : State :=
  match s.flow? k with
  | none => s
  | some f =>
    let s := (sortBy (fun a => a.seq) (f.sb.filter (fun a => !a.load))).foldl
      (fun s a => s.applyFlight ⟨[], a, .flow k f.loc.coreIdx⟩) s
    s.modFlow k (fun f => { f with sb := f.sb.filter (fun a => a.load) })

/-! ### Power-gating (R424, R450) -/

/-- A die that holds a granule no more answers with an Ack: the directory forgets its share (R412, R424). -/
def State.forgetShare (s : State) (die : Nat) (g : Granule) : State :=
  let e := s.dirOf g
  let pres := e.pres.filter (· != die)
  match e.st with
  | .s => s.putDir { e with st := if pres.isEmpty then .i else .s, pres := pres }
  | .o => s.putDir { e with pres := pres }
  | _ => s

/-- A cluster is gated (R424): its L1s are written back, with WB or Ack for what they hold of other dies, and give up every
registration. -/
def State.gate (s : State) (cl : Nat) : State :=
  let mine (c : Nat) : Bool := c / 4 == cl
  let die := cl / 16
  let had := (s.coh.copies.filter (fun c => c.1 == die)).map (fun c => c.2.1)
  let s := (s.l1.filter (fun b => mine b.core)).foldl State.evict s
  let left := had.filter (fun g => (s.copyOf die g).isNone)
  { left.foldl (fun s g => s.forgetShare die g) s with
    reg := s.reg.filter (fun r => !mine r.core)
    amoRuns := s.amoRuns.filter (fun r => !mine r.core)
    tlb := s.tlb.filter (fun e => match e.place with | .core c => !mine c | .cluster c => c != cl) }

/-- Whether a cluster holds a flow or an engine's command: an Idle flow stays there until its launch ends (log 106). -/
def State.occupied (s : State) (cl : Nat) : Bool :=
  s.flows.any (fun f => f.loc.clusterIdx == cl && f.status != .free && f.status != .saved) || s.jobs.any (fun j => j.clusterIdx == cl)

/-- Retired clusters that no flow is left in are gated (R450). -/
def State.gateEmpty (s : State) : State :=
  if s.dev.retcl = 0 then s
  else ((List.range 64).filter (fun c => s.dev.retcl.getLsbD c && !s.occupied c)).foldl State.gate s

/-! ### Walks -/

/-- A TLB takes an entry; the one it filled first gives way where 256 or 4,096 stand there (R398, log 110). -/
def State.putTlb (s : State) (e : TlbEnt) : State :=
  let rest := s.tlb.filter (fun x => !(x.place == e.place && x.tenant == e.tenant && x.vbase == e.vbase))
  let room := match e.place with | .core _ => 256 | .cluster _ => 4096
  let mates := rest.filter (fun x => x.place == e.place)
  match decide (room ≤ mates.length), mates.getLast? with
  | true, some x => { s with tlb := e :: rest.erase x }
  | _, _ => { s with tlb := e :: rest }

/-- A die's walk cache takes a table pointer; the one it filled first gives way where 1,024 stand there (R398, log 110). -/
def State.putWalk (s : State) (p : WalkPtr) : State :=
  let rest := s.walks.filter (fun x => !(x.die == p.die && x.tenant == p.tenant && x.level == p.level && x.vbase == p.vbase))
  let mates := rest.filter (fun x => x.die == p.die)
  match decide (1024 ≤ mates.length), mates.getLast? with
  | true, some x => { s with walks := p :: rest.erase x }
  | _, _ => { s with walks := p :: rest }

/-- The tables that a walk reads below a table: level and address of each. -/
def State.walkTables (s : State) (t : Tenant) (va : Nat) : Nat → Nat → List (Nat × Nat)
  | 0, _ => []
  | l + 1, table =>
    let e := natLE (s.keyBytes (table + 8 * bits va (12 + 9 * (l + 1)) 9) t.rootKey 8)
    if bits e 1 3 = 0 then (l, bits e 12 40 * 4096) :: s.walkTables t va l (bits e 12 40 * 4096) else []

/-- Who walks, as TRANSLATION_WALK numbers it: tenant + 32 · (cluster + 64 · (core within it + 1)), the last part 0 for an
engine of the cluster. -/
def walkerOf (w : Nat) : Nat × Nat × Option Nat :=
  (w % 32, w / 32 % 64, match w / 2048 with | 0 => none | c + 1 => some c)

/-- Whether a leaf maps what the context may reach by some access: a fault of its key or place is never cached (R391, R398). -/
def State.leafServes (s : State) (t e size va : Nat) : Bool :=
  (s.ten t).hasKey (bits e 52 8) && s.allowedPa (s.ten t) (bits e 12 40 * 4096 / size * size + va % size)

/-- TRANSLATION_WALK, R395, R398: a walk for a core, or for an engine of a cluster, that ends in a leaf leaves the leaf in
the TLBs of the core and the cluster, and the table pointers on its way in the walk cache of the die. A fault leaves nothing. -/
def execEvTranslationWalk (w : Nat) (va : Word) (s : State) : Res :=
  let t := (walkerOf w).1
  let cluster := (walkerOf w).2.1
  let core := (walkerOf w).2.2
  let die := cluster / 16
  match s.walk die t va.toNat with
  | .error _ => .next s
  | .ok (e, a, size) =>
    if !s.leafServes t e size va.toNat then .next s
    else
    let base := va.toNat / size * size
    let p := s.walkStart die t va.toNat
    let p := match s.walkFrom (s.ten t) va.toNat p.1 p.2 with
      | .ok _ => p
      | .error _ => (4, wbits (s.ten t).ptroot 12 40 * 4096)
    let s := (s.walkTables (s.ten t) va.toNat p.1 p.2).foldl (fun s p =>
      s.putWalk ⟨die, t, p.1, va.toNat / 2 ^ (21 + 9 * p.1) * 2 ^ (21 + 9 * p.1), p.2⟩) s
    let s := s.putTlb ⟨.cluster cluster, t, base, size, w64 e, a⟩
    .next (match core with
      | some c => s.putTlb ⟨.core (cluster * 4 + c), t, base, size, w64 e, a⟩
      | none => s)

end Sys2Proof.Machine
end

