-- ==== Sys2Proof/Machine/EvSave.lean ====
section
/-! DEFINITION. Pre-emption: the save record (R258, R328, R376 to R383, R406) and resumption (R356, R384, R385). -/

namespace Sys2Proof.Machine

/-! ### Points (R376) -/

def Point.code : Point → Nat
  | .setvl => 0
  | .loopv => 1
  | .endv => 2
  | .wait => 3
  | .yield => 4
  | .forced => 5

/-- Whether the save takes the full form (R376, R381). -/
def State.saveFull (s : State) (f : Flow) (p : Point) : Bool :=
  let carry := match s.launch? f.key.launch with | some l => l.carry | none => 0
  p == .forced || (f.loop.isSome && p != .endv) || f.status3.getLsbD 2 || f.vprog.getLsbD 31 ||
    (carry != 0 && !classN f.fmtc)

/-! ### The record (R379 to R382) -/

/-- The registers among v0 to v47 that a descriptor word names. -/
def regsOf (x : Nat) : List Nat := (List.range 48).filter (fun v => bit x v)

/-- Positions of one register of L bits. -/
def Flow.regCodes (f : Flow) (v : Nat) : List Nat :=
  unpackCodes f.ew (2048 * f.granted / f.ew) (f.slice v 0 (2048 * f.granted))

/-- The image of a carried register (R381). -/
def Flow.image (f : Flow) (v op : Nat) : Nat :=
  let t := 2048 / f.ew
  let node := f.node (carryNode op)
  packCodes f.ew
    (if f.par then foldChunks node ((List.range f.granted).map (fun k => unpackCodes f.ew t (f.slice v (2048 * k) 2048)))
     else foldR71 node t (f.regCodes v))

/-- Bytes of a mask image of VL bits (R379). -/
def Flow.maskBytes (f : Flow) (m : MReg) : List Byte :=
  bytesLE (8 * ceilDiv f.vlN 64) (m.toNat % 2 ^ f.vlN)

def Flow.fragBytes (f : Flow) (x : Frag) : List Byte :=
  match x with
  | .parked m t => bytesLE 8 0 ++ f.maskBytes m ++ bytesLE 8 t.toNat
  | .join m => bytesLE 8 1 ++ f.maskBytes m ++ bytesLE 8 0

/-- The V section (R379). -/
def State.saveV (s : State) (f : Flow) (full : Bool) : List Byte :=
  if full then
    ((f.v.map (fun r => bytesLE (256 * f.granted) r.toNat)).flatten) ++ (f.m.map f.maskBytes).flatten ++ f.maskBytes f.act ++
      bytesLE 8 f.frags.length ++ (f.frags.reverse.map f.fragBytes).flatten
  else
    match s.launch? f.key.launch with
    | none => []
    | some l =>
      ((regsOf l.carry).map (fun v => bytesLE 256 (f.image v (bits l.carryop (2 * v) 2)))).flatten ++
        ((regsOf l.inv).map (fun v => bytesLE 8 (f.slice v 0 f.ew))).flatten

/-- SLOTS of the matrix section (R380). -/
def Slot.saveWords (x : Slot) : List Byte :=
  bytesLE 8 (x.kind + x.k <<< 8 + (b2n x.z) <<< 16 + (b2n x.p) <<< 17 + x.rc <<< 24 +
      (match x.link with | some t => t <<< 32 + 1 <<< 36 | none => 0)) ++
    bytesLE 8 (x.nanc.toNat + x.dropc.toNat <<< 32)

/-- The 512 bytes of a stored row (R380). -/
def Slot.saveRow (x : Slot) (r : Nat) : List Byte :=
  if x.kind = 2 then bytesLE 512 (packCodes 64 (x.rowWords r)) else bytesLE 512 (x.sums.getD r 0).toNat

/-- The matrix section. -/
def Flow.saveMx (f : Flow) : List Byte :=
  if f.rows = 0 then []
  else
    let zmask := sumN (f.slots.zipIdx.map (fun p => if p.1.z then 2 ^ p.2 else 0))
    bytesLE 8 (f.rows + zmask <<< 16) ++ bytesLE 8 0 ++ (f.slots.map Slot.saveWords).flatten ++
      ((f.slots.filter (fun x => !x.z)).map (fun x => ((List.range f.rows).map x.saveRow).flatten)).flatten

/-- Whole chunks among the bytes of an entry moved (R317). -/
def TtEnt.chunksDone (e : TtEnt) (lpa : Nat) : Nat :=
  ((allCuts e.va.toNat lpa e.len).filter (fun p => decide (p.1 + p.2 ≤ e.moved))).length

/-- Bytes of the first k chunks of an entry. -/
def TtEnt.chunkBytes (e : TtEnt) (lpa k : Nat) : Nat := sumN (((allCuts e.va.toNat lpa e.len).take k).map (·.2))

/-- The saved state of entry n of a binding (R380). -/
def State.estate (s : State) (b : Binding) (n : Nat) : List Byte :=
  match b.ents.find? (fun e => e.idx == n) with
  | none => bytesLE 8 1
  | some e =>
    bytesLE 8 (e.st + (b2n e.chk) <<< 4 + (b2n e.miss) <<< 5 + e.cause <<< 8 + e.sub <<< 16 +
      (e.chunksDone (s.localPa b.ctx e.tier e.doff)) <<< 32)

def TtRec.saveBytes (r : TtRec) : List Byte :=
  bytesLE 8 r.va.toNat ++ bytesLE 4 r.len ++ bytesLE 4 r.doff ++ bytesLE 2 r.ent ++
    bytesLE 14 (r.tier + (b2n r.wb) <<< 2 + (b2n r.pinned) <<< 3)

/-- The timetable section. -/
def State.saveTt (s : State) (f : Flow) : List Byte :=
  match f.tt with
  | none => []
  | some b =>
    bytesLE 8 b.table.toNat ++ bytesLE 8 (b.count + b.mode <<< 16 + b.next <<< 32) ++ bytesLE 8 f.ttcur.toNat ++
      bytesLE 8 f.ttmiss.toNat ++ bytesLE 8 (b.stall + b.misses <<< 32) ++ bytesLE 8 b.recs.length ++ bytesLE 16 0 ++
      ((List.range b.count).map (s.estate b)).flatten ++ (b.recs.map TtRec.saveBytes).flatten

/-- The log section (R380), empty where nothing is held (R406). -/
def Flow.saveLog (f : Flow) : List Byte :=
  if f.log.pending = 0 ∧ f.log.refN = 0 ∧ f.events.isEmpty then []
  else
    bytesLE 8 (f.log.pending + (b2n f.log.ovf) <<< 63) ++ bytesLE 8 (min f.log.refN (2 ^ 32 - 1)) ++
      bytesLE 8 (f.events.length + (b2n f.evOvf) <<< 63) ++ bytesLE 8 0 ++
      (f.log.refs.map (fun r => bytesLE 8 r.2.1.toNat ++ bytesLE 8 r.2.2.toNat)).flatten ++
      (f.events.map (fun e => bytesLE 8 e.1.toNat)).flatten

/-- The whole save record (R379). -/
def State.saveRecord (s : State) (f : Flow) (p : Point) : List Byte :=
  let full := s.saveFull f p
  let v := s.saveV f full
  let mx := f.saveMx
  let tt := s.saveTt f
  let log := f.saveLog
  let omx := 0x180 + v.length
  let ott := omx + mx.length
  let olog := ott + tt.length
  let size := olog + log.length
  let loop := match f.loop with
    | some l => 1 + (b2n l.par) <<< 1 + l.n.toNat <<< 2 + l.strip <<< 32
    | none => 0
  let body := match f.loop with | some l => l.body.toNat | none => 0
  bytesLE 8 (b2n full + p.code <<< 1 + f.granted <<< 8 + size <<< 32) ++ bytesLE 8 f.pc.toNat ++ bytesLE 8 f.avl.toNat ++
    bytesLE 8 loop ++ bytesLE 8 body ++
    ([f.vl.toNat, f.vtype.toNat, f.svp.toNat, f.vprog.toNat, f.status3.toNat, f.epc.toNat, f.eval.toNat, f.cause.toNat].map
      (bytesLE 8)).flatten ++
    bytesLE 8 (if mx.isEmpty then 0 else omx) ++ bytesLE 8 (if tt.isEmpty then 0 else ott) ++ bytesLE 8 olog ++
    ((List.range 32).map (fun r => bytesLE 8 (f.rd (BitVec.ofNat 5 r)).toNat)).flatten ++ v ++ mx ++ tt ++ log

/-! ### Saving -/

/-- Whether every word the flow has issued has completed, for a save (R376), and the Sluice's lanes stand at chunk boundaries
(R328). In replay mode the log waits for the boundary. -/
def State.saveReady (s : State) (f : Flow) : Bool :=
  (if s.replayOf f then f.vqDrained && f.mxq.isEmpty && f.busy.isEmpty else s.wordsDone f && f.sb.isEmpty) &&
    (match f.tt with | some b => b.check.isNone && b.ents.all (fun e => e.lane.isNone) | none => true)

/-- A flow once it is saved: what its record and the device hold leaves the core (R376, R385). -/
def Flow.saved (f : Flow) : Flow :=
  { f.detach with
    status := .saved
    point := none
    skipPoint := false
    noRoom := false
    preq := false
    asked := []
    vgnt := 0
    tt := none
    v := List.replicate 48 0
    m := List.replicate 12 0
    frags := []
    loop := none
    cv := none
    convoy := Convoy.none }

/-- The scratchpad records with WB go home before the binding is saved (R328). -/
def State.saveHome (s : State) (f : Flow) : State :=
  match f.tt with
  | none => s
  | some b => (b.recs.filter (fun r => r.tier == 2 && r.wb)).foldl (fun s r => s.writeHome f b.ctx r) s

/-- Saves a flow at a point, its record at an offset of the arena (R378, R385). -/
def State.saveAt (s : State) (f : Flow) (p : Point) (off : Nat) : State :=
  let bs := s.saveRecord f p
  let t := s.ten f.tenant
  let s := (s.saveHome f).sendWhere f.key (fun _ => true)
  let s := s.devWrite (t.arenaPa off) t.rootKey bs
  let s := s.charge f.tenant f.key.launch (bs.length * priceHbm)
  let lost := match f.tt with
    | some b => (b.ents.filter (fun e => e.evNew)).map (·.idx)
    | none => []
  let s := { s with saves := s.saves ++ [(⟨f.key, f.tenant, off, bs.length, lost⟩ : SaveRec)] }
  ((s.modFlow f.key Flow.saved).servePreempt f.tenant).gateEmpty

/-- Where the save record of a flow goes (R378); none where the arena has no room. -/
def State.saveRoom (s : State) (f : Flow) (p : Point) : Option Nat := s.arenaFind f.tenant (s.saveRecord f p).length

/-- The pre-emption is not taken (R378): the flow goes on at the word where it stopped. -/
def Flow.unpark (f : Flow) (p : Point) : Flow :=
  let f := { f with noRoom := true }
  match p with
  | .endv => Flow.stripStart { f with point := none }
  | .setvl => { f with point := none, skipPoint := true }
  | .loopv => { f with point := none, skipPoint := true }
  | _ => { f with point := none }

/-- Landing tags at a forced save (R53, R377): pending and landed entries are lost. -/
def Flow.loseTags (f : Flow) : Flow :=
  { f with
    tags := f.tags.map (fun t => match t with | .pending _ => .lost | .landed _ => .lost | x => x)
    bad := f.bad.filter (fun b => match b with | .land _ => false | _ => true) }

/-- Whether a pending request can be served now; where the flow waits and its last save found no room, once there is some. -/
def State.saveDue (s : State) (f : Flow) : Bool :=
  f.asksSave && s.saveReady f &&
    (f.point.isSome || !f.noRoom || (match f.pointOf with | some p => (s.saveRoom f p).isSome | none => false))

/-- PREEMPT_SAVE, R376, R377: a pending request is served at the point the flow stands at. Only a pre-emption that the
arena has room for is taken, and discards tags (R378). -/
def execEvPreemptSave (k : FlowKey) (s : State) : Res :=
  withFlow s k (fun f =>
    match f.pointOf with
    | none => s
    | some p =>
      if s.saveDue f then
        match s.saveRoom f p with
        | some off => (s.modFlow k Flow.loseTags).saveAt f.loseTags p off
        | none => s.modFlow k (fun f => f.unpark p)
      else s)

/-- FORCED_PREEMPTION, R377: a request long pending stops the flow at its next word boundary, inside a convoy too (R82);
its save follows once every issued word has completed. A flow that waits at a VXLANE is not stopped (R144), nor one whose request
found no room (R378). -/
def execEvForcedPreemption (k : FlowKey) (s : State) : Res :=
  withFlow s k (fun f =>
    if f.preq && !f.noRoom && f.fetch.isNone && f.status == .running && f.point.isNone && !f.atEnd then s.modFlow k (fun f => { f with point := some .forced }) else s)

/-! ### Resumption (R384) -/

/-- A number of the record. -/
def recNat (bs : List Byte) (o n : Nat) : Nat := natLE ((bs.drop o).take n)

def pointOfCode : Nat → Point
  | 0 => .setvl
  | 1 => .loopv
  | 2 => .endv
  | 3 => .wait
  | 4 => .yield
  | _ => .forced

/-- A Free hardware flow on a core (R178). -/
def State.freeFids (s : State) (die cluster core : Nat) : List Nat :=
  (List.range 16).filter (fun i => !s.flows.any (fun f =>
    f.loc == ⟨die, cluster, core, i⟩ && f.status != .free && f.status != .saved))

/-- Whether a die and cluster take work: neither lost nor retired (R447, R450). -/
def State.clusterUp (s : State) (die cluster : Nat) : Bool :=
  !s.dev.dieLost.getLsbD die && !s.dev.retcl.getLsbD (16 * die + cluster)

/-- The Free places of a die on cores whose partition for a tenant holds n lane groups, ascending (R177, R355). -/
def State.freePlaces (s : State) (tenant die n : Nat) : List Loc :=
  ((List.range 16).map (fun c =>
    if s.clusterUp die c then
      ((List.range 4).map (fun k =>
        if n ≤ (s.partitionOf tenant ⟨die, c, k, 0⟩).length then (s.freeFids die c k).map (fun i => (⟨die, c, k, i⟩ : Loc)) else [])).flatten
    else [])).flatten

/-- What a saved flow's record asks of its new place: lane groups, quarters, a Sluice slot. -/
structure Needs where
  lanes : Nat
  quarters : Nat
  slot : Bool
  deriving DecidableEq, Repr

def needsOf (bs : List Byte) (vllo : Nat) : Needs :=
  let full := bit (recNat bs 0 8) 0
  let omx := recNat bs 0x68 8
  ⟨if full then max vllo (bits (recNat bs 0 8) 8 4) else vllo,
   if omx = 0 then 0 else recNat bs omx 8 % 512 / 64,
   recNat bs 0x70 8 != 0⟩

/-- Quarters of a cluster that no flow holds. -/
def State.quartersFree (s : State) (cl : Nat) : List Nat :=
  (List.range 4).filter (fun q => !(s.flows.any (fun f => f.loc.clusterIdx == cl && f.qm.getLsbD q)))

/-- A place where a saved flow can resume (R356, R383, R384). -/
def State.placeFor (s : State) (f : Flow) (l : Launch) (bs : List Byte) : Option Loc :=
  let n := needsOf bs l.vllo
  (s.freePlaces f.tenant f.loc.die n.lanes).find? (fun p =>
    (!l.affin || p.cluster == f.loc.cluster) && decide (n.quarters ≤ (s.quartersFree p.clusterIdx).length) &&
      (!n.slot || decide ((s.bindings p.clusterIdx).length < 16)))

/-- Its record's bytes. -/
def State.recordOf (s : State) (r : SaveRec) : List Byte :=
  let t := s.ten r.tenant
  s.keyBytes (t.arenaPa r.off) t.rootKey r.size

/-- The oldest save that can be placed, with its launch and place (R460). -/
def State.nextResume (s : State) : Option (SaveRec × Loc) :=
  s.saves.findSome? (fun r =>
    match s.flow? r.key, s.launch? r.key.launch with
    | some f, some l => (s.placeFor f l (s.recordOf r)).map (fun p => (r, p))
    | _, _ => none)

/-- A register whose first codes are given and whose others below VLMAX() are `rest`; zero above (R381, R382). -/
def Flow.fillReg (f : Flow) (v : Nat) (xs : List Nat) (rest : Nat) : Flow :=
  { f with v := f.v.set v (BitVec.ofNat 16384 (packCodes f.ew (xs ++ List.replicate (f.vlmax - xs.length) rest))) }

/-- The V section of a width-free record (R381, R382); VPROG reads zero. -/
def Flow.restoreFree (f : Flow) (l : Launch) (bs : List Byte) : Flow :=
  let cs := regsOf l.carry
  let f := cs.zipIdx.foldl (fun (f : Flow) p =>
    let x := recNat bs (0x180 + 256 * p.2) 256
    f.fillReg p.1 (unpackCodes f.ew (2048 / f.ew) x) (identityCode f.fmtc (carryNode (bits l.carryop (2 * p.1) 2)))) f
  let o := 0x180 + 256 * cs.length
  (regsOf l.inv).zipIdx.foldl (fun (f : Flow) p =>
    let x := recNat bs (o + 8 * p.2) 8 % 2 ^ f.ew
    f.fillReg p.1 [x] x) { f with vprog := 0 }

/-- Fragments from the bottom of the buffer upward; n bytes a mask image. -/
def readFrags (n : Nat) : Nat → List Byte → List Frag
  | 0, _ => []
  | k + 1, bs =>
    let m := BitVec.ofNat 32768 (recNat bs 8 n)
    let x : Frag := if recNat bs 0 8 = 0 then .parked m (w64 (recNat bs (8 + n) 8)) else .join m
    x :: readFrags n k (bs.drop (16 + n))

/-- The V section of a full record (R379, R383). -/
def Flow.restoreFull (f : Flow) (g vl : Nat) (bs : List Byte) : Flow :=
  let n := 8 * ceilDiv vl 64
  let o := 0x180 + 48 * 256 * g
  let mask (i : Nat) : MReg := BitVec.ofNat 32768 (recNat bs (o + n * i) n % 2 ^ vl)
  let fo := o + 13 * n
  { f with
    v := (List.range 48).map (fun i => BitVec.ofNat 16384 (recNat bs (0x180 + 256 * g * i) (256 * g)))
    m := (List.range 12).map mask
    -- outside a loop every bit of the active set is 1 (R151)
    act := if f.loop.isSome then mask 12 else BitVec.allOnes 32768
    frags := (readFrags n (min (recNat bs fo 8) 8) (bs.drop (fo + 8))).reverse }

/-- A slot from its two words (R380). -/
def slotOf (a b rows : Nat) : Slot :=
  { Slot.init rows with
    kind := a % 4
    k := bits a 8 7
    z := bit a 16
    p := bit a 17
    rc := bits a 24 7
    link := if bit a 36 then some (bits a 32 4) else none
    nanc := BitVec.ofNat 32 b
    dropc := BitVec.ofNat 32 (b >>> 32) }

/-- Rows of a stored slot. -/
def Slot.loadRows (x : Slot) (rows : Nat) (bs : List Byte) : Slot :=
  let row (r : Nat) : List Byte := (bs.drop (512 * r)).take 512
  if x.kind = 2 then
    { (x.mergeRows ((List.range rows).map (fun r => (row r).take (8 * x.k)))) with nanc := x.nanc }
  else { x with sums := (List.range rows).map (fun r => BitVec.ofNat 4096 (natLE (row r))) }

/-- The matrix attachment restored into quarters (R258). -/
def Flow.restoreMx (f : Flow) (qs : List Nat) (bs : List Byte) : Flow :=
  let rows := 64 * qs.length
  let slots := (List.range 16).map (fun i => slotOf (recNat bs (0x10 + 16 * i) 8) (recNat bs (0x18 + 16 * i) 8) rows)
  let r := slots.foldl (fun (acc : List Slot × Nat) x =>
    if x.z then (acc.1 ++ [x], acc.2) else (acc.1 ++ [x.loadRows rows (bs.drop acc.2)], acc.2 + 512 * rows)) ([], 0x110)
  { f.attach qs with slots := r.1 }

/-- A held record from its bytes (R380), with the translations of its home side as they now stand (R327). -/
def State.recOf (s : State) (c : Ctx) (bs : List Byte) : TtRec :=
  let r : TtRec := ⟨recNat bs 16 2, recNat bs 18 1 % 4, recNat bs 12 4, w64 (recNat bs 0 8), recNat bs 8 4,
    bit (recNat bs 18 1) 2, bit (recNat bs 18 1) 3, []⟩
  { r with home := s.homeXls c r.wb r.va.toNat r.tier r.doff r.len }

/-- A saved entry, its fields read again from the table, of which a line that cannot be read fails every entry, and charged (R314,
R326, R328, R380). A Queued one still waits for the accesses before the save (R323); one evicted since the last MARK is still to be
reported (R327). -/
def State.restoreEnt (s : State) (f : Flow) (b : Binding) (lost : List Nat) (n x : Nat) : State × TtEnt :=
  let va := b.table.toNat + 32 * n
  let r : State × TtEnt := match s.rangeErr b.ctx (va / 128 * 128) .r 128 with
    | some (er, _) => (s, ttBad n (copySub er.1))
    | none =>
      let xs := s.rangeXls b.ctx va .r 32
      let s := (piecesOf xs).foldl (fun s p => s.engineReach b.ctx.cluster p.1 p.2) s
      if (s.badOf (s.rangeXls b.ctx (va / 128 * 128) .r 128)).isSome then (s, ttBad n 3)
      else
        (s.charge f.tenant f.key.launch (sumN (xs.map (fun x => s.bytePrice f.loc.die x.pa))),
          ttEntry n (natLE (xs.map (fun x => s.pointByte x.pa x.key))))
  let e : TtEnt := { r.2 with chk := bit x 4, miss := bit x 5 }
  if e.lineBad then (r.1, e)
  else
    (r.1, { e with
      st := x % 16
      cause := bits x 8 8
      sub := bits x 16 8
      moved := e.chunkBytes (s.localPa b.ctx e.tier e.doff) (bits x 32 32)
      after := if x % 16 = 3 then f.seq else 0
      evNew := x % 16 == 7 && lost.contains n })

/-- The binding of a record's timetable section (R328). -/
def State.restoreTt (s : State) (f : Flow) (c : Ctx) (lost : List Nat) (bs : List Byte) : State × Binding :=
  let ctl := recNat bs 8 8
  let n := bits ctl 0 16
  let next := bits ctl 32 16
  let cnt := recNat bs 0x20 8
  let b : Binding := ⟨w64 (recNat bs 0 8), n, bits ctl 16 2, [], next, [], bits cnt 32 16, bits cnt 0 32, none, false, [], false, false, c⟩
  let r := (List.range next).foldl (fun (r : State × List TtEnt) i =>
    let q := r.1.restoreEnt f b lost i (recNat bs (0x40 + 8 * i) 8)
    (q.1, r.2 ++ [q.2])) (s, [])
  (r.1, { b with
    ents := r.2
    recs := (List.range (recNat bs 0x28 8)).map (fun i => r.1.recOf c (bs.drop (0x40 + 8 * n + 32 * i))) })

/-- In another cluster every scratchpad record is fetched afresh before the flow resumes (R328), and charged (R326). -/
def State.refetch (s : State) (k : FlowKey) : State :=
  match s.flow? k with
  | none => s
  | some f =>
    match f.tt with
    | none => s
    | some b =>
      (b.recs.filter (fun r => r.tier == 2)).foldl (fun (s : State) r =>
        (allCuts r.va.toNat (s.localPa b.ctx 2 r.doff) r.len).foldl (fun (s : State) (p : Nat × Nat) =>
          match s.access b.ctx (r.va.toNat + p.1) .r with
          | .error _ => s
          | .ok x => (match s.ttChunk f b.ctx 2 (r.doff + p.1) x p.2 true with | .ok t => t | .error _ => s)) s) s

/-- The scalar part of a record (R379): everything but V, the sections and VL. -/
def Flow.restoreBase (f : Flow) (bs : List Byte) : Flow :=
  let loop := recNat bs 0x18 8
  let vt := w64 (recNat bs 0x30 8)
  { f with
    pc := w64 (recNat bs 8 8)
    avl := w64 (recNat bs 0x10 8)
    loop := if bit loop 0 then
        some ⟨BitVec.ofNat 5 (bits loop 2 5), w64 (recNat bs 0x20 8), bit loop 1, bits loop 32 32, [], 1⟩ else none
    vtype := if vtypeBad vt then 0x0F20 else vt
    svp := w64 (recNat bs 0x38 8) &&& 0x7F
    vprog := w64 (recNat bs 0x40 8) &&& 0x8000FFFF
    status3 := BitVec.ofNat 3 (recNat bs 0x48 8)
    epc := w64 (recNat bs 0x50 8)
    eval := w64 (recNat bs 0x58 8)
    cause := w64 (recNat bs 0x60 8) &&& 0xFFFF
    s := (List.range 32).map (fun r => if r = 0 then 0 else w64 (recNat bs (0x80 + 8 * r) 8))
    act := BitVec.allOnes 32768
    convoy := { Convoy.none with fresh := true }
    status := .running }

/-- Ends a resumption (R384): the strip start of an ENDV point, VL of at most VLMAX() (R39), or the trap of a VTYPE that R38 refuses (R378). -/
def State.resumeEnd (s : State) (k : FlowKey) (p : Point) (vl : Nat) (vt : Word) : State :=
  let s := s.modFlow k (fun f =>
    let f := { f with vl := BitVec.ofNat 16 (min vl f.vlmax) }
    if p == .endv then f.stripStart else f)
  if vtypeBad vt then
    let me := s.me.key
    ((s.swapIn k).trap { ill subVtype with eval := vt }).swapIn me
  else s

/-- A saved flow resumes at a place (R384). -/
def State.resumeAt (s : State) (r : SaveRec) (f : Flow) (l : Launch) (p : Loc) : State :=
  let bs := s.recordOf r
  let h := recNat bs 0 8
  let full := bit h 0
  let moved := decide (p.clusterIdx ≠ f.loc.clusterIdx)
  let s := { s with saves := s.saves.filter (fun (q : SaveRec) => q != r) }
  let s := s.charge f.tenant f.key.launch (bs.length * priceHbm)
  let f := ({ f with loc := p }).restoreBase bs
  let g : BitVec 8 :=
    if full then s.grantN f (bits h 8 4)
    else if f.avl = 0 then 0 else (s.grantFor f f.avl.toNat).getD 0
  let f := { f with vgnt := g }
  let vl := recNat bs 0x28 8 % 65536
  let f := { f with loop := f.loop.map (fun (x : LoopRec) => { x with carried := s.carriedSet f, cgrp := f.grp }) }
  let f := if full then f.restoreFull (bits h 8 4) vl bs else f.restoreFree l bs
  let omx := recNat bs 0x68 8
  let ott := recNat bs 0x70 8
  let f := if omx = 0 then f else f.restoreMx ((s.quartersFree p.clusterIdx).take (recNat bs omx 8 % 512 / 64)) (bs.drop omx)
  let c := { s.ctx f with core := none }
  let q := if ott = 0 then none else some (s.restoreTt f c r.lost (bs.drop ott))
  let s := match q with | some q => q.1 | none => s
  let f := if ott = 0 then f
    else { f with
      tt := q.map (·.2)
      ttcur := w64 (recNat bs (ott + 0x10) 8) &&& 0xFFFF
      ttmiss := w64 (recNat bs (ott + 0x18) 8) }
  let s := s.modFlow r.key (fun _ => f)
  let s := if moved then s.refetch r.key else s
  s.resumeEnd r.key (pointOfCode (bits h 1 3)) vl (w64 (recNat bs 0x30 8))

/-- RESUME, R384: the flow is the one whose turn it is (R460). -/
def execEvResume (k : FlowKey) (s : State) : Res :=
  match s.nextResume with
  | some (r, p) =>
    if r.key = k then
      match s.flow? k, s.launch? k.launch with
      | some f, some l => .next (s.resumeAt r f l p)
      | _, _ => .next s
    else .next s
  | none => .next s

end Sys2Proof.Machine
end

