-- ==== Sys2Proof/Machine/EvContext.lean ====
section
/-! DEFINITION. Launches and tenants: the launch port and router (R350 to R357, R375, R460), the end of a launch, the
tenant record (R348, R349), shares and caps (R362), TVECT (R370), PREEMPT (R375) and shootdowns (R400 to R402). -/

namespace Sys2Proof.Machine

/-! ### Launch records (R351, R352) -/

/-- LAUNCH_PORT_WRITE, R351. -/
def execEvLaunchPortWrite (t off : Nat) (bytes : List Byte) (s : State) : Res :=
  if !s.dev.served t then .next s
  else if off ≠ 0 ∨ bytes.length ≠ 64 then .next ((s.modTen t (fun x => { x with lstBad := true })).irq t 0)
  else if 64 ≤ (s.ten t).queue.length then .next ((s.modTen t (fun x => { x with lstOvf := true })).irq t 0)
  else .next (s.modTen t (fun x => { x with queue := x.queue ++ [bytes] }))

/-- A launch record's fields (R352). -/
structure LRec where
  kdesc : Nat
  arg : Nat
  stack : Nat
  stacksz : Nat
  est : Nat
  flows : List Nat
  gtab : Nat
  done : Nat
  nmemb : Nat
  spmOff : Nat
  spmLen : Nat
  prio : Nat
  lgreq : Nat
  affin : Bool
  vec : Nat
  roots : Bool
  high : Nat
  deriving DecidableEq, Repr

def lrecOf (bs : List Byte) : LRec :=
  let c := recNat bs 0x38 8
  let f := recNat bs 0x20 8
  ⟨recNat bs 0 8, recNat bs 8 8, recNat bs 0x10 8, recNat bs 0x18 4, recNat bs 0x1C 4,
   [bits f 0 16, bits f 16 16, bits f 32 16, bits f 48 16], recNat bs 0x28 8, recNat bs 0x30 8,
   bits c 0 16, bits c 16 10, bits c 26 11, bits c 37 2, bits c 39 4, bit c 43, bits c 44 4, bit c 48, bits c 49 15⟩

def LRec.total (r : LRec) : Nat := sumN r.flows

/-- Whether a field of the record breaks R352 (R354, reason 1). -/
def LRec.bad (r : LRec) : Bool :=
  r.kdesc % 64 != 0 || r.stacksz % 16 != 0 || r.flows.any (fun n => decide (1024 < n)) ||
    decide (r.total < 1 ∨ 4096 < r.total) || r.gtab % 4 != 0 || (r.nmemb == 0 && r.gtab != 0) || r.done % 8 != 0 ||
    decide (16384 < r.nmemb) || decide (1024 < r.spmOff + r.spmLen) || decide (r.lgreq < 1 ∨ 8 < r.lgreq) || r.high != 0

/-- A kernel descriptor's fields (R353). -/
structure KDesc where
  entry : Nat
  inv : Nat
  carry : Nat
  op : Nat
  deriving DecidableEq, Repr

def kdescOf (x : Nat) : KDesc := ⟨bits x 0 64, bits x 64 64, bits x 128 64, bits x 192 128⟩

def KDesc.vllo (k : KDesc) : Nat := bits k.inv 48 4
def KDesc.vlhi (k : KDesc) : Nat := bits k.inv 52 4

/-- Whether a descriptor's 64 bytes break R353 (R354, reason 1). -/
def kdescBad (x : Nat) : Bool :=
  let k := kdescOf x
  k.entry % 4 != 0 || bits k.inv 56 8 != 0 || decide (k.vllo < 1 ∨ k.vlhi < k.vllo ∨ 8 < k.vlhi) ||
    bits k.carry 48 16 != 0 || bits x 320 192 != 0 || (bits k.inv 0 48 &&& k.carry) != 0 ||
    (List.range 48).any (fun v => bit k.carry v && bits k.op (2 * v) 2 == 3)

/-- The router's own context: loads of the tenant's (R354), not in user mode. -/
def routerCtx (t : Nat) : Ctx := ⟨t, false, none, 0, 0, 0⟩

/-- Bytes the router reads; none where they cannot be read (R354, reason 3). -/
def State.routerRead (s : State) (t va n : Nat) : Option (List Byte) :=
  match s.rangeErr (routerCtx t) va .r n with
  | some _ => none
  | none =>
    let xs := s.rangeXls (routerCtx t) va .r n
    if (s.badOf xs).isSome then none else some (xs.map (fun x => s.pointByte x.pa x.key))

/-- What the router reads of n bytes comes from its homes (R196, R413, R423). -/
def State.routerReach (s : State) (t va n : Nat) : State :=
  match s.rangeErr (routerCtx t) va .r n with
  | some _ => s
  | none => (piecesOf (s.rangeXls (routerCtx t) va .r n)).foldl (fun s p => s.pointRead none p.1.pa p.1.key (p.1.pol != 2)) s

/-- The group table of a launch: pairs of group and LFLOW, each once (R352). -/
def groupPairs (ws : List Nat) : List (Nat × Nat) :=
  ws.foldl (fun acc w =>
    let p := (bits w 24 8, bits w 0 12)
    if acc.contains p then acc else acc ++ [p]) []

/-- Why a launch is refused (R354), or its descriptor and group table. -/
def State.judge (s : State) (t : Nat) (r : LRec) : Except Nat (KDesc × List (Nat × Nat)) :=
  if r.bad then .error 1
  else
    match s.routerRead t r.kdesc 64 with
    | none => .error 3
    | some bs =>
      if kdescBad (natLE bs) then .error 1
      else
        match s.routerRead t r.gtab (4 * r.nmemb) with
        | none => .error 3
        | some gs =>
          let ws := (List.range r.nmemb).map (fun i => recNat gs (4 * i) 4)
          let ps := groupPairs ws
          let k := kdescOf (natLE bs)
          if ws.any (fun w => bits w 12 12 != 0) then .error 1
          else if ps.any (fun p => decide (r.total ≤ p.2)) then .error 2
          else if ps.any (fun p => decide (4 < (ps.filter (fun q => q.2 == p.2)).length)) then .error 2
          else if (List.range 4).any (fun d =>
              let cores := ((List.range 64).filter (fun i => s.clusterUp d (i / 4) &&
                decide (k.vllo ≤ (s.partitionOf t ⟨d, i / 4, i % 4, 0⟩).length))).length
              decide (16 * cores < nth0 r.flows d)) then .error 4
          else .ok (k, ps)

/-! ### The end of a launch (R357) -/

/-- The completion record (R357): STATUS and the charge in µJ; one that cannot be written is logged (kind 10). -/
def State.complete (s : State) (t : Nat) (done : Word) (vec reason code charged : Nat) : State :=
  let s :=
    if done = 0 then s
    else
      let bs := bytesLE 8 (2 ^ 63 + reason <<< 8 + code) ++ bytesLE 8 (charged / 10 ^ 9)
      let c := routerCtx t
      let xs := s.rangeXls c done.toNat .w 16
      if (s.rangeErr c done.toNat .w 16).isSome || (s.badOf xs).isSome || (s.lostByte (xs.map (·.pa))).isSome then s.logErr 10 0 0 t 0 0 done.toNat
      else (s.flushNet.engineWrite s.me c xs bs).writeBack (fun _ => true)
  if vec = 0 then s else s.irq t vec

/-- Takes away the flows that p selects. -/
def State.dropFlows (s : State) (p : Flow → Bool) : State :=
  { s with
    me := if p s.me then Flow.init ⟨0, 0⟩ ⟨0, 0, 0, 0⟩ 0 else s.me
    rest := s.rest.filter (fun f => !p f) }

/-- What of a launch is still on its way (R357). -/
def State.launchBusy (s : State) (l : Launch) : Bool :=
  s.flows.any (fun f => f.key.launch == l.id && (f.status != .idle || (s.replayOf f && !f.sb.isEmpty))) || s.tasks.any (fun t => t.launch == l.id) ||
    s.jobs.any (fun j => j.flow.launch == l.id) || s.rows.any (fun r => r.sender.launch == l.id) ||
    s.evFlight.any (fun e => e.dest.launch == l.id)

/-- Every access of a flow has performed at sys, the stores of its replay log too. -/
def State.finishFlow (s : State) (k : FlowKey) : State :=
  match s.flow? k with
  | none => s
  | some f => if s.replayOf f then s.applyLog k else s.perform k 6

/-- Ends a launch with an END code (R357): every access of it performs first, so that its charges are all counted. -/
def State.endLaunch (s : State) (l : Launch) (code : Nat) : State :=
  let s := (s.flowsOf l.tenant).foldl (fun s k => if k.launch = l.id then s.finishFlow k else s) s
  let s := (s.tasks.filter (fun t => t.launch == l.id)).foldl (fun s t => s.freeTask t) s
  let charged := match s.launch? l.id with | some m => m.charged | none => l.charged
  let s := s.dropFlows (fun f => f.key.launch == l.id)
  let s := { s with
    launches := s.launches.filter (fun (m : Launch) => m.id != l.id)
    jobs := s.jobs.filter (fun (j : Job) => j.flow.launch != l.id)
    rows := s.rows.filter (fun (r : Row) => r.sender.launch != l.id)
    saves := s.saves.filter (fun (r : SaveRec) => r.key.launch != l.id)
    ckpts := s.ckpts.filter (fun (d : Defer) => d.before.key.launch != l.id)
    evFlight := s.evFlight.filter (fun (e : EvFlight) => e.dest.launch != l.id) }
  ((s.complete l.tenant l.done l.vec 0 code charged).servePreempt l.tenant).gateEmpty

/-- LAUNCH_END, R357: once nothing of it is on its way. -/
def execEvLaunchEnd (id : Nat) (s : State) : Res :=
  match s.launch? id with
  | some l => onlyIf (!s.launchBusy l) s (s.endLaunch l l.ending)
  | none => .next s

/-! ### The router (R355, R375, R460) -/

/-- The head record of a level of a tenant, with its place in the queue. -/
def Tenant.headOf (t : Tenant) (prio : Nat) : Option (Nat × LRec) :=
  ((t.queue.map lrecOf).zipIdx.find? (fun p => p.1.prio == prio)).map (fun p => (p.2, p.1))

/-- Where a record's flows go: per die, the first Free places in ascending cluster, core and FLOWID order. -/
def State.placesFor (s : State) (t : Nat) (r : LRec) (vllo : Nat) : Option (List Loc) :=
  (List.range 4).foldl (fun acc d =>
    match acc with
    | none => none
    | some ls =>
      let n := nth0 r.flows d
      let free := s.freePlaces t d vllo
      if free.length < n then none else some (ls ++ free.take n)) (some [])

/-- Whether two ranges share an address; an empty one shares none. -/
def meets (a b c d : Nat) : Bool := decide (max a c < min b d)

/-- Whether the scratchpad range of a record is free on the dies it asks for (R355). -/
def State.spmFree (s : State) (r : LRec) : Bool :=
  !s.launches.any (fun l => meets r.spmOff (r.spmOff + r.spmLen) l.spmOff (l.spmOff + l.spmLen) &&
    (List.range 4).any (fun d => nth0 r.flows d != 0 && nth0 l.counts d != 0))

/-- Roots of a launch: LFLOWs bound to a root task (R355). -/
def LRec.rootList (r : LRec) : List Nat := if r.roots then List.range r.total else [0]

/-- Whether the HTSs have entries for the root tasks. -/
def State.tasksFree (s : State) (r : LRec) (ls : List Loc) : Bool :=
  (List.range 4).all (fun d =>
    let n := (r.rootList.filter (fun i => ((ls[i]?).map (·.die)) == some d)).length
    decide ((s.tasks.filter (fun t => t.die == d)).length + n ≤ 16384))

/-- The scratchpad range of a launch reads zero (R355). -/
def State.zeroSpm (s : State) (r : LRec) : State :=
  if r.spmLen = 0 then s
  else
    let inside (a : Nat) : Bool := match regionOf a with
      | .spm cl o => nth0 r.flows (cl / 16) != 0 && decide (4096 * r.spmOff ≤ o ∧ o < 4096 * (r.spmOff + r.spmLen))
      | _ => false
    { s with
      mem := s.mem.filter (fun (c : Host.Cell) => !inside c.1)
      memKey := s.memKey.filter (fun (c : Host.Cell) => !inside c.1)
      bad := s.bad.filter (fun a => !inside a)
      l1 := s.l1.filter (fun b => !inside b.addr)
      reg := s.reg.filter (fun r => !inside r.line)
      badCache := s.badCache.filter (fun a => !inside a) }

/-- A root task (R355). -/
def rootTask (s : State) (t id : Nat) (r : LRec) (k : KDesc) (die e lflow : Nat) : Task where
  die := die
  entry := e
  gen := s.taskGen die e
  st := .ready
  pc := w64 k.entry
  arg := w64 r.arg
  tenant := t
  launch := id
  count := 0
  prio := r.prio
  lgreq := r.lgreq
  groups := []
  est := r.est
  done := 0
  bound := some lflow
  order := s.nextId

/-- A launch as it is placed. -/
def newLaunch (id t : Nat) (r : LRec) (k : KDesc) (ps : List (Nat × Nat)) : Launch where
  id := id
  tenant := t
  counts := r.flows
  kdesc := w64 r.kdesc
  arg := w64 r.arg
  stack := w64 r.stack
  stacksz := r.stacksz
  est := r.est
  done := w64 r.done
  prio := r.prio
  lgreq := r.lgreq
  affin := r.affin
  vec := r.vec
  roots := r.roots
  spmOff := r.spmOff
  spmLen := r.spmLen
  entry := w64 k.entry
  inv := bits k.inv 0 48
  carry := k.carry
  carryop := k.op
  vllo := k.vllo
  vlhi := k.vlhi
  groups := ps
  charged := 0
  barArr := []
  barDone := []
  xlCnt := []
  ending := 0

/-- Placement (R177, R355): flows, scratchpad, group table and root tasks, in one step. -/
def State.place (s : State) (t : Nat) (r : LRec) (k : KDesc) (ps : List (Nat × Nat)) (ls : List Loc) : State :=
  let id := s.nextId
  let flows := ls.zipIdx.map (fun p => { Flow.init ⟨id, p.2⟩ p.1 t with status := .idle })
  let s := { s.zeroSpm r with
    rest := s.rest ++ flows
    launches := s.launches ++ [newLaunch id t r k ps]
    nextId := id + 1 }
  r.rootList.foldl (fun (s : State) i =>
    match ls[i]? with
    | none => s
    | some loc =>
      match s.freeEntry loc.die with
      | none => s
      | some e => { s with
          tasks := s.tasks ++ [rootTask s t id r k loc.die e i]
          nextId := s.nextId + 1
          freeCtr := s.freeCtr + 1 }) s

/-- The flows of a die that the router asks first for a record of a PRIO (R375): those of the launches of lowest PRIO,
then of the one placed most recently, then the highest LFLOW; Running or Waiting. -/
def State.victims (s : State) (die prio : Nat) : List Flow :=
  let pr (f : Flow) : Nat := match s.launch? f.key.launch with | some l => l.prio | none => 9
  let live (f : Flow) : Bool := match f.status with | .running => true | .waiting _ => true | _ => false
  sortBy (fun f => (pr f * 2 ^ 64 + (2 ^ 64 - f.key.launch)) * 4096 + (4095 - f.key.lflow))
    (s.flows.filter (fun f => live f && f.loc.die == die && decide (pr f < prio)))

/-- Who asks for a pre-emption by the head record of a level of a tenant. -/
def askId (t prio : Nat) : Nat := 1 + 4 * t + prio

/-- The flows that a record which lacks Free flows has still to ask (R375): of each die as many as it lacks, those it has asked
before among them. -/
def State.asksFor (s : State) (t : Nat) (r : LRec) (vllo : Nat) : List Flow :=
  let asked (f : Flow) : Bool := f.asked.contains (askId t r.prio)
  ((List.range 4).map (fun d =>
    let had := (s.flows.filter (fun f => f.loc.die == d && f.preq && asked f)).length
    ((s.victims d r.prio).filter (fun f => !asked f)).take (nth0 r.flows d - (s.freePlaces t d vllo).length - had))).flatten

/-- A request of an asker on a flow (R375). -/
def Flow.ask (n : Nat) (f : Flow) : Flow := { f with preq := true, asked := if f.asked.contains n then f.asked else n :: f.asked }

/-- The router's requests for want of Free flows. -/
def State.askFor (s : State) (t : Nat) (r : LRec) (vllo : Nat) : State :=
  (s.asksFor t r vllo).foldl (fun (s : State) f => s.modFlow f.key (Flow.ask (askId t r.prio))) s

/-- What the router does with the head of a level: refuses it, places it, or waits. -/
inductive Route where
  | refuse (i : Nat) (r : LRec) (reason : Nat)
  | place (i : Nat) (r : LRec) (k : KDesc) (ps : List (Nat × Nat)) (ls : List Loc)
  | lacks (r : LRec) (vllo : Nat)
  | wait

def State.routeHead (s : State) (t prio : Nat) : Route :=
  match (s.ten t).headOf prio with
  | none => .wait
  | some (i, r) =>
    match s.judge t r with
    | .error n => .refuse i r n
    | .ok (k, ps) =>
      match s.placesFor t r k.vllo with
      | none => .lacks r k.vllo
      | some ls => if s.spmFree r && s.tasksFree r ls then .place i r k ps ls else .wait

/-- Whether the router serves the head of a level before those below it. -/
def Route.acts : Route → Bool
  | .refuse .. => true
  | .place .. => true
  | _ => false

/-- Whether a saved flow of at least a PRIO can be placed first (R375, R460). -/
def State.savedFirst (s : State) (prio : Nat) : Bool :=
  s.saves.any (fun r =>
    match s.flow? r.key, s.launch? r.key.launch with
    | some f, some l => decide (prio ≤ l.prio) && (s.placeFor f l (s.recordOf r)).isSome
    | _, _ => false)

/-- The requests of an asker whose record is placed or refused stay pending, but are no longer its own. -/
def Flow.unask (n : Nat) (f : Flow) : Flow := { f with asked := f.asked.filter (· != n) }

/-- A record of a level leaves a tenant's queue. -/
def State.dequeue (s : State) (t i prio : Nat) : State :=
  let s := s.modTen t (fun x => { x with queue := x.queue.eraseIdx i })
  { s with me := s.me.unask (askId t prio), rest := s.rest.map (Flow.unask (askId t prio)) }

/-- LAUNCH_PLACE, R354, R355: levels are served from PRIO 3 downward. -/
def execEvLaunchPlace (t prio : Nat) (s : State) : Res :=
  if !(s.ten t).live || (List.range 4).any (fun p => decide (prio < p) && (s.routeHead t p).acts) then .next s
  else
    match s.routeHead t prio with
    | .refuse i r n => .next (((if r.bad then s else s.routerReach t r.kdesc 64).dequeue t i prio).complete t (w64 r.done) r.vec n 2 0)
    | .place i r k ps ls => if s.savedFirst prio then .next s else .next ((((s.routerReach t r.kdesc 64).routerReach t r.gtab (4 * r.nmemb)).dequeue t i prio).place t r k ps ls)
    | .lacks r vllo => .next (s.askFor t r vllo)
    | .wait => .next s

/-! ### Tenants (R348, R349) -/

/-- Pool region of a tenant, in pool space. -/
def Tenant.poolRange (t : Tenant) : Nat × Nat := (wbits t.pool 0 40, wbits t.pool 0 40 + wbits t.pool 40 24 * 2 ^ 20)

/-- Key identifiers a record names. -/
def Tenant.keyList (t : Tenant) : List Nat := ((List.range 4).map (fun i => bits t.keys.toNat (8 * i) 8)).filter (· != 0)

/-- The conditions of setting LIVE (R349, R394). -/
def State.liveOk (s : State) (t : Nat) : Bool :=
  let x := s.ten t
  decide (x.wbase.toNat + x.arenaBase + x.arenaSize ≤ x.wlimit.toNat) && x.hasKey x.rootKey &&
    (s.tenants.zipIdx.all (fun p => p.2 == t || !p.1.live ||
      (!meets x.wbase.toNat x.wlimit.toNat p.1.wbase.toNat p.1.wlimit.toNat &&
        !meets x.poolRange.1 x.poolRange.2 p.1.poolRange.1 p.1.poolRange.2 &&
        !x.keyList.any (fun k => p.1.keyList.contains k))))

/-- The keys of a tenant are retired (R418): modified lines are written to their homes, and every line, directory entry
and registration under them goes. -/
def State.retireKeys (s : State) (keys : List Nat) : State :=
  let s := s.flushNet.writeBack (fun _ => true)
  let mine (a : Nat) : Bool := keys.contains (s.memKey.get a).toNat
  let s := (s.badCache.filter mine).foldl State.errHome s
  { s with
    l1 := s.l1.filter (fun b => !keys.contains b.key)
    reg := s.reg.filter (fun r => !keys.contains r.key)
    amoRuns := s.amoRuns.filter (fun r => !keys.contains r.key)
    peerCopies := s.peerCopies.filter (fun p => !keys.contains p.key)
    coh := { s.coh with
      dir := s.coh.dir.filter (fun e => !keys.contains e.g.key)
      txns := s.coh.txns.filter (fun x => !keys.contains x.g.key)
      msgs := s.coh.msgs.filter (fun m => !keys.contains m.granule.key)
      copies := s.coh.copies.filter (fun c => !keys.contains c.2.1.key)
      hca := s.coh.hca.filter (fun h => !keys.contains h.key) } }

/-- Ends a context (R349): launches, queued records, plans, lines under its keys, LIVE; with the generations of its plans'
places and its account (R6, R226). -/
def State.endTenant (s : State) (t : Nat) : State :=
  let s := (s.launches.filter (fun l => l.tenant == t)).foldl (fun s l => s.endLaunch l 1) s
  let s := s.modTen t (fun x => { x with queue := [] })
  let s := (s.plans.filter (fun p => p.tenant == t)).foldl (fun s p => s.freePlan p) s
  let s := s.retireKeys (s.ten t).keyList
  let s := { s with
    planGens := s.planGens.filter (fun p => p.1.1 != t)
    tlb := s.tlb.filter (fun (e : TlbEnt) => e.tenant != t)
    walks := s.walks.filter (fun (w : WalkPtr) => w.tenant != t)
    saves := s.saves.filter (fun (r : SaveRec) => r.tenant != t) }
  s.modTen t (fun x => { x with live := false, preempt := false, spent := 0, capped := false })

/-- Whether a feature bit counts as accepted (R455). -/
def Device.accepted (d : Device) (n : Nat) : Bool := d.featLock && (d.featAcc.getD 0 0).getLsbD n

/-- A write of STATE (R348, R349); REPLAY is written as 0 while its feature is not accepted (R455). LIVE is set where the checks pass, with UCOUNT counting from
there (R373) and TVEC as TVECT has it (R370), and a write that would clear it leaves it. -/
def State.writeState (s : State) (t : Nat) (v : Word) : State :=
  let s := s.modTen t (fun x => { x with replay := v.getLsbD 1 && s.dev.accepted 5, entrap := v.getLsbD 2 })
  let x := s.ten t
  if v.getLsbD 3 && x.live then s.endTenant t
  else if v.getLsbD 0 && !x.live && s.liveOk t then s.modTen t (fun x => { x with live := true, ucount := 0, tvec := x.tvect })
  else s

/-- TENANT_SET_LIVE, R349: a write of STATE. -/
def execEvTenantSetLive (t : Nat) (v : Word) (s : State) : Res := onlyIf (decide (t ≤ 16)) s (s.writeState t v)

/-- TENANT_END, R349. -/
def execEvTenantEnd (t : Nat) (s : State) : Res := onlyIf (s.ten t).live s (s.endTenant t)

def State.writePartaddr (s : State) (t : Nat) (v : Word) : State :=
  s.modTen t (fun x => { x with partaddr := v, part := s.keyBytes v.toNat 0 256 })

/-- PARTADDR_WRITE, R349: the array is read at once. -/
def execEvPartaddrWrite (t : Nat) (v : Word) (s : State) : Res := .next (s.writePartaddr t v)

/-- The live tenants' shares added up (R362). -/
def State.shareSum (s : State) : Nat := sumN ((s.tenants.filter (fun t => t.live)).map (fun t => t.share))

/-- A write ignored for passing the cap (R362). -/
def State.overCap (s : State) : State := s.modDev (fun d => { d with pfStatus := true })

/-- A write of SHARE (R362); the narrowed cap of an overrun that it ends stays until the boundary (R366). -/
def State.writeShare (s : State) (t : Nat) (v : Word) : State :=
  let s' := s.modTen t (fun x => { x with share := v.toNat, capped := x.capped || (x.live && x.overrun) })
  if s'.dev.capuj < s'.shareSum then s.overCap else s'

/-- SHARE_WRITE, R362. -/
def execEvShareWrite (t : Nat) (v : Word) (s : State) : Res := .next (s.writeShare t v)

def State.writeCapuj (s : State) (v : Word) : State :=
  if v.toNat < s.shareSum then s.overCap else s.modDev (fun d => { d with capuj := v.toNat })

/-- CAPUJ_WRITE, R362. -/
def execEvCapujWrite (v : Word) (s : State) : Res := .next (s.writeCapuj v)

def State.writeTvect (s : State) (t : Nat) (v : Word) : State :=
  s.modTen t (fun x => { x with tvec := v &&& 0xFFFFFFFFFFFFFFFC, tvect := v &&& 0xFFFFFFFFFFFFFFFC })

/-- TVECT_WRITE, R370. -/
def execEvTvectWrite (t : Nat) (v : Word) (s : State) : Res := .next (s.writeTvect t v)

/-- A request of the PF on a flow (R375): Running or Waiting flows of the tenants named. -/
def Flow.request (v : Word) (f : Flow) : Flow :=
  match f.status with
  | .running => if v.getLsbD f.tenant then f.ask 0 else f
  | .waiting _ => if v.getLsbD f.tenant then f.ask 0 else f
  | _ => f

/-- A write of PREEMPT: bits 16:0. A bit stays set while a request of its tenant is unserved. -/
def State.writePreempt (s : State) (v : Word) : State :=
  let v := v &&& 0x1FFFF
  let s := { s with me := s.me.request v, rest := s.rest.map (Flow.request v) }
  { s with
    tenants := s.tenants.zipIdx.map (fun (p : Tenant × Nat) =>
      if v.getLsbD p.2 && s.flows.any (fun f => f.tenant == p.2 && f.asked.contains 0) then { p.1 with preempt := true } else p.1) }

/-- PREEMPT_WRITE, R375. -/
def execEvPreemptWrite (v : Word) (s : State) : Res := .next (s.writePreempt v)

/-! ### Shootdowns (R400 to R402) -/

/-- The command at the head of a tenant's queue starts (R401, steps 1 and 2): TLB and walk cache entries of its range go,
and from now on a lookup there walks afresh (`State.shooting`). -/
def State.startShoot (s : State) (t : Nat) : State :=
  match (s.ten t).sdq with
  | [] => s
  | c :: rest =>
    { s.modTen t (fun x => { x with sdq := { c with started := true } :: rest }) with
      tlb := s.tlb.filter (fun (e : TlbEnt) => !(e.tenant == t && c.covers e.vbase e.size))
      walks := s.walks.filter (fun (w : WalkPtr) => !(w.tenant == t && c.covers w.vbase (2 ^ (21 + 9 * w.level)))) }

/-- SHOOTDOWN_COMMAND, R400: accepted by the port of tenant t; one that stands first starts. -/
def execEvShootdownCommand (t : Nat) (bytes : List Byte) (s : State) : Res :=
  let va := recNat bytes 0 8
  if !s.dev.served t then .next s
  else if bytes.length ≠ 32 ∨ va % 4096 ≠ 0 ∨ recNat bytes 12 4 / 16 ≠ 0 ∨ recNat bytes 24 8 ≠ 0 then
    .next ((s.modTen t (fun x => { x with sdBad := true })).irq t 0)
  else if 16 ≤ (s.ten t).sdq.length then .next ((s.modTen t (fun x => { x with sdOvf := true })).irq t 0)
  else
    let s := s.modTen t (fun x => { x with
      sdq := x.sdq ++ [⟨va, recNat bytes 8 4, recNat bytes 12 4 % 16, w64 (recNat bytes 16 8), false⟩] })
    .next (if (s.ten t).sdq.length = 1 then s.startShoot t else s)

/-- Whether a command covers an access made under an old translation. -/
def Shoot.holds (c : Shoot) (a : Access) : Bool := c.covers (a.va % 2 ^ 64) (max a.size 1)

/-- Whether a flow has accesses of the range in its core, those of an open strip and of a replay log among them (R402). -/
def Flow.shotHeld (f : Flow) (c : Shoot) : Bool := (f.sb ++ f.cq ++ f.held).any c.holds

/-- Whether the Sluice moves a chunk of the range for a flow (R293, R327). -/
def Flow.shotLane (f : Flow) (c : Shoot) : Bool :=
  match f.tt with
  | none => false
  | some b => b.ents.any (fun e => match e.lane with | some l => c.covers (e.va.toNat + l.lo) (l.hi - l.lo) | none => false)

/-- Whether a copy holds a translation of the range: a chunk in a lane (R293), a table's lock, or what a SCOW has checked
(R299). -/
def State.shotCopy (s : State) (j : Job) (c : Shoot) : Bool :=
  match j.copy? with
  | none => false
  | some k =>
    k.chunks.any (fun x => !s.chunkEnded j.id x && ((x.src.isSome && c.covers x.sva x.len) || c.covers x.dva x.len)) ||
      (k.lock.isSome && (match k.desc with | some d => c.covers (lockVa d) 8 | none => false)) ||
      k.held.any (fun p => c.covers p.1 4096)

/-- Whether an access on its way is one of the context's in the range. -/
def State.shotFlight (s : State) (t : Nat) (c : Shoot) (fl : Flight) : Bool :=
  c.holds fl.acc &&
    (match fl.origin with
     | .flow k _ => (match s.flow? k with | some f => f.tenant == t | none => false)
     | .job id => (match s.job? id with | some j => j.tenant == t | none => false)
     | _ => false)

/-- Whether an access translated under an old translation of the range is not complete (R401, R402). -/
def State.shotOut (s : State) (t : Nat) (c : Shoot) : Bool :=
  s.flows.any (fun f => f.tenant == t && (f.shotHeld c || f.shotLane c)) || s.net.any (s.shotFlight t c) ||
    s.jobs.any (fun j => j.tenant == t && s.shotCopy j c)

/-- Whether a tenant's first command can complete. -/
def State.shootDue (s : State) (t : Nat) : Bool :=
  match (s.ten t).sdq with
  | [] => false
  | c :: _ => !s.shotOut t c

/-- The plan watches of the range are removed, and their plans are Watch-lost (R402). -/
def State.shootWatches (s : State) (t : Nat) (c : Shoot) : State := s.loseWatches (fun w => w.tenant == t && c.covers w.va 8)

/-- The parts of a record that meet the range go home under the translations they were fetched under (R327); no D bit is
set in an entry that has changed since (log 104). -/
def State.shootHome (s : State) (f : Flow) (c : Shoot) (b : Binding) (r : TtRec) : State :=
  let cuts := allCuts r.va.toNat (s.localPa b.ctx r.tier r.doff) r.len
  r.home.foldl (fun (s : State) (p : Nat × Xl) =>
    let n := aget cuts p.1 0
    if c.covers (r.va.toNat + p.1) n then
      (match s.ttChunk f b.ctx r.tier (r.doff + p.1) { p.2 with dClear := false } n false with
       | .ok t => t
       | .error _ => s)
    else s) s

/-- The tier engine's records whose home side meets the range are released, their entries Evicted (R327, R402). -/
def State.shootRecs (s : State) (f : Flow) (c : Shoot) : State :=
  match f.tt with
  | none => s
  | some b =>
    (b.recs.filter (fun r => c.covers r.va.toNat r.len)).foldl
      (fun s r => (s.shootHome f c b r).modTt f.key (fun b => b.dropRec r 7)) s

/-- SHOOTDOWN_COMPLETE, R401, R402: the head of a tenant's queue, once every access made under the old translation is
complete. The Sluice and the watches act under it, and SDDONE follows as a release at sys. -/
def execEvShootdownComplete (t : Nat) (s : State) : Res :=
  match (s.ten t).sdq with
  | [] => .next s
  | c :: rest =>
    if s.shotOut t c then .next s
    else
      let s := (s.flows.filter (fun f => f.tenant == t)).foldl (fun s f => s.shootRecs f c) s
      let s := (s.shootWatches t c).flushNet.writeBack (fun _ => true)
      let s := s.modTen t (fun x => { x with sdq := rest, sddone := c.seq })
      .next ((if c.vec = 0 then s else s.irq t c.vec).startShoot t)

end Sys2Proof.Machine
end

