-- ==== Sys2Proof/Machine/EvCoh.lean ====
section
/-! DEFINITION. The events of the directory between dies (R410 to R415): requests reach their homes, messages arrive. They decide
timing and link traffic alone (R407). -/

namespace Sys2Proof.Machine

/-- RDS, R413. -/
def execEvRds (die : Nat) (g : Granule) (s : State) : Res := .next (s.dirRequest die g (fun s => s.serveRds die g))

/-- RDX, R413. -/
def execEvRdx (die : Nat) (g : Granule) (s : State) : Res := .next (s.dirRequest die g (fun s => s.serveRdx die g false))

/-- UPG, R413. -/
def execEvUpg (die : Nat) (g : Granule) (s : State) : Res := .next (s.dirRequest die g (fun s => s.serveRdx die g true))

/-- Message k arrives, where it is one that p knows. -/
def State.takeMsg (s : State) (k : Nat) (p : CMsg → Bool) : State :=
  match s.coh.msgs[k]? with
  | none => s
  | some m => if p m then m.arrive (s.cutMsg k) else s

/-- FWD, R412. -/
def execEvFwd (k : Nat) (s : State) : Res := .next (s.takeMsg k (fun m => match m with | .fwd .. => true | _ => false))

/-- INV, R412. -/
def execEvInv (k : Nat) (s : State) : Res := .next (s.takeMsg k (fun m => match m with | .inv .. => true | _ => false))

/-- BINV, R415. -/
def execEvBinv (k : Nat) (s : State) : Res := .next (s.takeMsg k (fun m => match m with | .binv .. => true | _ => false))

/-- DATA, R412. -/
def execEvData (k : Nat) (s : State) : Res := .next (s.takeMsg k (fun m => match m with | .data .. => true | _ => false))

/-- WB, R412, R414: the owner evicts its copy; where the directory still names it, the home is current again. -/
def execEvWb (die : Nat) (g : Granule) (s : State) : Res :=
  match s.copyOf die g with
  | none => .next s
  | some _ => .next ((s.dropCopy die g).takeWb die g)

/-- ACK, R412 to R414. -/
def execEvAck (k : Nat) (s : State) : Res := .next (s.takeMsg k (fun m => match m with | .ack .. => true | _ => false))

/-- DONE, R412, R414. -/
def execEvDone (k : Nat) (s : State) : Res := .next (s.takeMsg k (fun m => match m with | .done .. => true | _ => false))

end Sys2Proof.Machine
end

