-- ==== Sys2Proof/Machine/Hash.lean ====
section
/-! DEFINITION. SHA3-512, which R453, R458 and R459 name: FIPS 202's function (log 13), on lists of bytes. -/

namespace Sys2Proof.Machine

/-- Rotations of the lanes, lane (x, y) at x + 5y. -/
def keccakRot : List Nat :=
  [0, 1, 62, 28, 27, 36, 44, 6, 55, 20, 3, 10, 43, 25, 39, 41, 45, 15, 21, 8, 18, 2, 61, 56, 14]

/-- Round constants. -/
def keccakRc : List Word :=
  [0x1, 0x8082, 0x800000000000808A, 0x8000000080008000, 0x808B, 0x80000001, 0x8000000080008081,
   0x8000000000008009, 0x8A, 0x88, 0x80008009, 0x8000000A] ++
  [0x8000808B, 0x800000000000008B, 0x8000000000008089, 0x8000000000008003, 0x8000000000008002,
   0x8000000000000080, 0x800A, 0x800000008000000A, 0x8000000080008081, 0x8000000000008080, 0x80000001,
   0x8000000080008008]

/-- One round. -/
def keccakRound (a : List Word) (rc : Word) : List Word :=
  let at_ (l : List Word) (x y : Nat) : Word := l.getD (x % 5 + 5 * (y % 5)) 0
  let c := (List.range 5).map (fun x => at_ a x 0 ^^^ at_ a x 1 ^^^ at_ a x 2 ^^^ at_ a x 3 ^^^ at_ a x 4)
  let d := (List.range 5).map (fun x => c.getD ((x + 4) % 5) 0 ^^^ (c.getD ((x + 1) % 5) 0).rotateLeft 1)
  let t := (List.range 25).map (fun i => (a.getD i 0 ^^^ d.getD (i % 5) 0).rotateLeft (nth0 keccakRot i))
  let b := (List.range 25).map (fun i => at_ t (i % 5 + 3 * (i / 5)) (i % 5))
  (List.range 25).map (fun i =>
    let x := i % 5
    let y := i / 5
    let v := at_ b x y ^^^ (~~~(at_ b (x + 1) y) &&& at_ b (x + 2) y)
    if i = 0 then v ^^^ rc else v)

def keccakF (a : List Word) : List Word := keccakRc.foldl keccakRound a

/-- Absorbs n blocks of 72 bytes. -/
def absorb : Nat → List Word → List Byte → List Word
  | 0, a, _ => a
  | n + 1, a, bs =>
    let a := (List.range 25).map (fun i =>
      if i < 9 then a.getD i 0 ^^^ BitVec.ofNat 64 (natLE ((bs.drop (8 * i)).take 8)) else a.getD i 0)
    absorb n (keccakF a) (bs.drop 72)

/-- SHA3-512, byte 0 of the digest lowest. -/
def sha3 (bs : List Byte) : BitVec 512 :=
  let n := bs.length / 72 + 1
  let pad := 72 * n - bs.length
  let tail : List Byte := if pad = 1 then [0x86] else 6 :: List.replicate (pad - 2) 0 ++ [0x80]
  let a := absorb n (List.replicate 25 0) (bs ++ tail)
  BitVec.ofNat 512 (packCodes 64 ((a.take 8).map (·.toNat)))

/-- The extension of a measurement (R459). -/
def extend (m : BitVec 512) (d : List Byte) : BitVec 512 := sha3 (bytesLE 64 m.toNat ++ d)

end Sys2Proof.Machine
end

