-- ==== Sys2Proof/Machine/EvHost.lean ====
section
/-! DEFINITION. What the host and the peers do to the device: the host link (R430, R431), host-managed memory, bias
and back-invalidation (R419 to R422), snoops of the HCA (R423), the features (R455, R456), the domain (R437) and its
requests (R438), and the Vexcon ports (R435). -/

namespace Sys2Proof.Machine

/-- n bits of a word at lo, in their place. -/
def keepBits (v : Word) (lo n : Nat) : Word := w64 (wbits v lo n <<< lo)

/-! ### The host link -/

/-- Without CXL the HCA caches no host line, and plans over host indices lose their watches (R431). -/
def State.hostUncached (s : State) : State :=
  (s.modCoh (fun c => { c with hca := [] })).loseWatches (fun w => match regionOf w.addr with | .host _ => true | _ => false)

/-- HOST_LINK_TRAINING, R430, R431: width in lanes and rate in GT/s (2 for 2.5), at most 64 with CXL. Without CXL
HDMCTL.EN stays 0, and host memory holds no watch. The boot releases the link at its step 6, or where it stops (R453). -/
def execEvHostLinkTraining (width rate : Nat) (cxl : Bool) (s : State) : Res :=
  onlyIf ((s.dev.bootStage == 6 || s.dev.bootResult != 0) && [16, 8, 4, 2, 1].contains width && [128, 64, 32, 16, 8, 5, 2].contains rate && (!cxl || decide (rate ≤ 64))) s
    ((if cxl then s else s.hostUncached).modDev (fun d => { d with
      hostUp := true
      hostWidth := width
      hostRate := rate
      hostCxl := cxl
      hdmEn := d.hdmEn && cxl }))

/-- HOST_LINK_DOWN, R442. -/
def execEvHostLinkDown (s : State) : Res := .next (s.modDev (fun d => { d with hostUp := false }))

/-! ### Features and measurements (R455, R456, R459) -/

/-- Extends measurement n, from 1. -/
def State.measure (s : State) (n : Nat) (d : List Byte) : State :=
  s.modDev (fun x => { x with meas := x.meas.modify (n - 1) (fun m => extend m d) })

/-- A write of FEATACC n (R455). -/
def State.writeFeatacc (s : State) (n : Nat) (v : Word) : State :=
  if s.dev.featLock then s
  else s.modDev (fun d => { d with
    featAcc := d.featAcc.set n ((v &&& d.featOff.getD n 0) ||| (if n = 0 then 1 else 0)) })

/-- FEATACC_WRITE, R455. -/
def execEvFeataccWrite (n : BitVec 2) (v : Word) (s : State) : Res := .next (s.writeFeatacc n.toNat v)

/-- Setting LOCK: the acceptance is fixed and measured. -/
def State.lockFeatures (s : State) : State :=
  if s.dev.featLock then s
  else (s.modDev (fun d => { d with featLock := true })).measure 4 ((s.dev.featAcc.map (fun w => bytesLE 8 w.toNat)).flatten)

/-- FEATCTL_LOCK, R456. -/
def execEvFeatctlLock (s : State) : Res := .next s.lockFeatures

/-- The extension of measurement 5, at each EN set. -/
def State.measureEn (s : State) : State := s.measure 5 (bytesLE 8 s.dev.domDev.toNat ++ bytesLE 8 s.dev.hdmBase.toNat)

/-! ### HDM and bias (R420 to R422) -/

/-- A write of HDMCTL (R420, R431, R455, R459): SIZE while EN = 0; the reserved bits; setting EN puts every page into host bias. -/
def State.writeHdmctl (s : State) (v : Word) : State :=
  let s := s.modDev (fun d => { d with hdmSize := if d.hdmEn then d.hdmSize else wbits v 0 10, hdmRsvd := BitVec.ofNat 53 (wbits v 10 53) })
  if !s.dev.accepted 6 || !s.dev.hostCxl then s
  else if !v.getLsbD 63 then s.modDev (fun d => { d with hdmEn := false })
  else if s.dev.hdmEn then s
  else
    ((s.modDev (fun d => { d with hdmEn := true })).devWrite s.dev.biasBase.toNat 0
      (List.replicate (32768 * s.dev.hdmSize) 0xFF)).measureEn

/-- HDMCTL_ENABLE, R420. -/
def execEvHdmctlEnable (v : Word) (s : State) : Res := .next (s.writeHdmctl v)

/-- The flip at the head of the queue starts: to device bias, a BISnpInv goes out for every held line (R422). -/
def State.startFlip (s : State) : State :=
  match s.coh.flips with
  | [] => s
  | c :: rest =>
    if c.started then s
    else
      let ls := if c.toHost then [] else ((List.range 64).map (fun i => c.page + 64 * i)).filter (fun l => s.held l)
      s.modCoh (fun h => { h with flips := { c with started := true, waiting := ls } :: rest })

/-- A page of which a flip has started (R422): its host requests wait. -/
def State.flipping (s : State) (pa : Nat) : Bool :=
  match s.coh.flips with
  | [] => false
  | c :: _ => c.started && c.page / 4096 == pa / 4096

/-- A malformed BIASCMD. -/
def State.badBias (s : State) : State := (s.modDev (fun d => { d with biasBad := true })).irq 0 0

/-- BIASCMD, R420: 16 bytes, PAGE and TARGET, then SEQ. -/
def execEvBiascmd (bytes : List Byte) (s : State) : Res :=
  let p := recNat bytes 0 8
  let page := bits p 12 40 * 4096
  if bytes.length ≠ 16 ∨ p ≠ page + p % 2 ∨ !s.dev.inHdm page then .next s.badBias
  else if 16 ≤ s.coh.flips.length then .next ((s.modDev (fun d => { d with biasOvf := true })).irq 0 0)
  else
    .next ((s.modCoh (fun h => { h with
      flips := h.flips ++ [⟨page, bit p 0, w64 (recNat bytes 8 8), false, []⟩] })).startFlip)

/-- BIAS_FLIP_COMPLETE, R422: every BIRsp of the flip under way is there; the table bit is written and BIASDONE
follows. -/
def execEvBiasFlipComplete (s : State) : Res :=
  match s.coh.flips with
  | [] => .next s
  | c :: rest =>
    if c.started && c.waiting.isEmpty then
      let b := s.dev.biasBit c.page
      let old := (s.mem.get b.1).toNat
      let new := if c.toHost then old ||| 2 ^ b.2 else old - (b2n (bit old b.2)) <<< b.2
      let s := s.setByte b.1 0 (BitVec.ofNat 8 new)
      .next (((s.modCoh (fun h => { h with flips := rest })).modDev (fun d => { d with biasDone := c.seq })).startFlip)
    else .next s

/-- Whether a host request for HDM is served now: the range is enabled and its page is not flipping. -/
def State.hostServed (s : State) (pa : Nat) : Bool := s.dev.hostUp && s.dev.inHdm pa && !s.flipping pa

/-- The first word of a host line in which a read meets an uncorrectable error. -/
def State.lineBad (s : State) (l : Nat) : Option Nat :=
  ((List.range 8).map (fun i => l + 8 * i)).find? (fun w => (s.dataBad w).isSome)

/-- A host read of a line that meets an uncorrectable error is logged and reported (R444). -/
def State.hostReadErr (s : State) (l : Nat) : State :=
  match s.lineBad l with
  | some a => (s.logErr 3 0 0 0 (homeDie a) a 0).modDev (fun d => { d with ras := d.ras ++ [a] })
  | none => s

/-- The host is granted a line: the bits cover 1,048,576 lines, and one more waits until the oldest has been given up (R421). -/
def Coherence.grant (c : Coherence) (l : Nat) : Coherence :=
  if c.holders.contains l then c
  else
    match c.holders with
    | o :: _ => if 1048576 ≤ c.holders.length then { c with need := (o, true) :: c.need } else { c with holders := c.holders ++ [l] }
    | [] => { c with holders := [l] }

/-- MEMRD, R421: a home-side read, of both 32-byte granules where the page has that grain; in host bias the host keeps a
copy. -/
def execEvMemrd (pa : Nat) (s : State) : Res :=
  let l := pa / 64 * 64
  if s.hostServed l then
    let s := ((s.flushNet.dirRead l 0).dirRead (l + 32) 0).hostReadErr l
    .next (if s.hostBias l then s.modCoh (fun c => c.grant l) else s)
  else .next s

/-- A line written for the host at its home, word by word. One that would write a part of a lost granule writes nothing and is
logged (R427, R444). -/
def State.putLine (s : State) (l : Nat) (data : BitVec 512) : State :=
  match s.lostByte ((List.range 64).map (fun i => l + i)) with
  | some i => s.logErr 3 0 0 0 (homeDie l) (l + i) 0
  | none =>
    (List.range 8).foldl (fun s i => s.writeStore (l + 8 * i) (bits data.toNat (64 * i) 64) (2 ^ 64 - 1) 0 none none)
      ((s.dirStore l 0).dirStore (l + 32) 0)

/-- MEMWR, R421: a home-side store. A write of a line that the host holds is its eviction (log 66). -/
def execEvMemwr (pa : Nat) (data : BitVec 512) (s : State) : Res :=
  let l := pa / 64 * 64
  onlyIf (s.hostServed l) s ((s.putLine l data).modCoh (fun c => { c with holders := c.holders.filter (· != l) }))

/-- MEMINV, R421: the host gives its copy up. -/
def execEvMeminv (pa : Nat) (s : State) : Res :=
  let l := pa / 64 * 64
  onlyIf (s.hostServed l) s (s.modCoh (fun c => { c with holders := c.holders.filter (· != l) }))

/-- Whether a snoop of a line is unanswered, of the flip under way or before an access; a BISnpInv, in the second. -/
def State.snooped (s : State) (l : Nat) : Bool := s.flipWaits l || s.coh.snoops.any (fun p => p.line == l && p.st == 0)
def State.snoopedInv (s : State) (l : Nat) : Bool := s.flipWaits l || s.coh.snoops.any (fun p => p.line == l && p.st == 0 && p.inv)

/-- The host's answer to the snoop of a line: after a BISnpInv it holds the line no more, and a flip waits for it no longer; one to a
BISnpData stands for the access that asked. -/
def State.birsp (s : State) (l : Nat) : State :=
  let inv := s.snoopedInv l
  s.modCoh (fun c => { c with
    flips := (match c.flips with | f :: rest => { f with waiting := f.waiting.filter (· != l) } :: rest | [] => [])
    holders := if inv then c.holders.filter (· != l) else c.holders
    sent := if inv && c.allHeld then l :: c.sent else c.sent
    snoops := if inv then c.snoops.filter (fun p => p.line != l) else c.snoops.map (fun p => if p.line = l ∧ p.st = 0 then { p with st := 1 } else p)
    acks := c.acks.filter (· != l) })

/-- BIRSP, R421, R422: dirty data of the line APPLYs at its home. One that answers no snoop is ignored. -/
def execEvBirsp (pa : Nat) (data : Option (BitVec 512)) (s : State) : Res :=
  let l := pa / 64 * 64
  onlyIf (s.snooped l) s ((match data with | some d => s.putLine l d | none => s).birsp l)

/-- BICONFLICT, R422: the host has seen a BISnpInv before the response it waits for. The HCA replies BIConflictAck, and the
line still waits for its BIRsp. -/
def execEvBiconflict (pa : Nat) (s : State) : Res :=
  let l := pa / 64 * 64
  onlyIf (s.snoopedInv l && !s.coh.acks.contains l) s (s.modCoh (fun c => { c with acks := c.acks ++ [l] }))

/-! ### Snoops of the HCA (R423) -/

/-- The line of a host bus address. -/
def hostLine (a : Nat) : Nat := 0x8000000000000 + a / 64 * 64

/-- Whether the HCA holds a host line. -/
def State.hcaHolds (s : State) (l : Nat) : Bool := s.coh.hca.any (fun h => h.addr == l && h.st != .i)

/-- The data of a line that the HCA holds is returned to a host snoop, and an error in it is logged (R444). -/
def State.snpData (s : State) (a : Nat) : State := if s.hcaHolds (hostLine a) then s.hostReadErr (hostLine a) else s

/-- SNPDATA, R423: leaves S; dirty data goes to the host. -/
def execEvSnpdata (a : Nat) (s : State) : Res :=
  onlyIf s.dev.hostCxl s ((s.snpData a).modCoh (fun c => { c with
    hca := c.hca.map (fun h => if h.addr = hostLine a ∧ h.st ≠ .i then { h with st := .s } else h) }))

/-- SNPINV, R423, R232: the line goes under every key, and plans that watch it go stale. -/
def execEvSnpinv (a : Nat) (s : State) : Res :=
  if s.dev.hostCxl then
    let s := (s.snpData a).modCoh (fun c => { c with hca := c.hca.filter (fun h => h.addr != hostLine a) })
    .next ((List.range 8).foldl (fun s i => s.markWatched (hostLine a + 8 * i)) s)
  else .next s

/-- SNPCUR, R423: data is returned; an error in it is logged (R444). -/
def execEvSnpcur (a : Nat) (s : State) : Res := onlyIf s.dev.hostCxl s (s.snpData a)

/-! ### The domain (R435 to R440) -/

/-- A write of DOMCTL (R437, R455, R459): DEV while no tenant is live; the reserved bits; EN. -/
def State.writeDomctl (s : State) (v : Word) : State :=
  let s := s.modDev (fun d => { d with
    domDev := if s.tenants.any (fun t => t.live) then d.domDev else BitVec.ofNat 10 v.toNat
    domRsvd := BitVec.ofNat 53 (wbits v 10 53) })
  if !s.dev.accepted 7 then s
  else if !v.getLsbD 63 then s.modDev (fun d => { d with domEn := false })
  else if s.dev.domEn then s
  else (s.modDev (fun d => { d with domEn := true })).measureEn

/-- DOMCTL_ENABLE, R437. -/
def execEvDomctlEnable (v : Word) (s : State) : Res := .next (s.writeDomctl v)

/-- Changes a port. -/
def State.modPort (s : State) (i : Nat) (g : VexPort → VexPort) : State :=
  s.modDev (fun d => { d with ports := d.ports.modify i g })

/-- A flit as a port takes it (R435): in order and once; a CRC that fails asks for a replay, and after eight replays that
fail too the port is down. -/
def VexPort.receive (p : VexPort) (f : Flit) : VexPort :=
  if !p.up then p
  else if !f.crcOk then { p with fails := p.fails + 1, up := decide (p.fails < 8) }
  else if f.seq = p.nextSeq then { p with nextSeq := (p.nextSeq + 1) % 4096, lastAck := f.seq, fails := 0 }
  else p

/-- VEXCON_FLIT_RECEIVE, R435. -/
def execEvVexconFlitReceive (port : Nat) (flit : Flit) (s : State) : Res := .next (s.modPort port (fun p => p.receive flit))

/-- VEXCON_PORT_DOWN, R435. -/
def execEvVexconPortDown (port : Nat) (s : State) : Res := .next (s.modPort port (fun p => { p with up := false }))

/-- The tenant that serves a peer's request (R438): live, of the tag, its window holding the bytes. -/
def State.peerTenant (s : State) (q : PeerReq) : Option Nat :=
  if q.tag = 0 then none
  else
    (s.tenants.zipIdx.find? (fun p => p.1.live && p.1.dtag.toNat == q.tag &&
      decide (p.1.wbase.toNat ≤ q.off ∧ q.off + q.size ≤ p.1.wlimit.toNat))).map (·.2)

/-- The AMO of a code, in the order of R107. -/
def amoOf : Nat → AmoOp
  | 0 => amoSwap
  | 1 => amoAdd
  | 2 => amoAnd
  | 3 => amoOr
  | 4 => amoMax
  | 5 => amoMin
  | _ => amoCas

/-- A store or AMO of a peer at its home, under a key (R438, R440). -/
def State.servePeer (s : State) (u : Nat) (key : Nat) (q : PeerReq) : State :=
  let x : Xl := ⟨q.off, key, 0, 0, 0, false, false⟩
  match q.op with
  | .load => ((List.range ((q.off % 8 + q.size + 7) / 8)).foldl (fun s i => s.pointRead none (q.off / 8 * 8 + 8 * i) key) s)
  | .store bs =>
    let xs := (List.range (min q.size bs.length)).map (fun i => ({ x with pa := q.off + i } : Xl))
    (s.me.bitStores 0 0 0 (8 * xs.length) (natLE (bs.take xs.length)) xs).foldl
      (fun s a => s.applyStore a.addr a.data.toNat a.en.toNat key none) s
  | .amo op y e =>
    if (q.size = 4 ∨ q.size = 8) ∧ q.off % q.size = 0 then
      (s.flushNet.amoApply none x q.size (fun o => amoOf op (8 * q.size) o (y.toNat % 2 ^ (8 * q.size)) (e.toNat % 2 ^ (8 * q.size)))).1
    else s
  | .row hdr dst data =>
    { s with rows := s.rows ++ [⟨s.nextId, ⟨0, 4096⟩, u, hdr, dst, data, .sent⟩], nextId := s.nextId + 1 }

/-- PEER_REQUEST, R438: served for a tenant, under the key in byte 0 of its KEYS, or refused. -/
def execEvPeerRequest (q : PeerReq) (s : State) : Res :=
  if !s.dev.domEn then .next s
  else
    match s.peerTenant q with
    | none => .next s
    | some u =>
      match s.dataBad q.off with
      | some _ => .next (match q.op with
          | .store _ => s.servePeer u ((s.ten u).keys.toNat % 256) q
          | .row .. => s.servePeer u ((s.ten u).keys.toNat % 256) q
          | _ => s)
      | none => .next (s.servePeer u ((s.ten u).keys.toNat % 256) q)

end Sys2Proof.Machine
end

