-- ==== Sys2Proof/Machine/EvReset.lean ====
section
/-! DEFINITION. Power and boot (R6, R453 to R455), the resets (R426, R452) and attestation (R458, R459). What the
hardware finds as it comes up (HBM that trains, dies that answer) is a free value (log 37). -/

namespace Sys2Proof.Machine

/-! ### Boot (R453) -/

/-- What lies outside the module: host memory and peers. -/
def outside (a : Nat) : Bool :=
  match regionOf a with
  | .host _ => true
  | .peer .. => true
  | _ => false

def inHbm (a : Nat) : Bool :=
  match regionOf a with
  | .hbm => true
  | _ => false

/-- The device as power finds it: fuses, the flash and what it is connected to remain (R6, R451, R452). -/
def Device.cold (d : Device) : Device :=
  { Device.init with
    power := false
    fwver := w64 (d.fusedSvn <<< 32)
    peers := d.peers
    fusedSvn := d.fusedSvn
    fusedKey := d.fusedKey
    fusedRetcl := d.fusedRetcl
    fusedRetlg := d.fusedRetlg
    hardRepairs := d.hardRepairs
    softStored := d.softStored
    romDigest := d.romDigest
    flashA := d.flashA
    flashB := d.flashB }

/-- The machine with all volatile state lost. -/
def State.cold (s : State) : State :=
  { State.reset with
    sched := s.sched
    dev := s.dev.cold
    mem := s.mem.filter (fun (c : Host.Cell) => outside c.1)
    memKey := s.memKey.filter (fun (c : Host.Cell) => outside c.1)
    nextId := s.nextId
    freeCtr := s.freeCtr }

/-- POWER_OFF, R6. -/
def execEvPowerOff (s : State) : Res := .next s.cold

/-- Whether the ROM takes an image: its key is the fused one, its signature holds over its digest, and its security
version is not below the fused one. -/
def Device.takes (d : Device) (i : Image) : Bool :=
  sha3 i.key == d.fusedKey && Config.mldsaVerify (sha3 i.body) i.signature i.key && decide (d.fusedSvn ≤ i.svn)

/-- The slot that boots. -/
def Device.slot (d : Device) : Option (Nat × Image) :=
  if d.takes d.flashA then some (0, d.flashA)
  else if d.takes d.flashB then some (1, d.flashB)
  else none

/-- The boot stops with a RESULT after a stage. -/
def State.bootStop (s : State) (result stage : Nat) : State :=
  s.modDev (fun d => { d with bootResult := result, bootStage := stage })

/-- The measurement of step 3: fused SVN, RETCL, RETLG and hard repairs. -/
def Device.fuseBytes (d : Device) : List Byte :=
  bytesLE 8 d.fusedSvn ++ bytesLE 8 d.fusedRetcl.toNat ++ d.fusedRetlg ++ (d.hardRepairs.map (bytesLE 8)).flatten

/-- Step 3: repairs and retirements. -/
def Device.bringUp (d : Device) : Device :=
  { d with
    spares := d.hardRepairs.map (fun r => (hbmBankOf r, true, r)) ++ d.softStored.map (fun r => (hbmBankOf r, false, r))
    retcl := d.retcl ||| d.fusedRetcl
    retlg := (List.range 256).map (fun i => d.retlg.getD i 0 ||| d.fusedRetlg.getD i 0) }

/-- Steps 3 and 4, the same at power-on and at a Conventional reset: whether HBM trains, whether die 0 answers, and
which other dies do. -/
def State.bringUp (s : State) (first : Bool) : State :=
  let q := s.draw
  let s := q.2
  if q.1.getLsbD 0 then s.bootStop 2 2
  else
    let s := (s.modDev Device.bringUp)
    let s := if first then s.measure 3 s.dev.fuseBytes else s
    if q.1.getLsbD 1 then s.bootStop 3 3
    else (s.modDev (fun d => { d with dieLost := d.dieLost ||| (BitVec.ofNat 4 (8 * wbits q.1 4 1 + 4 * wbits q.1 3 1 + 2 * wbits q.1 2 1)) })).bootStop 0 4

/-- Steps 1 to 6. -/
def State.boot (s : State) : State :=
  match s.dev.slot with
  | none => s.bootStop 1 0
  | some (n, i) =>
    let s := (s.modDev (fun d => { d with bootSlot := n, fwver := w64 (i.svn <<< 32 + i.version % 2 ^ 32) }))
    let s := (s.measure 1 (bytesLE 64 s.dev.romDigest.toNat)).measure 2 (bytesLE 64 (sha3 i.body).toNat)
    let s := s.bringUp true
    if s.dev.bootResult ≠ 0 then s
    else s.modDev (fun d => { d with
      fusedSvn := if i.raises then max d.fusedSvn i.svn else d.fusedSvn
      featOff := [0xFF, 0, 0, 0]
      bootStage := 6 })

/-- POWER_ON, R453: where power is off, or on with the boot not yet run. -/
def execEvPowerOn (s : State) : Res :=
  if s.dev.power && (s.dev.bootStage != 0 || s.dev.bootResult != 0) then .next s
  else .next ((s.cold.modDev (fun d => { d with power := true })).boot)

/-! ### Resets (R452) -/

/-- Registers that a Conventional reset keeps. -/
def Device.warm (d : Device) : Device :=
  { d.cold with
    power := true
    ports := d.ports
    linkDown := d.linkDown
    featOff := d.featOff
    featAcc := d.featAcc
    featLock := d.featLock
    ceCount := d.ceCount
    dieLost := d.dieLost
    salv := d.salv
    retcl := d.retcl
    retlg := d.retlg
    repairs := d.repairs
    repDone := d.repDone
    clock := d.clock
    bootSlot := d.bootSlot
    bootResult := d.bootResult
    bootStage := d.bootStage
    fwver := d.fwver
    meas := d.meas
    ras := d.ras }

/-- Contexts and caches go; HBM keeps what it stores, with the errors in it. -/
def State.warm (s : State) : State :=
  { State.reset with
    sched := s.sched
    dev := s.dev.warm
    mem := s.mem.filter (fun (c : Host.Cell) => outside c.1 || inHbm c.1)
    memKey := s.memKey.filter (fun (c : Host.Cell) => outside c.1 || inHbm c.1)
    bad := s.bad.filter (fun a => outside a || inHbm a)
    nextId := s.nextId
    freeCtr := s.freeCtr }

/-- Errors in cached copies that p selects go home with them, each logged (R444). -/
def State.errsHome (s : State) (p : Nat → Bool) : State := (s.badCache.filter p).foldl State.errHome s

/-- Steps 3, 4 and 6 again, where the module had booted. -/
def State.reboot (s : State) : State :=
  if s.dev.bootStage = 0 then s
  else
    let s := s.bringUp false
    if s.dev.bootResult ≠ 0 then s else s.modDev (fun d => { d with bootStage := 6 })

/-- CONVENTIONAL_RESET, R452: caches are written back; whether what is still in a queue performs first is a free
value (log 38). -/
def execEvConventionalReset (s : State) : Res :=
  let q := s.draw
  let s := if q.1.getLsbD 0 then q.2.flushNet else q.2
  .next (((s.writeBack (fun _ => true)).errsHome inHbm).warm.reboot)

/-- HBM words that a cache may have held dirty: every word the state lists or has registered, each once. -/
def State.maybeDirty (s : State) : List Nat :=
  ((s.mem.filter (fun (c : Host.Cell) => inHbm c.1)).map (fun (c : Host.Cell) => c.1 / 8 * 8) ++
    ((s.reg.map RegEnt.words).flatten).filter inHbm).foldl
    (fun acc a => if acc.contains a then acc else a :: acc) []

/-- The losses of an Abrupt reset (R426): a line that the HCA held modified keeps its older value at the host, and a
dirty word of HBM reads as HBM holds it, which is a free value (log 39). Each line lost is reported once. -/
def State.loseCaches (s : State) : State :=
  let hs := s.coh.hca.filter (fun h => h.st == .m)
  let s := hs.foldl (fun (s : State) h => { s with mem := s.mem.setN h.addr (bytesLE 64 h.old.toNat) }) s
  let s := s.modDev (fun d => { d with ras := d.ras ++ hs.map (·.addr) })
  s.maybeDirty.foldl (fun (s : State) a =>
    let q := s.draw
    if q.1.getLsbD 0 then
      let r := q.2.draw
      let l := a / 64 * 64
      { r.2 with
        mem := r.2.mem.setN a (bytesLE 8 r.1.toNat)
        dev := { r.2.dev with ras := if r.2.dev.ras.drop s.dev.ras.length |>.contains l then r.2.dev.ras else r.2.dev.ras ++ [l] } }
    else q.2) s

/-- The Abrupt reset (R426, R447, R452). -/
def State.abrupt (s : State) : State :=
  let s := s.loseCaches.warm
  (s.modCoh (fun c => { c with allHeld := true, sent := [] })).reboot

/-- ABRUPT_RESET, R452. -/
def execEvAbruptReset (s : State) : Res := .next s.abrupt

/-- Host lines that the HCA holds modified go to the host's memory. -/
def State.hcaClean (s : State) : State := s.modCoh (fun c => { c with hca := c.hca.map (fun h => if h.st = .m then { h with st := .s } else h) })

/-- PF_RESET, R452: every tenant's context ends, and caches are written back. -/
def execEvPfReset (s : State) : Res :=
  .next (((((List.range 17).foldl (fun s t => if (s.ten t).live then s.endTenant t else s) s).flushNet.writeBack (fun _ => true)).errsHome
    (fun _ => true)).hcaClean)

/-- VF_RESET, R432. -/
def execEvVfReset (n : Nat) (s : State) : Res :=
  onlyIf (decide (1 ≤ n ∧ n ≤ 16) && s.dev.served n && (s.ten n).live) s (s.endTenant n)

/-! ### Identity and SPDM (R458, R459) -/

/-- The seeds of the identity and alias keys (R458). -/
def identitySeed : BitVec 512 :=
  sha3 (bytesLE 64 Config.uds.toNat ++ [0x4D, 0x4B, 0x2D, 0x41, 0x58, 0x39, 0x20, 0x49, 0x44])
def Device.aliasSeed (d : Device) : BitVec 512 :=
  sha3 (bytesLE 64 Config.uds.toNat ++ bytesLE 64 (d.meas.getD 1 0).toNat)

/-- A signature by the key of a seed over the SHA3-512 digest of a message (R5). -/
def signed (seed : BitVec 512) (msg : List Byte) : BitVec 512 := Config.mldsaSign seed (bytesLE 64 (sha3 msg).toNat)

/-- The alias key and the identity key's certificate of it. -/
def Device.certificate (d : Device) : List (BitVec 512) :=
  let a := Config.mldsaPublic d.aliasSeed
  [Config.mldsaPublic identitySeed, a, signed identitySeed (bytesLE 64 a.toNat)]

/-- An answer in the mailbox, which the alias key signs. -/
def State.answer (s : State) (req : String) (content : List (BitVec 512)) : State :=
  s.modDev (fun d => { d with
    mailbox := d.mailbox ++
      [⟨req, content, some (signed d.aliasSeed ((content.map (fun x => bytesLE 64 x.toNat)).flatten))⟩] })

/-- An answer other than measurements: after a boot that stopped there is none (R453). -/
def State.answerIf (s : State) (req : String) (content : List (BitVec 512)) : State :=
  if s.dev.bootResult = 0 then s.answer req content else s

/-- An answer with content that the spec does not state (log 12). -/
def State.answerFree (s : State) (req : String) (known : List (BitVec 512)) : State :=
  let q := s.draw
  q.2.answerIf req (known ++ [q.1.setWidth 512])

/-- GET_VERSION: SPDM 1.4. -/
def execEvGetVersion (s : State) : Res := .next (s.answerIf "GET_VERSION" [0x14])
/-- GET_CAPABILITIES. -/
def execEvGetCapabilities (s : State) : Res := .next (s.answerFree "GET_CAPABILITIES" [])
/-- The name of an algorithm, as ASCII. -/
def asciiName (n : List Nat) : BitVec 512 := BitVec.ofNat 512 (natLE (n.map (BitVec.ofNat 8)))

/-- NEGOTIATE_ALGORITHMS: the signatures are ML-DSA-87 and the digests SHA3-512, and nothing else is offered; each stands by its name
(log 126). -/
def execEvNegotiateAlgorithms (s : State) : Res :=
  .next (s.answerIf "NEGOTIATE_ALGORITHMS"
    [asciiName [0x4D, 0x4C, 0x2D, 0x44, 0x53, 0x41, 0x2D, 0x38, 0x37], asciiName [0x53, 0x48, 0x41, 0x33, 0x2D, 0x35, 0x31, 0x32]])
/-- GET_DIGESTS: the SHA3-512 digest of the certificate chain. -/
def execEvGetDigests (s : State) : Res :=
  .next (s.answerIf "GET_DIGESTS" [sha3 ((s.dev.certificate.map (fun x => bytesLE 64 x.toNat)).flatten)])
/-- GET_CERTIFICATE. -/
def execEvGetCertificate (s : State) : Res := .next (s.answerIf "GET_CERTIFICATE" s.dev.certificate)
/-- CHALLENGE: the nonce is signed. -/
def execEvChallenge (nonce : Word) (s : State) : Res := .next (s.answerIf "CHALLENGE" [nonce.setWidth 512])

/-- The measurements a request names: one by its index, or all for 255. -/
def Device.measured (d : Device) (index : Nat) : List (BitVec 512) :=
  if index = 255 then d.meas else if index = 0 then [] else (d.meas.drop (index - 1)).take 1

/-- GET_MEASUREMENTS: the values that stand, with the nonce, under the alias key. -/
def execEvGetMeasurements (index : Nat) (nonce : Word) (s : State) : Res :=
  .next (s.answer "GET_MEASUREMENTS" (s.dev.measured index ++ [nonce.setWidth 512]))

/-- KEY_EXCHANGE: the IDE key follows from both shares and is a free value. -/
def execEvKeyExchange (share : Word) (s : State) : Res :=
  if s.dev.bootResult ≠ 0 then .next s
  else
    let q := s.draw
    .next ((q.2.modDev (fun d => { d with ideKey := some (q.1 ^^^ share) })).answerFree "KEY_EXCHANGE" [share.setWidth 512])

end Sys2Proof.Machine
end

