-- ==== Sys2Proof/Machine/EvFault.lean ====
section
/-! DEFINITION. Errors, the loss of a die, retirement and repair (R427, R442 to R451). -/

namespace Sys2Proof.Machine

/-! ### Errors -/

/-- One corrected error: CECOUNT counts it, and every 4,096th is logged (R442, R445). -/
def State.corrected (s : State) (pa : Nat) : State :=
  let s := s.modDev (fun d => { d with ceCount := d.ceCount + 1 })
  if s.dev.ceCount.toNat % 4096 = 0 then s.logErr 1 0 0 0 (homeDie pa) pa 0 else s

/-- PATROL_SCRUB, R442: an uncorrectable sector is logged; whether another has an error to correct is a free value
(log 37). -/
def execEvPatrolScrub (sector : Nat) (s : State) : Res :=
  let a := sector / 32 * 32
  if !inHbm a then .next s
  else if s.bad.any (fun b => b / 32 == a / 32) then .next (s.logErr 3 0 0 0 (homeDie a) a 0)
  else
    let q := s.draw
    .next (if q.1.getLsbD 0 then q.2.corrected a else q.2)

/-- A flow with an error in a register. -/
def Flow.mark (f : Flow) (r : RegRef) : Flow := if f.bad.contains r then f else { f with bad := r :: f.bad }

/-- Whether an L1 or an L2 can hold a copy of a byte: not of a TCM or a scratchpad. -/
def cacheable (a : Nat) : Bool :=
  match regionOf a with
  | .hbm => true
  | .pool => true
  | .peer .. => true
  | .host _ => true
  | _ => false

/-- A directory entry that fails (R442): once the transactions of its block have closed, the home sends BInv to every other die and
frees the block's entries. -/
def State.dirError (s : State) (die a key : Nat) : State :=
  match s.coh.dir.find? (fun e => e.g.home == die && e.g.key == key && blockOf e.g == a / 512 * 512) with
  | none => s
  | some e =>
    (((s.settleBlock e.g).sendBinv e.g ((List.range 4).filter (fun d => d != die && !s.dev.dieLost.getLsbD d)))).corrected e.g.addr

/-- An entry of a registration table that fails (R442): every core of the die is recalled for its line, and the entry goes. -/
def State.regError (s : State) (k : Nat) : State :=
  match s.reg[k]? with
  | none => s
  | some r =>
    if r.tabled then
      let ws := (List.range 16).map (fun i => r.line + 8 * i)
      let cores := (((s.l1.filter (fun b => b.core / 64 == r.core / 64)).map (fun b => b.core)).eraseDups)
      (cores.foldl (fun (s : State) c => ws.foldl (fun (s : State) w => s.dropWord c w r.key) s)
        { s with reg := s.reg.filter (fun q => !(q.line == r.line && q.key == r.key && q.core / 64 == r.core / 64)) }).corrected r.line
    else s

/-- UNCORRECTABLE_ERROR, R442, R444, and an error of a structure of the first rows of R442 that is corrected (log 125). Register s0
holds nothing that could fail; an entry of a TLB, a walk cache, a plan store or a tag goes, and is fetched again when it is next
needed: of the L2, the model holds the bytes of peers alone, of which the clean ones go. -/
def execEvUncorrectableError (e : ErrTarget) (s : State) : Res :=
  .next (match e with
    | .scalar k r => if r = 0 ∨ 32 ≤ r then s else s.modFlow k (fun f => f.mark (.s r))
    | .vector k r => if 48 ≤ r then s else s.modFlow k (fun f => f.mark (.v r))
    | .mask k r => if 12 ≤ r then s else s.modFlow k (fun f => f.mark (.m r))
    | .slot k r => if 16 ≤ r then s else s.modFlow k (fun f => f.mark (.acc r))
    | .landing k t => if 16 ≤ t then s else s.modFlow k (fun f => f.mark (.land t))
    | .mem a => { s with bad := (badWords a).foldl (fun acc w => if acc.contains w then acc else w :: acc) s.bad }
    | .cache a => if cacheable a && !s.badCache.contains (a / 8 * 8) then { s with badCache := a / 8 * 8 :: s.badCache } else s
    | .tlb k => if k < s.tlb.length then { s with tlb := s.tlb.eraseIdx k }.corrected 0 else s
    | .walk k => if k < s.walks.length then { s with walks := s.walks.eraseIdx k }.corrected 0 else s
    | .store k => if k < s.resident.length then { s with resident := s.resident.eraseIdx k }.corrected 0 else s
    | .tag c a key => if (s.l1Blk? c a key).isSome then (s.dropBlocks (fun b => b.isFor c a key)).corrected a else s
    | .dir d a key => s.dirError d a key
    | .reg k => s.regError k
    | .l2tag a => { s with peerCopies := s.peerCopies.filter (fun p => p.dirty || p.addr / 128 != a / 128) }.corrected a
    | .corrected a => s.corrected a)

/-! ### Die loss (R427, R447 to R449) -/

/-- Whether an access on its way heads for a die: its home, or a scratchpad or TCM there. -/
def toDie (d : Nat) (pa : Nat) : Bool :=
  match regionOf pa with
  | .hbm => homeDie pa == d
  | .pool => homeDie pa == d
  | .tcm c _ => c / 64 == d
  | .spm c _ => c / 16 == d
  | _ => false

/-- Everything on the die ends, without completion actions, and a plan that was built there is Failed (DEDUCED, log 75); its launches end by die loss (R447). A saved flow of the
die has no place to resume and ends with it. -/
def State.endDie (s : State) (d : Nat) : State :=
  let s := (s.jobs.filter (fun (j : Job) => j.die == d)).foldl State.loseBuild s
  let gone := (s.flows.filter (fun f => f.loc.die == d && f.status != .free)).map (·.key)
  let s := s.dropFlows (fun f => f.loc.die == d && f.status != .free)
  { s with
    tasks := s.tasks.filter (fun (t : Task) => t.die != d)
    jobs := s.jobs.filter (fun (j : Job) => j.die != d)
    rows := s.rows.filter (fun (r : Row) => !gone.contains r.sender)
    evFlight := s.evFlight.filter (fun (e : EvFlight) => !gone.contains e.dest)
    saves := s.saves.filter (fun (r : SaveRec) => !gone.contains r.key)
    ckpts := s.ckpts.filter (fun (c : Defer) => !gone.contains c.before.key)
    seqrs := s.seqrs.filter (fun (q : Seqr) => q.core / 64 != d)
    resident := s.resident.filter (fun (r : Nat × Nat × Nat) => r.1 / 16 != d)
    launches := s.launches.map (fun (l : Launch) => if nth0 l.counts d != 0 then { l with ending := 3 } else l) }

/-- The oldest load or AMO of a flow toward the die that has no value yet raises HOME_LOST at its word; what ran ahead of it, later
ones among it, is undone (R447). -/
def State.failToDie (s : State) (d : Nat) (f : Flow) : State :=
  match sortBy (fun a => a.seq) ((f.sb ++ s.netOf f.key).filter (fun a => a.load && toDie d a.addr)) with
  | a :: _ => s.failLoad f.key a ⟨0x0F, 1, w64 a.va, none, 0⟩
  | [] => s

/-- A flow without the stores of its buffers that head for the die; those that the VSQ holds are among them. -/
def Flow.shedStores (f : Flow) (d : Nat) : Flow :=
  let keeps (a : Access) : Bool := a.load || !toDie d a.addr
  { f with
    sb := f.sb.filter keeps
    cq := f.cq.filter keeps
    vsq := f.vsq.map (fun w => { w with writes := w.writes.filter (fun p => keeps p.2) }) }

/-- What was on its way to the die (R447): loads trap at their words, stores that have issued are discarded and counted, a copy
faults and a row is refused with reason LOST. -/
def State.endFlights (s : State) (d : Nat) : State × Nat :=
  let s := s.flows.foldl (fun s f => s.failToDie d f) s
  let lost := s.net.filter (fun fl => toDie d fl.acc.addr)
  let held := s.flows.foldl (fun n f => n + ((f.sb ++ f.cq ++ f.held).filter (fun a => !a.load && toDie d a.addr)).length) 0
  let n := held + (lost.filter (fun fl => !fl.acc.load && (match fl.origin with | .flow .. => true | _ => false))).length
  let s := { s with
    net := s.net.filter (fun (fl : Flight) => !toDie d fl.acc.addr)
    me := s.me.shedStores d
    rest := s.rest.map (fun f => f.shedStores d) }
  let s := lost.foldl (fun (s : State) fl =>
    match fl.origin with
    | .job id =>
      (match s.job? id with
       | some j => (match j.copy? with | some c => s.copyFail j c 2 fl.acc.va | none => s)
       | none => s)
    | _ => s) s
  ({ s with rows := s.rows.map (fun (r : Row) =>
      if dstDev r.dst = s.dev.domDev.toNat ∧ dstDie r.dst = d then
        (match r.st with
         | .answered _ => r
         | _ => { r with st := .answered 4 })
      else r) }, n)

/-- A salvage record (R449): TAG, SRC, then the sector. -/
def State.salvageRec (s : State) (pa key src : Nat) : List Byte :=
  bytesLE 8 (2 ^ 63 + key <<< 52 + pa / 32 * 32) ++ bytesLE 8 src ++ bytesLE 16 0 ++ s.mem.getN pa 32

/-- One sector (address, key, SRC) into the salvage region at base, of a capacity in records; n are there (R449). -/
def State.salvageOne (d base cap : Nat) (acc : State × Nat) (x : Nat × Nat × Nat) : State × Nat :=
  let s := acc.1
  if acc.2 < cap then
    (s.devWrite (base + 64 + 64 * acc.2) 0 (s.salvageRec x.1 x.2.1 x.2.2), acc.2 + 1)
  else (s.logErr 7 0 0 0 d x.1 0, acc.2)

/-- The modified sectors of a granule that a die owns: those with a word registered to one of its cores, which it alone holds (R408,
log 44). -/
def State.modSectors (s : State) (e : DirEnt) : List (Nat × Nat × Nat) :=
  ((List.range (e.g.size / 32)).map (fun i => e.g.addr + 32 * i)).filterMap (fun a =>
    if s.reg.any (fun r => r.key == e.g.key && r.core / 64 == e.own && r.words.any (fun w => w / 32 == a / 32)) then some (a, e.g.key, e.own) else none)

/-- What the survivors hold modified of the lost die's memory: sectors of the dies' L1s, and both sectors of a line of the HCA. -/
def State.modified (s : State) (d : Nat) : List (Nat × Nat × Nat) :=
  ((s.coh.dir.filter (fun e => e.g.home == d && e.own != d && (e.st == .m || e.st == .o))).map s.modSectors).flatten ++
    ((s.coh.hca.filter (fun h => h.st == .m && toDie d h.addr)).map (fun h => [(h.addr, h.key, 2 ^ 8), (h.addr + 32, h.key, 2 ^ 8)])).flatten

/-- The modified sectors of what was homed on the lost die go into the region of the lowest surviving die; the records of an
earlier loss stay (log 40). -/
def State.salvage (s : State) (d : Nat) (first : Bool) : State :=
  let sal := s.dev.salv.getD 0 0
  let base := wbits sal 12 40 * 4096
  let cap := (wbits sal 0 12 * 2 ^ 20 - 64) / 64
  let secs := s.modified d
  if cap = 0 then secs.foldl (fun s x => s.logErr 7 0 0 0 d x.1 0) s
  else
    let n0 := if first then 0 else natLE (s.mem.getN base 8)
    let r := secs.foldl (State.salvageOne d base cap) (s, n0)
    r.1.devWrite base 0 (bytesLE 8 r.2)

/-- What becomes of a coherence message when a die is lost: one to or from its home, or to a requester of it, goes; one to a holder
there is answered with NoData (R414, R427). -/
def CMsg.survive (d : Nat) (m : CMsg) : Option CMsg :=
  match m with
  | .fwd g o r _ => if g.home = d ∨ r = d then none else if o = d then some (.ack g o true false false) else some m
  | .inv g h => if g.home = d then none else if h = d then some (.ack g h false false false) else some m
  | .binv g h => if g.home = d then none else if h = d then some (.ack g h false false false) else some m
  | .data g r _ => if g.home = d ∨ r = d then none else some m
  | .ack g .. => if g.home = d then none else some m
  | .done g r => if g.home = d ∨ r = d then none else some m

/-- Words of a survivor's memory that cores of the lost die alone held in their latest value: the home keeps its older bytes, which
are a free value (R427, log 39). -/
def State.olderWords (s : State) (d : Nat) (words : List Nat) : State :=
  let gone := ((s.reg.filter (fun r => r.core / 64 == d)).map RegEnt.words).flatten
  (words.filter (fun w => gone.contains w)).foldl (fun (s : State) w =>
    let q := s.draw
    { q.2 with mem := q.2.mem.setN w (bytesLE 8 q.1.toNat) }) s

/-- What the survivors' directories and caches keep (R427): the lost die leaves PRES, and a granule that it owned
modified is lost; copies of what was homed there go. -/
def State.dieCaches (s : State) (d : Nat) : State :=
  let lost := s.coh.dir.filter (fun e => e.g.home != d && e.own == d && (e.st == .m || e.st == .o))
  let words := (lost.map (fun e => (List.range (e.g.size / 8)).map (fun i => e.g.addr + 8 * i))).flatten
  let s := s.olderWords d words
  let s := s.modCoh (fun c => { c with
    dir := (c.dir.filter (fun e => e.g.home != d)).map (fun e =>
      if e.own = d ∧ (e.st = .m ∨ e.st = .o) then { e with st := .i, pres := [], lost := true }
      else if e.own = d ∧ e.st = .e then { e with st := .i, pres := [] }
      else { e with pres := e.pres.filter (· != d) })
    txns := c.txns.filter (fun t => t.g.home != d && t.die != d)
    msgs := c.msgs.filterMap (CMsg.survive d)
    hca := c.hca.filter (fun h => !toDie d h.addr)
    copies := c.copies.filter (fun x => x.1 != d && x.2.1.home != d) })
  { s with
    bad := words ++ s.bad.filter (fun w => !words.contains w)
    badCache := s.badCache.filter (fun w => !toDie d w)
    l1 := s.l1.filter (fun b => b.core / 64 != d && !toDie d b.addr)
    reg := s.reg.filter (fun r => r.core / 64 != d && !toDie d r.line)
    amoRuns := s.amoRuns.filter (fun r => r.core / 64 != d && !toDie d r.line)
    peerCopies := s.peerCopies.filter (fun p => homeDie p.addr != d)
    tlb := s.tlb.filter (fun e => match e.place with | .core c => c / 64 != d | .cluster c => c / 16 != d)
    walks := s.walks.filter (fun w => w.die != d) }

/-- The loss of a die (R447): die 0 takes the module with it. -/
def State.loseDie (s : State) (d : Nat) : State :=
  if 4 ≤ d || s.dev.dieLost.getLsbD d then s
  else if d = 0 then s.abrupt
  else
    let first := s.dev.dieLost == 0
    let s := s.endDie d
    let s := s.modDev (fun x => { x with dieLost := x.dieLost ||| BitVec.ofNat 4 (2 ^ d) })
    let q := s.endFlights d
    let s := q.1.loseWatches (fun w => toDie d w.addr)
    let s := (s.salvage d first).dieCaches d
    s.logErr 6 0 0 0 d 0 q.2

/-- DIE_LOSS, R447. -/
def execEvDieLoss (die : Nat) (s : State) : Res := .next (s.loseDie die)

/-- Whether every link from a die to the others is down. -/
def Device.cutOff (d : Device) (x : Nat) : Bool :=
  (List.range 4).all (fun y => y == x || d.linkDown.contains (min x y, max x y))

/-- DIE_LINK_DOWN, R442, R447: each die whose links to the others are all down is lost (log 76). -/
def execEvDieLinkDown (d h : Nat) (s : State) : Res :=
  if d = h ∨ 4 ≤ d ∨ 4 ≤ h then .next s
  else
    let l := (min d h, max d h)
    let s := if s.dev.linkDown.contains l then s else s.modDev (fun x => { x with linkDown := l :: x.linkDown })
    let cut := [min d h, max d h].filter (fun x => s.dev.cutOff x)
    .next (cut.foldl State.loseDie s)

/-! ### Retirement and repair (R450, R451) -/

/-- New retired clusters: their flows are asked to save (R375, R450). -/
def Flow.retire (v : Word) (f : Flow) : Flow :=
  if v.getLsbD (16 * f.loc.die + f.loc.cluster) then
    (match f.status with
     | .running => { f with preq := true }
     | .waiting _ => { f with preq := true }
     | _ => f)
  else f

/-- A write of RETCL: bits set stay set, each retirement is logged, and a cluster without flows is gated (R424, R450). -/
def State.writeRetcl (s : State) (v : Word) : State :=
  let new := v &&& ~~~s.dev.retcl
  let s := { s.modDev (fun d => { d with retcl := d.retcl ||| v }) with
    me := s.me.retire new
    rest := s.rest.map (Flow.retire new) }
  (((List.range 64).filter (fun i => new.getLsbD i)).foldl (fun s i => s.logErr 9 0 0 0 (i / 16) 0 0) s).gateEmpty

/-- RETCL_WRITE, R450. -/
def execEvRetclWrite (v : Word) (s : State) : Res := .next (s.writeRetcl v)

/-- A write of a byte of RETLG (R446, R450): the grants that stand are left until their flows ask again. -/
def State.writeRetlg (s : State) (i : Nat) (v : Byte) : State :=
  if 256 ≤ i then s
  else
    let new := v &&& ~~~(s.dev.retlg.getD i 0)
    let s := s.modDev (fun d => { d with retlg := d.retlg.set i (d.retlg.getD i 0 ||| v) })
    ((List.range 8).filter (fun j => new.getLsbD j)).foldl (fun s _ => s.logErr 9 0 0 0 (i / 64) 0 0) s

/-- RETLG_WRITE, R450. -/
def execEvRetlgWrite (byte : Nat) (v : Byte) (s : State) : Res := .next (s.writeRetlg byte v)

/-- REPAIR, R451: bits 51:13 name the row, bit 0 selects hard. -/
def execEvRepair (row seq : Word) (s : State) : Res :=
  .next (s.modDev (fun d => { d with repairs := d.repairs ++ [⟨wbits row 13 39 <<< 13, row.getLsbD 0, seq⟩] }))

/-- Whether a bank has a spare row of a kind: two soft, one hard (R451). -/
def Device.spareFree (d : Device) (bank : Nat) (hard : Bool) : Bool :=
  decide ((d.spares.filter (fun x => x.1 == bank && x.2.1 == hard)).length < (if hard then 1 else 2))

/-- REPAIR_COMPLETE, R451: the row moves with its errors, or stays where no spare is free. -/
def execEvRepairComplete (s : State) : Res :=
  match s.dev.repairs with
  | [] => .next s
  | c :: rest =>
    let bank := hbmBankOf c.row
    let s := s.modDev (fun d => { d with repairs := rest, repDone := c.seq })
    if s.dev.spareFree bank c.hard then
      let s := s.modDev (fun d => { d with
        spares := d.spares ++ [(bank, c.hard, c.row)]
        hardRepairs := if c.hard then d.hardRepairs ++ [c.row] else d.hardRepairs
        softStored := if c.hard then d.softStored else d.softStored ++ [c.row] })
      .next (s.logErr 8 0 0 0 (homeDie c.row) c.row 0)
    else .next (s.logErr 8 0 0 0 (homeDie c.row) 0 0)

end Sys2Proof.Machine
end

