-- ==== Sys2Proof/Machine/EvRegs.lean ====
section
/-! DEFINITION. Writes of the registers of the functions' BARs (R432) that the host makes 8 bytes at a time. Offsets
that a rule lists take their write; every other offset ignores it. -/

namespace Sys2Proof.Machine

/-- A write that a port refuses (R351, R400). -/
def State.badLaunch (s : State) (t : Nat) : State := (s.modTen t (fun x => { x with lstBad := true })).irq t 0
def State.badShoot (s : State) (t : Nat) : State := (s.modTen t (fun x => { x with sdBad := true })).irq t 0

/-- SDSTAT (R400): bits 1:0 are W1C. -/
def State.writeSdstat (s : State) (t : Nat) (v : Word) : State :=
  s.modTen t (fun x => { x with sdOvf := x.sdOvf && !v.getLsbD 0, sdBad := x.sdBad && !v.getLsbD 1 })

/-- BAR 0 of a function, at its tenant's ports (R350, R373, R400, R433). -/
def State.writeBar0 (s : State) (t off : Nat) (v : Word) : State :=
  if 16 < t || !s.dev.served t then s
  else if off < 0x40 then s.badLaunch t
  else if off = 0x40 then s.modTen t (fun x => { x with lstOvf := x.lstOvf && !v.getLsbD 0, lstBad := x.lstBad && !v.getLsbD 1 })
  else if off = 0x80 then
    s.modTen t (fun x => { x with ucause := if v.getLsbD 63 then x.ucause &&& 0x7FFFFFFFFFFFFFFF else x.ucause })
  else if 0x200 ≤ off ∧ off < 0x220 then s.badShoot t
  else if off = 0x228 then s.writeSdstat t v
  else if 0x1000 ≤ off ∧ off < 0x1100 then s.modDev (fun d => { d with msixTable := aset d.msixTable (t, off) v })
  else s

/-- A tenant record (R348, R349): fields marked "not live" take a write only while the tenant is not live. -/
def State.writeRecord (s : State) (t o : Nat) (v : Word) : State :=
  let put (g : Tenant → Tenant) : State := if (s.ten t).live then s else s.modTen t g
  match o with
  | 0x00 => s.writeState t v
  | 0x08 => put (fun x => { x with wbase := keepBits v 21 31 })
  | 0x10 => put (fun x => { x with wlimit := keepBits v 21 31 })
  | 0x18 => put (fun x => { x with ptroot := keepBits v 12 48 })
  | 0x20 => (s.modTen t (fun x => { x with weight := wbits v 32 8, keys := if x.live then x.keys else BitVec.ofNat 32 v.toNat }))
  | 0x28 => put (fun x => { x with arena := keepBits v 21 19 ||| keepBits v 40 24 })
  | 0x30 => put (fun x => { x with pool := keepBits v 21 19 ||| keepBits v 40 24 })
  | 0x38 => s.writePartaddr t v
  | 0x40 => s.writeShare t v
  | _ => s

/-- HDM and bias registers (R420). -/
def State.writeHdm (s : State) (off : Nat) (v : Word) : State :=
  if off = 0xC00 then s.modDev (fun d => { d with hdmBase := if d.hdmEn then (v &&& 0xFFF000003FFFFFFF) ||| keepBits d.hdmBase 30 22 else v })
  else if off = 0xC08 then s.writeHdmctl v
  else if off = 0xC10 then (if s.dev.hdmEn then s else s.modDev (fun d => { d with biasBase := keepBits v 12 40 }))
  else if 0xC20 ≤ off ∧ off < 0xC30 then s.badBias
  else if off = 0xC38 then s.modDev (fun d => { d with biasOvf := d.biasOvf && !v.getLsbD 0, biasBad := d.biasBad && !v.getLsbD 1 })
  else s

/-- The error log, salvage and retirement registers (R446). -/
def State.writeLog (s : State) (off : Nat) (v : Word) : State :=
  if off = 0x1C00 then (if s.dev.elEn then s else s.modDev (fun d => { d with elBase := keepBits v 12 40 }))
  else if off = 0x1C08 then
    s.modDev (fun d => { d with elEn := v.getLsbD 63, elSize := if d.elEn then d.elSize else wbits v 0 5 })
  else if off = 0x1C18 then s.modDev (fun d => { d with elTail := BitVec.ofNat 32 v.toNat })
  else if off = 0x1C20 then s.modDev (fun d => { d with elOvf := d.elOvf &&& ~~~(BitVec.ofNat 32 v.toNat) })
  else if 0x1C40 ≤ off ∧ off < 0x1C60 ∧ off % 8 = 0 then
    s.modDev (fun d => { d with salv := d.salv.set ((off - 0x1C40) / 8) (keepBits v 0 52) })
  else if off = 0x1C60 then s.writeRetcl v
  else if 0x1D00 ≤ off ∧ off < 0x1E00 ∧ off % 8 = 0 then
    (List.range 8).foldl (fun s i => s.writeRetlg (off - 0x1D00 + i) (BitVec.ofNat 8 (wbits v (8 * i) 8))) s
  else s

/-- A tag of the domain (R437). -/
def State.writeDtag (s : State) (t : Nat) (v : Word) : State :=
  s.modTen t (fun x => { x with dtag := if x.live then x.dtag else BitVec.ofNat 16 v.toNat, dtagRsvd := BitVec.ofNat 48 (wbits v 16 48) })

/-- BAR 2 of the physical function (R432). After a boot that stopped, no offset takes a write (R453). -/
def State.writeBar2 (s : State) (off : Nat) (v : Word) : State :=
  if s.dev.bootResult ≠ 0 then s
  else if off = 0x800 then s.writeCapuj v
  else if off = 0x808 then s.modDev (fun d => { d with pfStatus := d.pfStatus && !v.getLsbD 0 })
  else if 0xA00 ≤ off ∧ off < 0xA88 ∧ off % 8 = 0 then s.writeTvect ((off - 0xA00) / 8) v
  else if off = 0xA90 then s.writePreempt v
  else if 0xC00 ≤ off ∧ off < 0xC40 then s.writeHdm off v
  else if 0xD00 ≤ off ∧ off < 0xD88 ∧ off % 8 = 0 then s.writeDtag ((off - 0xD00) / 8) v
  else if off = 0xD90 then s.writeDomctl v
  else if 0x1000 ≤ off ∧ off < 0x1880 then s.writeRecord ((off - 0x1000) / 128) (off % 128) v
  else if 0x1C00 ≤ off ∧ off < 0x1E00 then s.writeLog off v
  else if 0x2030 ≤ off ∧ off < 0x2050 ∧ off % 8 = 0 then s.writeFeatacc ((off - 0x2030) / 8) v
  else if off = 0x2050 then (if v.getLsbD 0 then s.lockFeatures else s)
  else if 0x3000 ≤ off ∧ off < 0x3440 then
    (let t := (off - 0x3000) / 64
     if off % 64 < 0x20 then s.badShoot t
     else if off % 64 = 0x28 then s.writeSdstat t v
     else s)
  else s

/-- The pool setting (R220): 0, 2, 4, 6 or 8 ways while no tenant is live; pool bytes then read zero. A write that breaks
this is ignored (log 105). -/
def State.writePool (s : State) (v : Word) : State :=
  if s.tenants.any (fun t => t.live) || !([0, 2, 4, 6, 8].contains v.toNat) then s
  else
    let isPool (a : Nat) : Bool := match regionOf a with | .pool => true | _ => false
    { s with
      dev := { s.dev with poolWays := v.toNat }
      mem := s.mem.filter (fun (c : Host.Cell) => !isPool c.1)
      memKey := s.memKey.filter (fun (c : Host.Cell) => !isPool c.1)
      bad := s.bad.filter (fun a => !isPool a)
      badCache := s.badCache.filter (fun a => !isPool a)
      l1 := s.l1.filter (fun b => !isPool b.addr)
      reg := s.reg.filter (fun r => !isPool r.line) }

/-- REGISTER_WRITE, R432. -/
def execEvRegisterWrite (r : RegTarget) (v : Word) (s : State) : Res :=
  .next (match r with
    | .bar0 fn off => s.writeBar0 fn off v
    | .bar2 off => s.writeBar2 off v
    | .poolWays => s.writePool v)

/-! ### What a read returns -/

/-- BAR 0 of a function: a vector is pending while its posted write is on HQ (log 131); the launch port and the SDCMD window read zero, as every unlisted offset (R350, R351, R373, R400,
R432, R433). -/
def State.readBar0 (s : State) (t off : Nat) : Word :=
  let x := s.ten t
  if !s.dev.served t then 0
  else if off = 0x40 then w64 (b2n x.lstOvf + (b2n x.lstBad) <<< 1 + x.queue.length <<< 17)
  else if off = 0x80 then x.ucause
  else if off = 0x88 then x.uepc
  else if off = 0x90 then x.ueval
  else if off = 0x98 then w64 x.ucount
  else if off = 0x220 then x.sddone
  else if off = 0x228 then w64 (b2n x.sdOvf + (b2n x.sdBad) <<< 1 + x.sdq.length <<< 4)
  else if 0x1000 ≤ off ∧ off < 0x1100 then aget s.dev.msixTable (t, off) 0
  else if off = 0x1800 then w64 (sumN ((List.range 16).map (fun v => if s.net.any (fun fl => fl.origin == .msi t v) then 2 ^ v else 0)))
  else 0

/-- The fused cost table (R363), one 4-byte price after another. -/
def costTable : List Nat :=
  [priceA, pricePipe, priceScalar, 1400000, 1500000, 1600000, priceHbm, priceL2, priceSpm, priceDie, priceVex, priceHost]

/-- A tenant record (R348). -/
def State.readRecord (s : State) (t o : Nat) : Word :=
  let x := s.ten t
  match o with
  | 0x00 => w64 (b2n x.live + (b2n x.replay) <<< 1 + (b2n x.entrap) <<< 2)
  | 0x08 => x.wbase
  | 0x10 => x.wlimit
  | 0x18 => x.ptroot
  | 0x20 => w64 (x.keys.toNat + x.weight <<< 32)
  | 0x28 => x.arena
  | 0x30 => x.pool
  | 0x38 => x.partaddr
  | 0x40 => w64 x.share
  | _ => 0

/-- HDM, bias and domain registers (R420, R437). -/
def State.readHdm (s : State) (off : Nat) : Word :=
  let d := s.dev
  if off = 0xC00 then d.hdmBase
  else if off = 0xC08 then w64 ((b2n d.hdmEn) <<< 63 + d.hdmRsvd.toNat <<< 10 + d.hdmSize)
  else if off = 0xC10 then d.biasBase
  else if off = 0xC30 then d.biasDone
  else if off = 0xC38 then w64 (b2n d.biasOvf + (b2n d.biasBad) <<< 1 + s.coh.flips.length <<< 4)
  else if 0xD00 ≤ off ∧ off < 0xD88 ∧ off % 8 = 0 then (let x := s.ten ((off - 0xD00) / 8); w64 (x.dtagRsvd.toNat <<< 16 + x.dtag.toNat))
  else if off = 0xD90 then w64 ((b2n d.domEn) <<< 63 + d.domRsvd.toNat <<< 10 + d.domDev.toNat)
  else 0

/-- Error log, salvage, retirement and repair registers (R446, R451). -/
def State.readLog (s : State) (off : Nat) : Word :=
  let d := s.dev
  if off = 0x1C00 then d.elBase
  else if off = 0x1C08 then w64 ((b2n d.elEn) <<< 63 + d.elSize)
  else if off = 0x1C10 then d.elHead.setWidth 64
  else if off = 0x1C18 then d.elTail.setWidth 64
  else if off = 0x1C20 then d.elOvf.setWidth 64
  else if off = 0x1C28 then d.ceCount
  else if off = 0x1C30 then d.dieLost.setWidth 64
  else if 0x1C40 ≤ off ∧ off < 0x1C60 ∧ off % 8 = 0 then d.salv.getD ((off - 0x1C40) / 8) 0
  else if off = 0x1C60 then d.retcl
  else if off = 0x1C80 then d.repDone
  else if 0x1D00 ≤ off ∧ off < 0x1E00 ∧ off % 8 = 0 then w64 (natLE ((d.retlg.drop (off - 0x1D00)).take 8))
  else 0

/-- Boot and feature registers (R454). -/
def State.readBoot (s : State) (off : Nat) : Word :=
  let d := s.dev
  if off = 0x2000 then w64 (d.bootStage + d.bootSlot <<< 3 + d.bootResult <<< 8)
  else if off = 0x2008 then d.fwver
  else if 0x2010 ≤ off ∧ off < 0x2030 ∧ off % 8 = 0 then d.featOff.getD ((off - 0x2010) / 8) 0
  else if 0x2030 ≤ off ∧ off < 0x2050 ∧ off % 8 = 0 then d.featAcc.getD ((off - 0x2030) / 8) 0
  else if off = 0x2050 then w64 (b2n d.featLock)
  else 0

/-- The tenants whose requests for pre-emption are unserved (R375). -/
def State.readPreempt (s : State) : Word :=
  w64 (sumN (s.tenants.zipIdx.map (fun p => if p.1.preempt then 2 ^ p.2 else 0)))

/-- BAR 2 of the physical function: every unlisted offset reads zero (R432), and after a boot that stopped every one but BOOTSTAT and
FWVER (R453). -/
def State.readBar2 (s : State) (off : Nat) : Word :=
  if s.dev.bootResult ≠ 0 ∧ off ≠ 0x2000 ∧ off ≠ 0x2008 then 0
  else if off = 0x800 then w64 s.dev.capuj
  else if off = 0x808 then w64 (b2n s.dev.pfStatus)
  else if 0x900 ≤ off ∧ off < 0x930 ∧ off % 8 = 0 then
    (let i := (off - 0x900) / 4
     w64 (costTable.getD i 0 + costTable.getD (i + 1) 0 <<< 32))
  else if 0xA00 ≤ off ∧ off < 0xA88 ∧ off % 8 = 0 then (s.ten ((off - 0xA00) / 8)).tvect
  else if off = 0xA90 then s.readPreempt
  else if 0xC00 ≤ off ∧ off < 0xD98 then s.readHdm off
  else if 0x1000 ≤ off ∧ off < 0x1880 then s.readRecord ((off - 0x1000) / 128) (off % 128)
  else if 0x1C00 ≤ off ∧ off < 0x1E00 then s.readLog off
  else if 0x2000 ≤ off ∧ off < 0x2058 then s.readBoot off
  else if 0x3000 ≤ off ∧ off < 0x3440 then
    (if off % 64 < 0x20 then 0 else s.readBar0 ((off - 0x3000) / 64) (0x200 + off % 64))
  else 0

end Sys2Proof.Machine
end

