-- ==== Sys2Proof/Machine/Dispatch.lean ====
section
/-! DEFINITION. One arm per instruction: its meaning, or its rejection by name. -/

namespace Sys2Proof.Machine

def exec (i : Instr) (s : State) : Host.Outcome State Fault Refusal :=
  match i with
  | .add d a b => Sys2Proof.Machine.execAdd d a b s
  | .sub d a b => Sys2Proof.Machine.execSub d a b s
  | .and d a b => Sys2Proof.Machine.execAnd d a b s
  | .or d a b => Sys2Proof.Machine.execOr d a b s
  | .xor d a b => Sys2Proof.Machine.execXor d a b s
  | .sll d a b => Sys2Proof.Machine.execSll d a b s
  | .srl d a b => Sys2Proof.Machine.execSrl d a b s
  | .sra d a b => Sys2Proof.Machine.execSra d a b s
  | .slt d a b => Sys2Proof.Machine.execSlt d a b s
  | .sltu d a b => Sys2Proof.Machine.execSltu d a b s
  | .min d a b => Sys2Proof.Machine.execMin d a b s
  | .max d a b => Sys2Proof.Machine.execMax d a b s
  | .minu d a b => Sys2Proof.Machine.execMinu d a b s
  | .maxu d a b => Sys2Proof.Machine.execMaxu d a b s
  | .clz d a => Sys2Proof.Machine.execClz d a s
  | .ctz d a => Sys2Proof.Machine.execCtz d a s
  | .popc d a => Sys2Proof.Machine.execPopc d a s
  | .mul d a b => Sys2Proof.Machine.execMul d a b s
  | .mulh d a b => Sys2Proof.Machine.execMulh d a b s
  | .mulhu d a b => Sys2Proof.Machine.execMulhu d a b s
  | .div d a b => Sys2Proof.Machine.execDiv d a b s
  | .divu d a b => Sys2Proof.Machine.execDivu d a b s
  | .rem d a b => Sys2Proof.Machine.execRem d a b s
  | .remu d a b => Sys2Proof.Machine.execRemu d a b s
  | .slli d a n => Sys2Proof.Machine.execSlli d a n s
  | .srli d a n => Sys2Proof.Machine.execSrli d a n s
  | .srai d a n => Sys2Proof.Machine.execSrai d a n s
  | .addi d a imm => Sys2Proof.Machine.execAddi d a imm s
  | .andi d a imm => Sys2Proof.Machine.execAndi d a imm s
  | .ori d a imm => Sys2Proof.Machine.execOri d a imm s
  | .xori d a imm => Sys2Proof.Machine.execXori d a imm s
  | .slti d a imm => Sys2Proof.Machine.execSlti d a imm s
  | .sltiu d a imm => Sys2Proof.Machine.execSltiu d a imm s
  | .lih d imm => Sys2Proof.Machine.execLih d imm s
  | .auipc d imm => Sys2Proof.Machine.execAuipc d imm s
  | .beq a b o => Sys2Proof.Machine.execBeq a b o s
  | .bne a b o => Sys2Proof.Machine.execBne a b o s
  | .blt a b o => Sys2Proof.Machine.execBlt a b o s
  | .bge a b o => Sys2Proof.Machine.execBge a b o s
  | .bltu a b o => Sys2Proof.Machine.execBltu a b o s
  | .bgeu a b o => Sys2Proof.Machine.execBgeu a b o s
  | .jal d imm => Sys2Proof.Machine.execJal d imm s
  | .jalr d a imm => Sys2Proof.Machine.execJalr d a imm s
  | .lb d a imm => Sys2Proof.Machine.execLb d a imm s
  | .lbu d a imm => Sys2Proof.Machine.execLbu d a imm s
  | .lh d a imm => Sys2Proof.Machine.execLh d a imm s
  | .lhu d a imm => Sys2Proof.Machine.execLhu d a imm s
  | .lw d a imm => Sys2Proof.Machine.execLw d a imm s
  | .lwu d a imm => Sys2Proof.Machine.execLwu d a imm s
  | .ld d a imm => Sys2Proof.Machine.execLd d a imm s
  | .sb d a imm => Sys2Proof.Machine.execSb d a imm s
  | .sh d a imm => Sys2Proof.Machine.execSh d a imm s
  | .sw d a imm => Sys2Proof.Machine.execSw d a imm s
  | .sd d a imm => Sys2Proof.Machine.execSd d a imm s
  | .amoswap d a b o s1 z => Sys2Proof.Machine.execAmoswap d a b o s1 z s
  | .amoadd d a b o s1 z => Sys2Proof.Machine.execAmoadd d a b o s1 z s
  | .amoand d a b o s1 z => Sys2Proof.Machine.execAmoand d a b o s1 z s
  | .amoor d a b o s1 z => Sys2Proof.Machine.execAmoor d a b o s1 z s
  | .amomax d a b o s1 z => Sys2Proof.Machine.execAmomax d a b o s1 z s
  | .amomin d a b o s1 z => Sys2Proof.Machine.execAmomin d a b o s1 z s
  | .amocas d a b o s1 z => Sys2Proof.Machine.execAmocas d a b o s1 z s
  | .csrrd d c => Sys2Proof.Machine.execCsrrd d c s
  | .csrwr d a c => Sys2Proof.Machine.execCsrwr d a c s
  | .csrset d a c => Sys2Proof.Machine.execCsrset d a c s
  | .csrclr d a c => Sys2Proof.Machine.execCsrclr d a c s
  | .fence k s1 => Sys2Proof.Machine.execFence k s1 s
  | .sys c => Sys2Proof.Machine.execSys c s
  | .eret => Sys2Proof.Machine.execEret s
  | .brk c => Sys2Proof.Machine.execBrk c s
  | .wfe => Sys2Proof.Machine.execWfe s
  | .setvl c d a => Sys2Proof.Machine.execSetvl c d a s
  | .setvt c t => Sys2Proof.Machine.execSetvt c t s
  | .setvtReg c a => Sys2Proof.Machine.execSetvtReg c a s
  | .setsv c s1 => Sys2Proof.Machine.execSetsv c s1 s
  | .setsvOff c => Sys2Proof.Machine.execSetsvOff c s
  | .vadd c d a b m => Sys2Proof.Machine.execVadd c d a b m s
  | .vsub c d a b m => Sys2Proof.Machine.execVsub c d a b m s
  | .vmul c d a b m => Sys2Proof.Machine.execVmul c d a b m s
  | .vdiv c d a b m => Sys2Proof.Machine.execVdiv c d a b m s
  | .vmin c d a b m => Sys2Proof.Machine.execVmin c d a b m s
  | .vmax c d a b m => Sys2Proof.Machine.execVmax c d a b m s
  | .vmulh c d a b m => Sys2Proof.Machine.execVmulh c d a b m s
  | .vabsd c d a b m => Sys2Proof.Machine.execVabsd c d a b m s
  | .vand c d a b m => Sys2Proof.Machine.execVand c d a b m s
  | .vor c d a b m => Sys2Proof.Machine.execVor c d a b m s
  | .vxor c d a b m => Sys2Proof.Machine.execVxor c d a b m s
  | .vsll c d a b m => Sys2Proof.Machine.execVsll c d a b m s
  | .vsrl c d a b m => Sys2Proof.Machine.execVsrl c d a b m s
  | .vsra c d a b m => Sys2Proof.Machine.execVsra c d a b m s
  | .vaddi c d a imm m => Sys2Proof.Machine.execVaddi c d a imm m s
  | .vslli c d a imm m => Sys2Proof.Machine.execVslli c d a imm m s
  | .vsrli c d a imm m => Sys2Proof.Machine.execVsrli c d a imm m s
  | .vsrai c d a imm m => Sys2Proof.Machine.execVsrai c d a imm m s
  | .vaddVx c d a b x => Sys2Proof.Machine.execVaddVx c d a b x s
  | .vsubVx c d a b x => Sys2Proof.Machine.execVsubVx c d a b x s
  | .vmulVx c d a b x => Sys2Proof.Machine.execVmulVx c d a b x s
  | .vminVx c d a b x => Sys2Proof.Machine.execVminVx c d a b x s
  | .vmaxVx c d a b x => Sys2Proof.Machine.execVmaxVx c d a b x s
  | .vfma c d a b m => Sys2Proof.Machine.execVfma c d a b m s
  | .vfms c d a b m => Sys2Proof.Machine.execVfms c d a b m s
  | .vfnma c d a b m => Sys2Proof.Machine.execVfnma c d a b m s
  | .vfnms c d a b m => Sys2Proof.Machine.execVfnms c d a b m s
  | .vrec c d a m => Sys2Proof.Machine.execVrec c d a m s
  | .vrsq c d a m => Sys2Proof.Machine.execVrsq c d a m s
  | .vfexp2 c d a m => Sys2Proof.Machine.execVfexp2 c d a m s
  | .vabs c d a m => Sys2Proof.Machine.execVabs c d a m s
  | .vneg c d a m => Sys2Proof.Machine.execVneg c d a m s
  | .vnot c d a m => Sys2Proof.Machine.execVnot c d a m s
  | .vclz c d a m => Sys2Proof.Machine.execVclz c d a m s
  | .vpopc c d a m => Sys2Proof.Machine.execVpopc c d a m s
  | .vcvt c d a t m => Sys2Proof.Machine.execVcvt c d a t m s
  | .vwiden c d a t m => Sys2Proof.Machine.execVwiden c d a t m s
  | .vnarrow c d a t m => Sys2Proof.Machine.execVnarrow c d a t m s
  | .vquant c d a t => Sys2Proof.Machine.execVquant c d a t s
  | .vdeq c d a t m => Sys2Proof.Machine.execVdeq c d a t m s
  | .vcmpEq c d a b m => Sys2Proof.Machine.execVcmpEq c d a b m s
  | .vcmpNe c d a b m => Sys2Proof.Machine.execVcmpNe c d a b m s
  | .vcmpLt c d a b m => Sys2Proof.Machine.execVcmpLt c d a b m s
  | .vcmpLe c d a b m => Sys2Proof.Machine.execVcmpLe c d a b m s
  | .vcmpiEq c d a imm m => Sys2Proof.Machine.execVcmpiEq c d a imm m s
  | .vcmpiNe c d a imm m => Sys2Proof.Machine.execVcmpiNe c d a imm m s
  | .vcmpiLt c d a imm m => Sys2Proof.Machine.execVcmpiLt c d a imm m s
  | .vcmpiGt c d a imm m => Sys2Proof.Machine.execVcmpiGt c d a imm m s
  | .mand c d a b => Sys2Proof.Machine.execMand c d a b s
  | .mor c d a b => Sys2Proof.Machine.execMor c d a b s
  | .mxor c d a b => Sys2Proof.Machine.execMxor c d a b s
  | .mandn c d a b => Sys2Proof.Machine.execMandn c d a b s
  | .mpop c d a => Sys2Proof.Machine.execMpop c d a s
  | .mfirst c d a => Sys2Proof.Machine.execMfirst c d a s
  | .vmerge c d a b m => Sys2Proof.Machine.execVmerge c d a b m s
  | .vid c d m => Sys2Proof.Machine.execVid c d m s
  | .vcompress c d a s1 m => Sys2Proof.Machine.execVcompress c d a s1 m s
  | .vexpand c d a m => Sys2Proof.Machine.execVexpand c d a m s
  | .vperm c d a b m => Sys2Proof.Machine.execVperm c d a b m s
  | .viota c d a m => Sys2Proof.Machine.execViota c d a m s
  | .vslup c d a s1 m => Sys2Proof.Machine.execVslup c d a s1 m s
  | .vsldn c d a s1 m => Sys2Proof.Machine.execVsldn c d a s1 m s
  | .vbcast c d s1 m => Sys2Proof.Machine.execVbcast c d s1 m s
  | .vmov c d a x m => Sys2Proof.Machine.execVmov c d a x m s
  | .vxlane c d a s1 => Sys2Proof.Machine.execVxlane c d a s1 s
  | .vredsum c d a m => Sys2Proof.Machine.execVredsum c d a m s
  | .vredmax c d a m => Sys2Proof.Machine.execVredmax c d a m s
  | .vredmin c d a m => Sys2Proof.Machine.execVredmin c d a m s
  | .vredand c d a m => Sys2Proof.Machine.execVredand c d a m s
  | .vredor c d a m => Sys2Proof.Machine.execVredor c d a m s
  | .vredxor c d a m => Sys2Proof.Machine.execVredxor c d a m s
  | .vscansum c d a m => Sys2Proof.Machine.execVscansum c d a m s
  | .vscanmax c d a m => Sys2Proof.Machine.execVscanmax c d a m s
  | .vscanmin c d a m => Sys2Proof.Machine.execVscanmin c d a m s
  | .vscansumX c d a m => Sys2Proof.Machine.execVscansumX c d a m s
  | .vscanmaxX c d a m => Sys2Proof.Machine.execVscanmaxX c d a m s
  | .vscanminX c d a m => Sys2Proof.Machine.execVscanminX c d a m s
  | .vfoldSum c d a imm => Sys2Proof.Machine.execVfoldSum c d a imm s
  | .vfoldMax c d a imm => Sys2Proof.Machine.execVfoldMax c d a imm s
  | .vfoldMin c d a imm => Sys2Proof.Machine.execVfoldMin c d a imm s
  | .vcsx c d a m => Sys2Proof.Machine.execVcsx c d a m s
  | .vld c d b m => Sys2Proof.Machine.execVld c d b m s
  | .vlds c d b s1 m => Sys2Proof.Machine.execVlds c d b s1 m s
  | .vldb c d b m o => Sys2Proof.Machine.execVldb c d b m o s
  | .vldw c d b m x r => Sys2Proof.Machine.execVldw c d b m x r s
  | .vldwScaled c d b s1 m x r => Sys2Proof.Machine.execVldwScaled c d b s1 m x r s
  | .vst c d b m => Sys2Proof.Machine.execVst c d b m s
  | .vsts c d b s1 m => Sys2Proof.Machine.execVsts c d b s1 m s
  | .loopv n p => Sys2Proof.Machine.execLoopv n p s
  | .endv => Sys2Proof.Machine.execEndv s
  | .brkv m => Sys2Proof.Machine.execBrkv m s
  | .vbr m o => Sys2Proof.Machine.execVbr m o s
  | .vjoin => Sys2Proof.Machine.execVjoin s
  | .plan x a b w => Sys2Proof.Machine.execPlan x a b w s
  | .papply v a b t r => Sys2Proof.Machine.execPapply v a b t r s
  | .papplySpm x a b r => Sys2Proof.Machine.execPapplySpm x a b r s
  | .pscat v a b m o => Sys2Proof.Machine.execPscat v a b m o s
  | .pinv x a => Sys2Proof.Machine.execPinv x a s
  | .pcomp x a b => Sys2Proof.Machine.execPcomp x a b s
  | .pstat x a => Sys2Proof.Machine.execPstat x a s
  | .pfree a => Sys2Proof.Machine.execPfree a s
  | .pspill a => Sys2Proof.Machine.execPspill a s
  | .pfill a => Sys2Proof.Machine.execPfill a s
  | .mattach n => Sys2Proof.Machine.execMattach n s
  | .mdetach => Sys2Proof.Machine.execMdetach s
  | .mdeclF32 s1 => Sys2Proof.Machine.execMdeclF32 s1 s
  | .mdeclI32 s1 => Sys2Proof.Machine.execMdeclI32 s1 s
  | .mdeclRank k s1 => Sys2Proof.Machine.execMdeclRank k s1 s
  | .mzero c s1 => Sys2Proof.Machine.execMzero c s1 s
  | .mop c a b s1 r p => Sys2Proof.Machine.execMop c a b s1 r p s
  | .mopa c q b s1 r p => Sys2Proof.Machine.execMopa c q b s1 r p s
  | .mlda c a b s1 => Sys2Proof.Machine.execMlda c a b s1 s
  | .msta c a b s1 => Sys2Proof.Machine.execMsta c a b s1 s
  | .mrd c d a t s1 => Sys2Proof.Machine.execMrd c d a t s1 s
  | .mrank c a t q => Sys2Proof.Machine.execMrank c a t q s
  | .mrmerge c a t => Sys2Proof.Machine.execMrmerge c a t s
  | .mthr c d s1 => Sys2Proof.Machine.execMthr c d s1 s
  | .mwait => Sys2Proof.Machine.execMwait s
  | .stream x a n t v r => Sys2Proof.Machine.execStream x a n t v r s
  | .streamReg d a t => Sys2Proof.Machine.execStreamReg d a t s
  | .swalk x a n t v r => Sys2Proof.Machine.execSwalk x a n t v r s
  | .scow x a n t v r => Sys2Proof.Machine.execScow x a n t v r s
  | .swaitRelease t => Sys2Proof.Machine.execSwaitRelease t s
  | .swaitVisible t => Sys2Proof.Machine.execSwaitVisible t s
  | .commit t => Sys2Proof.Machine.execCommit t s
  | .tdef x a b => Sys2Proof.Machine.execTdef x a b s
  | .tdec a b => Sys2Proof.Machine.execTdec a b s
  | .tspawn x a b => Sys2Proof.Machine.execTspawn x a b s
  | .evrd x => Sys2Proof.Machine.execEvrd x s
  | .evpost a b => Sys2Proof.Machine.execEvpost a b s
  | .bar g => Sys2Proof.Machine.execBar g s
  | .mark m => Sys2Proof.Machine.execMark m s
  | .ttbind a b o => Sys2Proof.Machine.execTtbind a b o s
  | .ttstat x a => Sys2Proof.Machine.execTtstat x a s
  | .tierpin a b => Sys2Proof.Machine.execTierpin a b s
  | .tierfree a b => Sys2Proof.Machine.execTierfree a b s
  | .rowsend v a b => Sys2Proof.Machine.execRowsend v a b s
  | .rowack x a => Sys2Proof.Machine.execRowack x a s
  | .arrwait a b => Sys2Proof.Machine.execArrwait a b s
  | .replsel x a b => Sys2Proof.Machine.execReplsel x a b s
  | .ctxyield => Sys2Proof.Machine.execCtxyield s
  | .enchk x a => Sys2Proof.Machine.execEnchk x a s
  | .evConvoyStart f => Sys2Proof.Machine.execEvConvoyStart f s
  | .evVseqAdvance core lane => Sys2Proof.Machine.execEvVseqAdvance core lane s
  | .evScalarResultWrite f r => Sys2Proof.Machine.execEvScalarResultWrite f r s
  | .evVxlaneExchange f g => Sys2Proof.Machine.execEvVxlaneExchange f g s
  | .evLandingDelivered f tag => Sys2Proof.Machine.execEvLandingDelivered f tag s
  | .evWaitSatisfied f => Sys2Proof.Machine.execEvWaitSatisfied f s
  | .evEnter f k => Sys2Proof.Machine.execEvEnter f k s
  | .evTake f k => Sys2Proof.Machine.execEvTake f k s
  | .evSend f k => Sys2Proof.Machine.execEvSend f k s
  | .evPass k => Sys2Proof.Machine.execEvPass k s
  | .evApply k => Sys2Proof.Machine.execEvApply k s
  | .evDrop core addr => Sys2Proof.Machine.execEvDrop core addr s
  | .evAccept f => Sys2Proof.Machine.execEvAccept f s
  | .evEaccess job write => Sys2Proof.Machine.execEvEaccess job write s
  | .evPoint job visible => Sys2Proof.Machine.execEvPoint job visible s
  | .evWriteback addr => Sys2Proof.Machine.execEvWriteback addr s
  | .evTableLockRetry job => Sys2Proof.Machine.execEvTableLockRetry job s
  | .evPlanBuildComplete job => Sys2Proof.Machine.execEvPlanBuildComplete job s
  | .evTaskDispatch die => Sys2Proof.Machine.execEvTaskDispatch die s
  | .evTaskEnd f => Sys2Proof.Machine.execEvTaskEnd f s
  | .evEventRecordDelivered k => Sys2Proof.Machine.execEvEventRecordDelivered k s
  | .evBarRelease launch group => Sys2Proof.Machine.execEvBarRelease launch group s
  | .evTimetableLineRead f => Sys2Proof.Machine.execEvTimetableLineRead f s
  | .evTimetableEntryStart f n => Sys2Proof.Machine.execEvTimetableEntryStart f n s
  | .evTimetableEntryDone f n => Sys2Proof.Machine.execEvTimetableEntryDone f n s
  | .evMarkCheckComplete f => Sys2Proof.Machine.execEvMarkCheckComplete f s
  | .evRowArrive k => Sys2Proof.Machine.execEvRowArrive k s
  | .evRowCounterIncrement k => Sys2Proof.Machine.execEvRowCounterIncrement k s
  | .evRowAnswer k => Sys2Proof.Machine.execEvRowAnswer k s
  | .evWindowBoundary => Sys2Proof.Machine.execEvWindowBoundary s
  | .evReplayBoundary t => Sys2Proof.Machine.execEvReplayBoundary t s
  | .evPreemptSave f => Sys2Proof.Machine.execEvPreemptSave f s
  | .evForcedPreemption f => Sys2Proof.Machine.execEvForcedPreemption f s
  | .evResume f => Sys2Proof.Machine.execEvResume f s
  | .evTranslationWalk t va => Sys2Proof.Machine.execEvTranslationWalk t va s
  | .evLaunchPortWrite t off bytes => Sys2Proof.Machine.execEvLaunchPortWrite t off bytes s
  | .evLaunchPlace t prio => Sys2Proof.Machine.execEvLaunchPlace t prio s
  | .evLaunchEnd launch => Sys2Proof.Machine.execEvLaunchEnd launch s
  | .evTenantSetLive t v => Sys2Proof.Machine.execEvTenantSetLive t v s
  | .evTenantEnd t => Sys2Proof.Machine.execEvTenantEnd t s
  | .evPartaddrWrite t v => Sys2Proof.Machine.execEvPartaddrWrite t v s
  | .evShareWrite t v => Sys2Proof.Machine.execEvShareWrite t v s
  | .evCapujWrite v => Sys2Proof.Machine.execEvCapujWrite v s
  | .evTvectWrite t v => Sys2Proof.Machine.execEvTvectWrite t v s
  | .evPreemptWrite v => Sys2Proof.Machine.execEvPreemptWrite v s
  | .evRegisterWrite r v => Sys2Proof.Machine.execEvRegisterWrite r v s
  | .evShootdownCommand t bytes => Sys2Proof.Machine.execEvShootdownCommand t bytes s
  | .evShootdownComplete t => Sys2Proof.Machine.execEvShootdownComplete t s
  | .evHdmctlEnable v => Sys2Proof.Machine.execEvHdmctlEnable v s
  | .evBiascmd bytes => Sys2Proof.Machine.execEvBiascmd bytes s
  | .evBiasFlipComplete => Sys2Proof.Machine.execEvBiasFlipComplete s
  | .evMemrd pa => Sys2Proof.Machine.execEvMemrd pa s
  | .evMemwr pa data => Sys2Proof.Machine.execEvMemwr pa data s
  | .evMeminv pa => Sys2Proof.Machine.execEvMeminv pa s
  | .evSnpdata a => Sys2Proof.Machine.execEvSnpdata a s
  | .evSnpinv a => Sys2Proof.Machine.execEvSnpinv a s
  | .evSnpcur a => Sys2Proof.Machine.execEvSnpcur a s
  | .evBirsp pa data => Sys2Proof.Machine.execEvBirsp pa data s
  | .evBiconflict pa => Sys2Proof.Machine.execEvBiconflict pa s
  | .evRds die g => Sys2Proof.Machine.execEvRds die g s
  | .evRdx die g => Sys2Proof.Machine.execEvRdx die g s
  | .evUpg die g => Sys2Proof.Machine.execEvUpg die g s
  | .evFwd k => Sys2Proof.Machine.execEvFwd k s
  | .evInv k => Sys2Proof.Machine.execEvInv k s
  | .evBinv k => Sys2Proof.Machine.execEvBinv k s
  | .evData k => Sys2Proof.Machine.execEvData k s
  | .evWb die g => Sys2Proof.Machine.execEvWb die g s
  | .evAck k => Sys2Proof.Machine.execEvAck k s
  | .evDone k => Sys2Proof.Machine.execEvDone k s
  | .evVexconFlitReceive port flit => Sys2Proof.Machine.execEvVexconFlitReceive port flit s
  | .evVexconPortDown port => Sys2Proof.Machine.execEvVexconPortDown port s
  | .evPeerRequest q => Sys2Proof.Machine.execEvPeerRequest q s
  | .evDomctlEnable v => Sys2Proof.Machine.execEvDomctlEnable v s
  | .evPatrolScrub sector => Sys2Proof.Machine.execEvPatrolScrub sector s
  | .evDieLoss die => Sys2Proof.Machine.execEvDieLoss die s
  | .evRetclWrite v => Sys2Proof.Machine.execEvRetclWrite v s
  | .evRetlgWrite byte v => Sys2Proof.Machine.execEvRetlgWrite byte v s
  | .evRepair row seq => Sys2Proof.Machine.execEvRepair row seq s
  | .evRepairComplete => Sys2Proof.Machine.execEvRepairComplete s
  | .evPowerOn => Sys2Proof.Machine.execEvPowerOn s
  | .evConventionalReset => Sys2Proof.Machine.execEvConventionalReset s
  | .evAbruptReset => Sys2Proof.Machine.execEvAbruptReset s
  | .evPfReset => Sys2Proof.Machine.execEvPfReset s
  | .evVfReset n => Sys2Proof.Machine.execEvVfReset n s
  | .evFeataccWrite n v => Sys2Proof.Machine.execEvFeataccWrite n v s
  | .evFeatctlLock => Sys2Proof.Machine.execEvFeatctlLock s
  | .evGetVersion => Sys2Proof.Machine.execEvGetVersion s
  | .evGetCapabilities => Sys2Proof.Machine.execEvGetCapabilities s
  | .evNegotiateAlgorithms => Sys2Proof.Machine.execEvNegotiateAlgorithms s
  | .evGetDigests => Sys2Proof.Machine.execEvGetDigests s
  | .evGetCertificate => Sys2Proof.Machine.execEvGetCertificate s
  | .evChallenge nonce => Sys2Proof.Machine.execEvChallenge nonce s
  | .evGetMeasurements index nonce => Sys2Proof.Machine.execEvGetMeasurements index nonce s
  | .evKeyExchange share => Sys2Proof.Machine.execEvKeyExchange share s
  | .evMatrixWordComplete f => Sys2Proof.Machine.execEvMatrixWordComplete f s
  | .evUncorrectableError e => Sys2Proof.Machine.execEvUncorrectableError e s
  | .evDieLinkDown d h => Sys2Proof.Machine.execEvDieLinkDown d h s
  | .evHostLinkDown => Sys2Proof.Machine.execEvHostLinkDown s
  | .evHostLinkTraining width rate cxl => Sys2Proof.Machine.execEvHostLinkTraining width rate cxl s
  | .evPowerOff => Sys2Proof.Machine.execEvPowerOff s

end Sys2Proof.Machine
end

