-- ==== Sys2Proof/Machine/Issue.lean ====
section
/-! DEFINITION. The issue of a flow's word (R82, R103, R105, R148, R161, R180, R209, R237, R405): what is fetched, what a
word waits for before it issues, and what may run ahead of a word that has no value yet. -/

namespace Sys2Proof.Machine

/-- The word at a flow's pc, decoded; the pc is a multiple of 4 (R103, R374). -/
def State.nextWord (s : State) : Except Trap Instr :=
  let pc := s.me.pc
  if pc.toNat % 4 ≠ 0 then .error (alignT pc)
  else
    match s.fetch s.me pc with
    | .error t => .error t
    | .ok w =>
      match decodeBytes (bytesLE 4 w) with
      | .ok (i, _) => .ok i
      | .error e => .error (ill (decErrSub e))

/-! ### Registers a word names -/

/-- The scalar registers that a word's fields name; with the first of a pair its second (R77, R282). -/
def scalarFields : Instr → List (BitVec 5)
  | .add d a b | .sub d a b | .and d a b | .or d a b | .xor d a b | .sll d a b | .srl d a b | .sra d a b
  | .slt d a b | .sltu d a b | .min d a b | .max d a b | .minu d a b | .maxu d a b | .mul d a b | .mulh d a b
  | .mulhu d a b | .div d a b | .divu d a b | .rem d a b | .remu d a b | .amoswap d a b _ _ _
  | .amoadd d a b _ _ _ | .amoand d a b _ _ _ | .amoor d a b _ _ _ | .amomax d a b _ _ _ | .amomin d a b _ _ _
  | .amocas d a b _ _ _ => [d, a, b]
  | .clz d a | .ctz d a | .popc d a | .slli d a _ | .srli d a _ | .srai d a _ | .addi d a _ | .andi d a _
  | .ori d a _ | .xori d a _ | .slti d a _ | .sltiu d a _ | .jalr d a _ | .lb d a _ | .lbu d a _ | .lh d a _
  | .lhu d a _ | .lw d a _ | .lwu d a _ | .ld d a _ | .sb d a _ | .sh d a _ | .sw d a _ | .sd d a _
  | .csrwr d a _ | .csrset d a _ | .csrclr d a _ | .setvl _ d a => [d, a]
  | .lih d _ | .auipc d _ | .jal d _ | .csrrd d _ => [d]
  | .beq a b _ | .bne a b _ | .blt a b _ | .bge a b _ | .bltu a b _ | .bgeu a b _ | .papply _ a b _ _
  | .pscat _ a b _ _ | .mlda _ a b _ | .msta _ a b _ | .tdec a b | .evpost a b | .ttbind a b _ | .tierpin a b
  | .tierfree a b | .rowsend _ a b | .arrwait a b => [a, b]
  | .setvtReg _ a | .pfree a | .pspill a | .pfill a | .mrd _ _ a _ _ | .mrank _ a _ _ | .mrmerge _ a _
  | .streamReg _ a _ => [a]
  | .mpop _ d _ | .mfirst _ d _ | .vredsum _ d _ _ | .vredmax _ d _ _ | .vredmin _ d _ _ | .vredand _ d _ _
  | .vredor _ d _ _ | .vredxor _ d _ _ => [s5 d]
  | .vcompress _ _ _ s _ | .vslup _ _ _ s _ | .vsldn _ _ _ s _ | .vbcast _ _ s _ | .vxlane _ _ _ s => [s5 s]
  | .vld _ _ b _ | .vldb _ _ b _ _ | .vldw _ _ b _ _ _ | .vst _ _ b _ => [b]
  | .vlds _ _ b s _ | .vldwScaled _ _ b s _ _ _ | .vsts _ _ b s _ => [b, s]
  | .loopv n _ => [n]
  | .plan x a b _ | .papplySpm x a b _ | .pcomp x a b | .tdef x a b | .tspawn x a b | .replsel x a b => [x, a, b]
  | .pinv x a | .pstat x a | .ttstat x a | .rowack x a | .enchk x a => [x, a]
  | .mdeclRank k _ => [k]
  | .mop _ _ _ _ _ p | .mopa _ _ _ _ _ p => [p]
  | .stream _ a n _ _ _ => [a, n, n + 1]
  | .swalk x a n _ _ _ | .scow x a n _ _ _ => [x, a, n, n + 1]
  | .evrd x => [x]
  | _ => []

/-- The scalar registers a word names, the count of the open loop with them (R165, R168, R170). -/
def Flow.named (f : Flow) (i : Instr) : List Nat :=
  (match i, f.loop with
   | .endv, some l => [l.n.toNat]
   | .brkv _, some l => [l.n.toNat]
   | _, _ => (scalarFields i).map (fun (r : BitVec 5) => r.toNat)).filter (· != 0)

/-- The vector registers that a vector-class word's fields name. -/
def vectorFields : Instr → List (BitVec 6)
  | .vadd _ d a b _ | .vsub _ d a b _ | .vmul _ d a b _ | .vdiv _ d a b _ | .vmin _ d a b _ | .vmax _ d a b _
  | .vmulh _ d a b _ | .vabsd _ d a b _ | .vand _ d a b _ | .vor _ d a b _ | .vxor _ d a b _ | .vsll _ d a b _
  | .vsrl _ d a b _ | .vsra _ d a b _ | .vaddVx _ d a b _ | .vsubVx _ d a b _ | .vmulVx _ d a b _
  | .vminVx _ d a b _ | .vmaxVx _ d a b _ | .vfma _ d a b _ | .vfms _ d a b _ | .vfnma _ d a b _
  | .vfnms _ d a b _ | .vmerge _ d a b _ | .vperm _ d a b _ => [d, a, b]
  | .vaddi _ d a _ _ | .vslli _ d a _ _ | .vsrli _ d a _ _ | .vsrai _ d a _ _ | .vrec _ d a _ | .vrsq _ d a _
  | .vfexp2 _ d a _ | .vabs _ d a _ | .vneg _ d a _ | .vnot _ d a _ | .vclz _ d a _ | .vpopc _ d a _
  | .vcvt _ d a _ _ | .vwiden _ d a _ _ | .vnarrow _ d a _ _ | .vquant _ d a _ | .vdeq _ d a _ _
  | .vcompress _ d a _ _ | .vexpand _ d a _ | .viota _ d a _ | .vslup _ d a _ _ | .vsldn _ d a _ _
  | .vmov _ d a _ _ | .vxlane _ d a _ | .vscansum _ d a _ | .vscanmax _ d a _ | .vscanmin _ d a _
  | .vscansumX _ d a _ | .vscanmaxX _ d a _ | .vscanminX _ d a _ | .vfoldSum _ d a _ | .vfoldMax _ d a _
  | .vfoldMin _ d a _ | .vcsx _ d a _ => [d, a]
  | .vcmpEq _ _ a b _ | .vcmpNe _ _ a b _ | .vcmpLt _ _ a b _ | .vcmpLe _ _ a b _ | .mop _ a b _ _ _ => [a, b]
  | .vcmpiEq _ _ a _ _ | .vcmpiNe _ _ a _ _ | .vcmpiLt _ _ a _ _ | .vcmpiGt _ _ a _ _ | .vredsum _ _ a _
  | .vredmax _ _ a _ | .vredmin _ _ a _ | .vredand _ _ a _ | .vredor _ _ a _ | .vredxor _ _ a _ => [a]
  | .vid _ d _ | .vbcast _ d _ _ | .vld _ d _ _ | .vlds _ d _ _ _ | .vldb _ d _ _ _ | .vldw _ d _ _ _ _
  | .vldwScaled _ d _ _ _ _ _ | .vst _ d _ _ | .vsts _ d _ _ _ | .mthr _ d _ => [d]
  | .mopa _ _ b _ _ _ => [b]
  | _ => []

/-- The C bit of a vector-class word (R78); none of a scalar-class word. -/
def convoyBit : Instr → Option Bool
  | .setvl c _ _ | .setvt c _ | .setvtReg c _ | .setsv c _ | .setsvOff c | .vadd c _ _ _ _ | .vsub c _ _ _ _
  | .vmul c _ _ _ _ | .vdiv c _ _ _ _ | .vmin c _ _ _ _ | .vmax c _ _ _ _ | .vmulh c _ _ _ _ | .vabsd c _ _ _ _
  | .vand c _ _ _ _ | .vor c _ _ _ _ | .vxor c _ _ _ _ | .vsll c _ _ _ _ | .vsrl c _ _ _ _ | .vsra c _ _ _ _
  | .vaddi c _ _ _ _ | .vslli c _ _ _ _ | .vsrli c _ _ _ _ | .vsrai c _ _ _ _ | .vaddVx c _ _ _ _
  | .vsubVx c _ _ _ _ | .vmulVx c _ _ _ _ | .vminVx c _ _ _ _ | .vmaxVx c _ _ _ _ | .vfma c _ _ _ _
  | .vfms c _ _ _ _ | .vfnma c _ _ _ _ | .vfnms c _ _ _ _ | .vrec c _ _ _ | .vrsq c _ _ _ | .vfexp2 c _ _ _
  | .vabs c _ _ _ | .vneg c _ _ _ | .vnot c _ _ _ | .vclz c _ _ _ | .vpopc c _ _ _ | .vcvt c _ _ _ _
  | .vwiden c _ _ _ _ | .vnarrow c _ _ _ _ | .vquant c _ _ _ | .vdeq c _ _ _ _ | .vcmpEq c _ _ _ _
  | .vcmpNe c _ _ _ _ | .vcmpLt c _ _ _ _ | .vcmpLe c _ _ _ _ | .vcmpiEq c _ _ _ _ | .vcmpiNe c _ _ _ _
  | .vcmpiLt c _ _ _ _ | .vcmpiGt c _ _ _ _ | .mand c _ _ _ | .mor c _ _ _ | .mxor c _ _ _ | .mandn c _ _ _
  | .mpop c _ _ | .mfirst c _ _ | .vmerge c _ _ _ _ | .vid c _ _ | .vcompress c _ _ _ _ | .vexpand c _ _ _
  | .vperm c _ _ _ _ | .viota c _ _ _ | .vslup c _ _ _ _ | .vsldn c _ _ _ _ | .vbcast c _ _ _ | .vmov c _ _ _ _
  | .vxlane c _ _ _ | .vredsum c _ _ _ | .vredmax c _ _ _ | .vredmin c _ _ _ | .vredand c _ _ _
  | .vredor c _ _ _ | .vredxor c _ _ _ | .vscansum c _ _ _ | .vscanmax c _ _ _ | .vscanmin c _ _ _
  | .vscansumX c _ _ _ | .vscanmaxX c _ _ _ | .vscanminX c _ _ _ | .vfoldSum c _ _ _ | .vfoldMax c _ _ _
  | .vfoldMin c _ _ _ | .vcsx c _ _ _ | .vld c _ _ _ | .vlds c _ _ _ _ | .vldb c _ _ _ _ | .vldw c _ _ _ _ _
  | .vldwScaled c _ _ _ _ _ _ | .vst c _ _ _ | .vsts c _ _ _ _ | .mzero c _ | .mop c _ _ _ _ _
  | .mopa c _ _ _ _ _ | .mlda c _ _ _ | .msta c _ _ _ | .mrd c _ _ _ _ | .mrank c _ _ _ | .mrmerge c _ _
  | .mthr c _ _ => some c
  | _ => none

/-! ### What a word waits for -/

/-- The scalar registers that words in EQ will still write. -/
def Flow.eqDests (f : Flow) : List Nat :=
  (f.eq.map (fun e => match e.cmd with
    | .plan i => (planDest i).toList.map (·.toNat)
    | .word i _ => (planDest i).toList.map (·.toNat)
    | _ => [])).flatten

/-- Whether a word names a register that waits for a word of EQ. -/
def Flow.busyEq (f : Flow) (i : Instr) : Bool := if f.eq.isEmpty then false else (f.named i).any f.eqDests.contains

/-- Whether a register that a word names is marked busy (R148, R405). -/
def Flow.busyFor (f : Flow) (i : Instr) : Bool :=
  (if f.busy.isEmpty then false else (f.named i).any (fun r => f.busy.any (fun p => p.1 == r))) || f.busyEq i

/-- Whether a word waits in replay mode until the beats of the convoys before it have been charged, so that a quantum's end
does not hang on when they advance (R193, R209, log 30): a scalar-class word, or one that starts a convoy. -/
def State.beatsDue (s : State) (i : Instr) : Bool :=
  s.replayOf s.me && !s.me.vqDrained && (match convoyBit i with | some c => s.me.starts c | none => true)

/-- A word that waits for a result of the boundary ends the quantum in replay mode (R209, log 30). -/
def State.endQuantum (s : State) (i : Instr) : State :=
  if s.replayOf s.me && s.me.busyEq i then s.modMe (fun f => { f with qEnd := true }) else s

/-- A word that waits: before a scalar-class word the open convoy has ended (R79), and one that would start a convoy waits
with none open. -/
def State.holdWord (s : State) (i : Instr) : Res :=
  match convoyBit i with
  | none => stall s
  | some c =>
    if s.me.starts c then .next (s.modMe (fun f => { f with convoy := { Convoy.none with fresh := f.convoy.fresh } })) else .next s

/-! ### Running ahead (R105, R161, R237) -/

/-- The words that may run ahead of one without its value. -/
inductive AheadKind where
  /-- ALU, immediate, branch and jump forms, and CSR reads that need no drain. -/
  | plain
  | load
  /-- A scalar store, ahead of scalar loads and AMOs alone (log 77). -/
  | store
  | vec
  | other
  deriving DecidableEq, Repr

def aheadKind (i : Instr) : AheadKind :=
  match i with
  | .add .. | .sub .. | .and .. | .or .. | .xor .. | .sll .. | .srl .. | .sra .. | .slt .. | .sltu .. | .min .. | .max ..
  | .minu .. | .maxu .. | .clz .. | .ctz .. | .popc .. | .mul .. | .mulh .. | .mulhu .. | .div .. | .divu .. | .rem ..
  | .remu .. | .slli .. | .srli .. | .srai .. | .addi .. | .andi .. | .ori .. | .xori .. | .slti .. | .sltiu .. | .lih ..
  | .auipc .. | .beq .. | .bne .. | .blt .. | .bge .. | .bltu .. | .bgeu .. | .jal .. | .jalr .. => .plain
  | .csrrd _ c => if decide (c.toNat < 5) || [0x020, 0x030, 0x031].contains c.toNat then .other else .plain
  | .lb .. | .lbu .. | .lh .. | .lhu .. | .lw .. | .lwu .. | .ld .. => .load
  | .sb .. | .sh .. | .sw .. | .sd .. => .store
  | i => if (convoyBit i).isSome then .vec else .other

/-- The words of a flow that have issued without their value. -/
def State.waiting (s : State) (k : FlowKey) : List Defer :=
  if s.ckpts.isEmpty then [] else s.ckpts.filter (fun p => p.before.key == k)

/-- Whether a word without its value is a scalar load or an AMO. -/
def Flow.isScalarLoad (f : Flow) (p : Defer) : Bool := p.vec.isNone && !f.eq.any (fun e => e.seq == p.seq)

/-- Scalar registers that words of a flow will still write. -/
def State.pendingRegs (s : State) (f : Flow) : List Nat :=
  (((f.sb.filter (fun a => a.load && !a.vec)) ++ (s.netLoads f.key).filter (fun a => !a.vec)).map (·.dst) ++
    f.eqDests).filter (· != 0)

/-- Whether a word names a vector register that vector loads of the flow will still write: its operands' groups (a
conversion's source takes up to 8 registers), and the scale register. -/
def Flow.namesGroup (f : Flow) (i : Instr) (own : List Defer) : Bool :=
  let n := match i with
    | .vcvt .. => 8
    | .vwiden .. => 8
    | .vnarrow .. => 8
    | .vquant .. => 8
    | .vdeq .. => 8
    | _ => f.grp
  let scale := if f.svp.getLsbD 6 then [(wbits f.svp 0 6, 1)] else []
  let vs := scale ++ (vectorFields i).map (fun v => (v.toNat, n))
  own.any (fun p => match p.vec with
    | some e => vs.any (fun v => decide (v.1 < e.v + p.before.grp ∧ e.v < v.1 + v.2))
    | none => false)

/-- Whether a word may issue ahead of the flow's words without their value. -/
def State.mayRunAhead (s : State) (own : List Defer) (i : Instr) : Bool :=
  let scalar := own.all s.me.isScalarLoad
  let pend := s.pendingRegs s.me
  own.all (fun p => decide (p.ran < 64)) && !(s.me.named i).any pend.contains &&
    (match aheadKind i with
     | .plain => true
     | .load => scalar && s.ahead
     | .store => scalar
     | .vec => !s.me.namesGroup i own
     | .other => false)

/-- Whether a word that ran ahead has done so: it took no exception, waits for nothing, stands at no pre-emption point, and
has moved on; a scalar load has left its value for later, the grant under which values come has stayed, and no leaf has had its
D bit set: a store that would set it waits, since an undone word leaves memory unchanged (R105, R372). -/
def ranAhead (s t : State) (i : Instr) (own : List Defer) : Bool :=
  t.me.status3 == s.me.status3 && t.me.status == s.me.status && t.me.point == s.me.point && t.me.pc != sentinel &&
    (aheadKind i != .load || decide (s.ckpts.length < t.ckpts.length)) &&
    (own.all (fun p => p.vec.isNone) || t.me.vgnt == s.me.vgnt) &&
    (aheadKind i == .plain || aheadKind i == .load || (decide (t.mem = s.mem) && decide (t.tlb = s.tlb)))

/-- A word that runs ahead; it stays where it is otherwise, until the earlier words have their values. -/
def State.issueAhead (s : State) (i : Instr) (own : List Defer) : Res :=
  if s.mayRunAhead own i then
    match exec i s with
    | .next t =>
      if ranAhead s t i own then
        .next { t with ckpts := t.ckpts.map (fun (p : Defer) => if own.any (fun q => q.seq == p.seq) && p.before.key == s.me.key then { p with ran := p.ran + 1 } else p) }
      else s.holdWord i
    | r => r
  else s.holdWord i

/-! ### Loads that leave one by one (R198, R203) -/

/-- The words that a flow's elements are read from, each with its virtual address. -/
def placeReads (ps : List Place) : List (Nat × Xl × Nat) := (ps.map (fun p => piecesFrom p.va p.xs)).flatten

/-- The same of a range. -/
def State.rangeReads (s : State) (va n : Nat) : List (Nat × Xl × Nat) := piecesFrom va (s.rangeXls (s.ctx s.me) va .r n)

/-- What a word reads whose effect needs all its bytes together: a converting load, PAPPLY, STREAM to a register, the moves into a
slot, a template, a replica's record. -/
def State.readsOf (s : State) (i : Instr) : List (Nat × Xl × Nat) :=
  let f := s.me
  let start := f.startPos
  let elems (m : BitVec 4) (rd : ElemRead) : List (Nat × Xl × Nat) :=
    placeReads (readPositions s f rd (f.vlN - start) start (f.selN m / 2 ^ start)).2.1.flatten
  let rows (base : Nat) (st : Int) (n : Nat) : List (Nat × Xl × Nat) :=
    ((List.range f.rows).map (fun r => s.rangeReads (rowAt base st r) n)).flatten
  let plan (a b : BitVec 5) : List (Nat × Xl × Nat) :=
    match s.planOf f.tenant (f.rd a) with
    | some p => elems 0 (planRead p (f.rd b).toNat)
    | none => []
  match i with
  | .vldw _ _ b m _ r => elems m (widenRead (vldwSrc r.toNat) (f.rd b).toNat none)
  | .vldwScaled _ _ b sc m _ r => elems m (widenRead (vldwSrc (4 + r.toNat)) (f.rd b).toNat (some (f.rd sc).toNat))
  | .papply _ a b _ _ => plan a b
  | .papplySpm _ a b _ => plan a b
  | .streamReg _ a _ => elems 0 (plainRead (.unit (f.rd a).toNat 0))
  | .mlda _ a b t => rows (f.rd a).toNat (f.rd b).toInt (f.slot t).rowBytes
  | .mrmerge _ a t => rows (f.rd a).toNat (8 * (f.slot t).k) (8 * (f.slot t).k)
  | .tdef _ a _ => s.rangeReads (f.rd a).toNat 32
  | .tspawn _ a _ => s.rangeReads (f.rd a).toNat 32
  | .replsel _ a b =>
    s.rangeReads (f.rd a).toNat 4 ++ s.rangeReads ((f.rd a).toNat + 8 + 8 * (wbits (f.rd b) 0 7 % 2)) 8
  | _ => []

/-- The loads of such a word join the strip buffer on a turn that leaves values for later, where the word would go through as
memory stands; the word waits at pc until each has its bytes (R198, R199, R203). -/
def State.startFetch (s : State) (i : Instr) : Option State :=
  if !s.ahead || s.replayOf s.me || s.me.fetch.isSome || !(s.waiting s.me.key).isEmpty then none
  else
    let rs := s.readsOf i
    if rs.isEmpty || rs.any (fun r => r.2.1.index) then none
    else
      match exec i { s with ahead := false } with
      | .next t =>
        if t.me.pc == s.me.pc + 4 && t.me.status3 == s.me.status3 && t.me.status == .running then
          let f := s.me
          some (s.modMe (fun g => { g with
            fetch := some []
            sb := g.sb ++ rs.map (fun r => { f.newAccess r.2.1.pa r.1 r.2.1 with load := true, size := r.2.2, vec := true }) }))
        else none
      | _ => none

/-- Whether loads of the word at pc are still out. -/
def State.fetching (s : State) (f : Flow) : Bool :=
  f.fetch.isSome && (f.sb ++ s.netLoads f.key).any (fun a => a.load && a.seq == f.seq)

/-! ### Issue -/

/-- Whether a flow's word has issued since the flow was as b: it has moved on or begun to wait. -/
def Flow.movedFrom (f b : Flow) : Bool := f.pc != b.pc || f.qBeats != b.qBeats || f.status != b.status

/-- After a word of a flow that was as b before it: in replay mode a quantum that is full ends (R209), and where the word has
issued its sequencer and its core's copies of memory count it (R182, R206). -/
def State.endWord (s : State) (b : Flow) : State :=
  let s := s.modFlow b.key (fun f => if s.replayOf f then { f with qGo := false, qEnd := f.qEnd || f.quantumFull } else f)
  match s.flow? b.key with
  | none => s
  | some f =>
    if f.movedFrom b then
      let s := s.modFlow b.key (fun f => { f with issued := s.issueCtr, fetch := none })
      State.agePeers (State.ageL1 { s with issueCtr := s.issueCtr + 1 } b.loc.coreIdx) b.loc.coreIdx
    else s

/-- Whether a flow issues words: Running, not stopped at a point, not at the return sentinel (R180), and in replay mode
within its quantum. -/
def State.issues (s : State) (f : Flow) : Bool :=
  f.status == .running && f.point.isNone && f.pc != sentinel && !(s.replayOf f && f.qEnd && !f.qGo)

/-- What a word has been charged counts to the words without their value that it issued behind, and to its own (R105,
R161). -/
def State.noteCost (s t : State) : State :=
  if t.ckpts.isEmpty then t
  else
    let fj := (t.ten s.me.tenant).spent - (s.ten s.me.tenant).spent
    { t with ckpts := t.ckpts.map (fun (p : Defer) => if p.before.key = s.me.key then { p with cost := p.cost + fj } else p) }

/-- The word of the flow whose turn it is, or the trap of its fetch. -/
def State.issue (s : State) : Res :=
  if s.issues s.me then
    let own := s.waiting s.me.key
    match s.nextWord with
    | .error t => if own.isEmpty then .next ((s.trap t).endWord s.me) else stall s
    | .ok i =>
      if s.me.busyFor i || s.beatsDue i || s.fetching s.me then (s.endQuantum i).holdWord i
      else
        match s.startFetch i with
        | some t => .next t
        | none =>
        match (if own.isEmpty then exec i s else s.issueAhead i own) with
        | .next t => .next ((s.noteCost t).endWord s.me)
        | r => r
  else .next s

/-- The issue of the word of a flow that is brought to its turn. -/
def State.issueOf (s : State) (k : FlowKey) : Res :=
  match s.flow? k with
  | some _ => (s.swapIn k).issue
  | none => .next s

/-- The issue of a word that leaves its value for later (R105, R161, R237): any other word issues as ever. -/
def State.issueAheadOf (s : State) (k : FlowKey) : Res :=
  match State.issueOf { s with ahead := true } k with
  | .next t => .next { t with ahead := false }
  | r => r

end Sys2Proof.Machine
end

