-- ==== Sys2Proof/Machine/Policy.lean ====
section
/-! DEFINITION. What moves next. The environment's turns come first (State.sched); where it names none, a part that can
act does, in the order below, and then a flow issues its word. Which enabled part moves is free by R198; every order is
some list of turns. -/

namespace Sys2Proof.Machine

/-- The first step of a list whose condition holds. -/
def firstOn : List (Bool × (State → Res)) → Option (State → Res)
  | [] => none
  | (b, i) :: rest => if b then some i else firstOn rest

/-! ### Parts that can act -/

/-- Accesses on their way: the oldest heads its queue. -/
def State.netMove (s : State) : Option (State → Res) :=
  match s.net with
  | [] => none
  | fl :: _ => some (if fl.path.length ≤ 1 then execEvApply 0 else execEvPass 0)

/-- The first access of a strip buffer that can leave it: a load TAKEs where it can, another load and an AMO are SENT, a
store ENTERs; in replay mode stores stay in the log (R209). -/
def State.sbMove (s : State) (f : Flow) : Option (State → Res) :=
  f.sb.zipIdx.findSome? (fun p =>
    if p.1.load then
      if s.loadMayGo f p.1 && s.canTake f p.1 then some (execEvTake f.key p.2)
      else if s.canSend f p.1 then some (execEvSend f.key (some p.2))
      else none
    else if s.mayLeave f p.1 && !s.replayOf f then some (execEvEnter f.key p.2) else none)

/-- The Sluice's next step for a binding. -/
def State.ttMove? (s : State) (f : Flow) : Option (State → Res) :=
  match f.tt with
  | none => none
  | some b =>
    if !s.engineFree f.key then none
    else if s.lineDue f b then some (execEvTimetableLineRead f.key)
    else
      match b.ents.find? (fun e => e.st == 4 && (e.lane.isSome || !f.saving)), b.ents.find? (fun e => s.ttReady f b e && s.ttFits f b e), b.check with
      | some e, _, _ => some (execEvTimetableEntryDone f.key e.idx)
      | none, some e, _ => some (execEvTimetableEntryStart f.key e.idx)
      | none, none, some m =>
        if b.readFor m && (!b.begun || b.checkEnded) then some (execEvMarkCheckComplete f.key) else none
      | none, none, none => none

/-- What a flow's engines can do for it: acceptance, the Sluice. -/
def State.engineMove (s : State) (f : Flow) : Option (State → Res) :=
  if s.acceptable f then some (execEvAccept f.key) else s.ttMove? f

/-- A result under way. -/
def Flow.busyMove (f : Flow) : Option (State → Res) :=
  f.busy.head?.map (fun p => execEvScalarResultWrite f.key (BitVec.ofNat 5 p.1))

/-- A landing entry that is complete. -/
def Flow.landMove (f : Flow) : Option (State → Res) :=
  (f.tags.zipIdx.find? (fun p => match p.1 with | .pending e => e.complete | _ => false)).map
    (fun p => execEvLandingDelivered f.key (BitVec.ofNat 4 p.2))

/-- The partner of a flow that waits at a VXLANE. -/
def State.pairMove (s : State) (f : Flow) : Option (State → Res) :=
  match f.status with
  | .waiting (.vxlane ..) => (s.flows.find? (fun g => (vxlanePair f g).isSome)).map (fun g => execEvVxlaneExchange f.key g.key)
  | _ => none

/-- A lane group on which a flow's convoy can advance. -/
def State.laneMove (s : State) (f : Flow) : Option (State → Res) :=
  if f.cv.isNone && f.vq.isEmpty then none else ((List.range 8).find? (fun j => s.readyOn f j)).map (fun j => execEvVseqAdvance f.loc.coreIdx j)

/-- Steps of one flow, its save before the end of its wait. -/
def State.flowMove (s : State) (f : Flow) : Option (State → Res) :=
  if f.status = .free ∨ f.status = .saved then none
  else
    (firstOn [(s.saveDue f, execEvPreemptSave f.key),
      (s.waitMet f, execEvWaitSatisfied f.key),
      (f.convoyReady, execEvConvoyStart f.key)]).orElse fun _ =>
    (s.laneMove f).orElse fun _ =>
    f.busyMove.orElse fun _ =>
    f.landMove.orElse fun _ =>
    (firstOn [(f.mxDone, execEvMatrixWordComplete f.key), (!f.cq.isEmpty, execEvSend f.key none)]).orElse fun _ =>
    (s.pairMove f).orElse fun _ =>
    (s.sbMove f).orElse fun _ =>
    (s.engineMove f).orElse fun _ =>
    firstOn [(f.atEnd && s.wordsDone f && s.engineFree f.key &&
      !(f.moving && (match f.tt with | some b => b.stopping | none => false)), execEvTaskEnd f.key)]

/-- Whether the lock of a copy is its engine's next to take (R297). -/
def State.lockTurn (s : State) (j : Job) : Bool :=
  !(s.copies j.clusterIdx).any (fun i => match i.copy? with
    | some d => d.lock.isSome || (d.locking && decide (i.id < j.id))
    | none => false)

/-- The next step of an engine's command. -/
def State.jobMove (s : State) (j : Job) : Option (State → Res) :=
  if !s.engineFree j.flow then none
  else
    match j.kind with
    | .build b => some (if s.buildRead j b then execEvPlanBuildComplete j.id else execEvEaccess j.id false)
    | .copy c =>
      let reads : Bool := match c.phase with
        | .lock => s.lockTurn j
        | .table => true
        | .move => !c.readsLeft.isEmpty || s.laneFree j c
        | _ => false
      let writes : Bool := match c.phase with
        | .move => !c.writesLeft.isEmpty || (c.allSent && (match c.form with | .cow .. => s.jobPerformed j.id 4 | _ => true))
        | .finish => true
        | .unlock => s.jobPerformed j.id c.scope
        | _ => false
      firstOn [(c.chunks.any (fun x => x.err.isSome), execEvEaccess j.id false),
        (c.readDone && !c.released, execEvPoint j.id false),
        (c.released && s.visibleDue j c, execEvPoint j.id true),
        (writes, execEvEaccess j.id true),
        (reads, execEvEaccess j.id false)]

/-- The next step of a row. -/
def State.rowMove (s : State) (r : Row) : Option (State → Res) :=
  if !s.engineFree r.sender then none
  else
    match r.st with
    | .sent => some (execEvRowArrive r.id)
    | .written => if s.net.any (fun fl => fl.origin == .row r.id) then none else some (execEvRowCounterIncrement r.id)
    | .answered _ => some (execEvRowAnswer r.id)

/-- A barrier that can be passed. -/
def State.barMove (s : State) (l : Launch) : Option (State → Res) :=
  (l.barArr.find? (fun p => s.barReady l p.1.2)).map (fun p => execEvBarRelease l.id p.1.2)

/-- Whether the router has a request to make for the head record of a level (R375). -/
def State.asks (s : State) (t prio : Nat) (r : LRec) (vllo : Nat) : Bool :=
  (s.asksFor t r vllo).any (fun f => !f.asked.contains (askId t prio))

/-- The router's next step for a tenant. -/
def State.routerMove (s : State) (t : Nat) : Option (State → Res) :=
  if (s.ten t).queue.isEmpty || !(s.ten t).live then none
  else
    ([3, 2, 1, 0].find? (fun p =>
      match s.routeHead t p with
      | .refuse .. => true
      | .place .. => !s.savedFirst p
      | .lacks r v => s.asks t p r v
      | .wait => false)).map (fun p => execEvLaunchPlace t p)

/-- A coherence message arrives. -/
def CMsg.move : CMsg → State → Res
  | .fwd .. => execEvFwd 0
  | .inv .. => execEvInv 0
  | .binv .. => execEvBinv 0
  | .data .. => execEvData 0
  | .ack .. => execEvAck 0
  | .done .. => execEvDone 0

/-- Steps of the device's own parts. -/
def State.deviceMove (s : State) : Option (State → Res) :=
  ((s.seqrs.find? s.idleSeqr).map (fun q => execEvVseqAdvance q.core q.lane)).orElse fun _ =>
  (firstOn [(!s.evFlight.isEmpty, execEvEventRecordDelivered 0),
    ((match s.coh.flips with | c :: _ => c.started && c.waiting.isEmpty | [] => false), execEvBiasFlipComplete),
    (!s.dev.repairs.isEmpty, execEvRepairComplete)]).orElse fun _ =>
  (s.launches.findSome? s.barMove).orElse fun _ =>
  ((s.launches.find? (fun l => !s.launchBusy l)).map (fun l => execEvLaunchEnd l.id)).orElse fun _ =>
  (if s.tasks.isEmpty then none
   else ([0, 1, 2, 3].find? (fun d => (s.nextTask d).isSome)).map execEvTaskDispatch).orElse fun _ =>
  ((s.tenants.zipIdx.find? (fun p => s.shootDue p.2)).map (fun p => execEvShootdownComplete p.2)).orElse fun _ =>
  (if s.saves.isEmpty then none else s.nextResume.map (fun p => execEvResume p.1.key)).orElse fun _ =>
  ((List.range 17).findSome? s.routerMove).orElse fun _ =>
  (s.coh.msgs.head?.map CMsg.move).orElse fun _ =>
  ((s.peerCopies.find? (fun p => p.dirty)).map (fun p => execEvWriteback p.addr)).orElse fun _ =>
  ((List.range 17).find? s.boundaryDue).map execEvReplayBoundary

/-- Engine steps. -/
def State.workMove (s : State) : Option (State → Res) :=
  s.netMove.orElse fun _ => (s.jobs.findSome? s.jobMove).orElse fun _ => s.rows.findSome? s.rowMove

/-- The next step of a part other than a flow's word. -/
def State.move? (s : State) : Option (State → Res) :=
  s.workMove.orElse fun _ => (s.flows.findSome? s.flowMove).orElse fun _ => s.deviceMove

/-- A copy that waits to try its lock again, when nothing else moves (R297). -/
def State.retryMove (s : State) : Option (State → Res) :=
  (s.jobs.find? (fun j => match j.copy? with | some c => c.phase == .retry && s.engineFree j.flow | none => false)).map
    (fun j => execEvTableLockRetry j.id)

/-- The first flow of a list whose word goes on, or begins to wait, has its turn; one that cannot hands it on (R182). -/
def State.issueFirst (s : State) : List FlowKey → Option Res
  | [] => none
  | k :: ks =>
    match s.issueOf k with
    | .next t => if t.flow? k = s.flow? k then s.issueFirst ks else some (.next t)
    | r => some r

/-- A step of the machine's own choice. Of the flows that can issue, the one that issued least recently does: so it is
between the two of one sequencer (R182). -/
def State.auto (s : State) : Res :=
  match s.move? with
  | some i => i s
  | none =>
    match s.issueFirst ((sortBy (fun f => f.issued) (s.flows.filter s.issues)).map (·.key)) with
    | some r => r
    | none =>
      match s.retryMove with
      | some i => i s
      | none => .next s

/-! ### Turns of the environment -/

/-- The steps that have no encoding: an encoded word runs where a flow fetches it, and nowhere else. -/
def isEvent (i : Instr) : Bool := (encodeNat i).isNone

/-- The flow that shares a sequencer with another, where it can issue and issued less recently (R182). -/
def State.sharers (s : State) (k : FlowKey) : List FlowKey :=
  match s.flow? k with
  | none => []
  | some f => (s.flows.filter (fun g =>
      g.loc.coreIdx == f.loc.coreIdx && g.sequencer == f.sequencer && decide (g.issued < f.issued) && s.issues g)).map (·.key)

/-- A turn of a flow's sequencer: of its two flows the one named issues, but the other where both can issue and that one
issued less recently (R182). -/
def State.turnOf (s : State) (k : FlowKey) (issue : State → FlowKey → Res) : Res :=
  match s.issueFirst (s.sharers k) with
  | some r => r
  | none => issue s k

/-- A turn. -/
def State.turn (s : State) (t : Turn) : Res :=
  match t with
  | .flow k => s.turnOf k State.issueOf
  | .ahead k => s.turnOf k State.issueAheadOf
  | .event i => if isEvent i then exec i s else .next s

/-! ### The replay boundary (R209) -/

/-- The words that act in their flow's turn for its stores: AMOs, and what rules call an AMO (R205, R306, R311). -/
def isAmo : Instr → Bool
  | .amoswap .. => true
  | .amoadd .. => true
  | .amoand .. => true
  | .amoor .. => true
  | .amomax .. => true
  | .amomin .. => true
  | .amocas .. => true
  | .tdec .. => true
  | .evpost .. => true
  | _ => false

/-- Whether a flow's quantum has ended at a word that the boundary has still to run. -/
def Flow.wordDue (f : Flow) : Bool :=
  f.qEnd && !f.quantumFull && !f.qGo && f.status == .running && f.point.isNone && f.pc != sentinel

/-- The word that ended a flow's quantum, if `p` selects it, runs now; `qGo` marks that the boundary has run it. One that
still cannot go on ends the next quantum too. -/
def State.runEnding (s : State) (k : FlowKey) (p : Instr → Bool) : Res :=
  match s.flow? k with
  | none => .next s
  | some f =>
    let hit := match (s.swapIn k).nextWord with | .ok i => p i | .error _ => p (.sys 0)
    if f.wordDue && hit then
      match (s.modFlow k (fun f => { f with qEnd := false, qGo := true })).issueOf k with
      | .next t => .next (t.modFlow k (fun f => { f with qGo := true }))
      | r => r
    else .next s

/-- A flow's next engine step at its turn for its commands. -/
def State.replayWork (s : State) (k : FlowKey) : Option (State → Res) :=
  s.workMove.orElse fun _ =>
    match s.flow? k with
    | none => none
    | some f =>
      (s.engineMove f).orElse fun _ =>
        firstOn [(f.atEnd && s.wordsDone f && !(f.moving && (match f.tt with | some b => b.stopping | none => false)), execEvTaskEnd k)]

/-- The boundary of a flow's context is over: memory is what its loads now read (R209). -/
def State.snap (s : State) (k : FlowKey) : State :=
  match s.flow? k with
  | some f => { s with snaps := (f.tenant, s.mem, s.memKey) :: s.snaps.filter (fun p => p.1 != f.tenant) }
  | none => s

/-- One step of a boundary: of each flow in turn first the stores, then the AMO; then of each the commands, and a word that
waited for the boundary with what it starts. -/
def State.replayStep (s : State) (q : FlowKey × Bool) (rest : List (FlowKey × Bool)) : Res :=
  let k := q.1
  if q.2 then
    match s.replayWork k with
    | some i => i s
    | none =>
      if (match s.flow? k with | some f => f.wordDue | none => false) then s.runEnding k (fun _ => true)
      else
        let t := { s with replayQ := rest }.modFlow k (fun f => { f with qGo := false, qEnd := false, qBeats := 0 })
        .next (if rest.isEmpty then t.snap k else t)
  else State.runEnding ({ s with replayQ := rest }.applyLog k) k isAmo

end Sys2Proof.Machine
end

