-- ==== Sys2Proof/Machine/Step.lean ====
section
/-! DEFINITION. One step of the machine, and a state that fetches a given word next. -/

namespace Sys2Proof.Machine

/-- One step. A module without power takes none but POWER_ON (R6); a replay boundary under way goes on (R209); then the
environment's next turn; then a part of the machine's own choice. A step whose accesses have to wait for the host's answer to a snoop
sends that alone (R421). -/
def step (s : State) : Host.Outcome State Fault Refusal :=
  if s.dev.power then
    match s.replayQ, s.sched with
    | q :: rest, _ => s.snoopGate (s.replayStep q rest)
    | [], t :: ts => State.snoopGate { s with sched := ts } (State.turn { s with sched := ts } t)
    | [], [] => s.snoopGate s.auto
  else
    match s.sched with
    | .event .evPowerOn :: ts => exec .evPowerOn { s with sched := ts }
    | _ => .fault .poweredOff

/-- Where `withFetchWord` places the word: a virtual address below 1 GiB, mapped to the same physical address. -/
def codePc : Nat := 0x20000

/-- The flow whose turn it is, Running at the word with nothing of its own under way. The word starts a convoy whatever
its C bit, as one that ERET continues at (R82), so that words with C = 0 run. -/
def Flow.atWord (f : Flow) : Flow :=
  { f with
    status := .running
    pc := w64 codePc
    point := none
    issued := 0
    convoy := { Convoy.none with fresh := true }
    sb := []
    cq := []
    vsq := []
    fences := []
    eq := []
    busy := []
    reserved := []
    fetch := none
    qEnd := false
    qGo := false }

/-- The tenant's root table at 0x10000, for a live context whose window is all of HBM. -/
def Tenant.atWord (t : Tenant) : Tenant :=
  { t with live := true, wbase := 0, wlimit := 0xF000000000, ptroot := 0x10000 }

/-- The page tables of that context: two table pointers and a 1 GiB leaf that allows everything and is dirty (R392,
R393); then the word, in the bytes that hold it (R74). -/
def State.placeWord (s : State) (w : Nat) : State :=
  (((s.setBytes 0x10000 0 (bytesLE 8 0x11001)).setBytes 0x11000 0 (bytesLE 8 0x12001)).setBytes 0x12000 0
    (bytesLE 8 0x5F)).setBytes codePc 0 (wordBytes w)

/-- The state in which the flow whose turn it is fetches word w next (log 41: this stands for the load of a program, its
launch and its dispatch). -/
def State.withFetchWord (s : State) (nbits w : Nat) : State :=
  let k := s.me.key
  let s := (({ s with me := s.me.atWord }).modTen s.me.tenant Tenant.atWord).placeWord (w % 2 ^ nbits)
  { s with
    dev := { s.dev with power := true, dieLost := 0 }
    sched := .flow k :: s.sched
    replayQ := []
    ahead := false
    tlb := s.tlb.filter (fun e => e.tenant != s.me.tenant)
    bad := s.bad.filter (fun a => decide (0x30000 ≤ a))
    badCache := s.badCache.filter (fun a => decide (0x30000 ≤ a))
    l1 := s.l1.filter (fun b => decide (0x30000 ≤ b.addr))
    walks := s.walks.filter (fun p => p.tenant != s.me.tenant)
    ckpts := s.ckpts.filter (fun p => p.before.key != k)
    net := s.net.filter (fun fl => !(match fl.origin with | .flow j _ => j == k | _ => false)) }

end Sys2Proof.Machine
end

