-- ==== Sys2Proof/Safety.lean ====
section
/-! DEFINITION. The terms claims use: what every state of a run satisfies, and what an instruction leaves alone. -/

namespace Sys2Proof.Machine

/-- Both memories are in canonical form: equal memories are equal data. -/
def State.memWf (s : State) : Prop := s.mem.wf = true ∧ s.memKey.wf = true

/-- Everything but the flow whose turn it is, the charges (R363) and the machine's counters of free values stands. -/
def State.sameOutside (s t : State) : Prop :=
  t.mem = s.mem ∧ t.memKey = s.memKey ∧ t.rest = s.rest ∧ t.net = s.net ∧ t.bad = s.bad ∧ t.badCache = s.badCache ∧ t.reg = s.reg ∧
    t.l1 = s.l1 ∧ t.peerCopies = s.peerCopies ∧ t.dev = s.dev ∧ t.jobs = s.jobs ∧ t.rows = s.rows ∧
    t.tasks = s.tasks ∧ t.plans = s.plans ∧ t.watches = s.watches ∧ t.saves = s.saves ∧ t.tlb = s.tlb ∧
    t.coh = s.coh ∧ t.evFlight = s.evFlight

/-- The accumulators, special registers and exception registers of a flow stand: slots and their quarters, landing
tags, CAUSE, EPC, EVAL, STATUS, SVP, VPROG, VGNT, VL, VTYPE, TTCUR, TTMISS. -/
def Flow.sameSpecial (f g : Flow) : Prop :=
  g.slots = f.slots ∧ g.qm = f.qm ∧ g.tags = f.tags ∧ g.cause = f.cause ∧ g.epc = f.epc ∧ g.eval = f.eval ∧
    g.status3 = f.status3 ∧ g.preq = f.preq ∧ g.svp = f.svp ∧ g.vgnt = f.vgnt ∧ g.vl = f.vl ∧ g.vtype = f.vtype ∧
    g.ttcur = f.ttcur ∧ g.ttmiss = f.ttmiss ∧ g.ctags = f.ctags ∧ g.act = f.act

/-- The byte that a load of physical address a under key k would find at its point of service. -/
def State.byteAt (s : State) (a key : Nat) : Byte := s.pointByte a key

/-- A run is safe while the memories are canonical. -/
def State.safe (s : State) : Prop := s.memWf

end Sys2Proof.Machine
end

