-- ==== Sys2Proof/Laws/Mem.lean ====
section
/-! SUPPORT. Memory: a read after a write, and every operation keeps the canonical form. -/

namespace Sys2Proof.Machine

@[simp] theorem Memory.get_nil (a : Nat) : Memory.get [] a = unlisted := rfl

/-- An address below every listed one reads as the unlisted byte. -/
theorem Memory.get_below {m : Memory} : ∀ {lo a : Nat}, m.wfFrom lo = true → a < lo → m.get a = unlisted := by
  induction m with
  | nil => intros; rfl
  | cons c rest ih =>
    intro lo a h hlt
    obtain ⟨b, y⟩ := c
    simp only [Memory.wfFrom, Bool.and_eq_true, decide_eq_true_eq] at h
    have hb : b ≠ a := by omega
    simp only [Memory.get, if_neg hb]
    exact ih h.2 (by omega)

/-- The bound of the canonical form may be lowered. -/
theorem Memory.wfFrom_mono {m : Memory} {lo hi : Nat} (h : m.wfFrom hi = true) (hle : lo ≤ hi) : m.wfFrom lo = true := by
  cases m with
  | nil => rfl
  | cons c rest =>
    obtain ⟨b, y⟩ := c
    simp only [Memory.wfFrom, Bool.and_eq_true, decide_eq_true_eq] at h ⊢
    exact ⟨⟨by omega, h.1.2⟩, h.2⟩

/-- A write keeps the canonical form from any bound at or below its address. -/
theorem Memory.set_wfFrom {m : Memory} (x : Byte) : ∀ {lo a : Nat}, m.wfFrom lo = true → lo ≤ a → (m.set a x).wfFrom lo = true := by
  induction m with
  | nil =>
    intro lo a _ hle
    by_cases hx : x = unlisted <;> simp [Memory.set, Memory.wfFrom, hx, hle]
  | cons c rest ih =>
    intro lo a h hle
    obtain ⟨b, y⟩ := c
    have h' := h
    simp only [Memory.wfFrom, Bool.and_eq_true, decide_eq_true_eq] at h'
    obtain ⟨⟨hb, hy⟩, hr⟩ := h'
    simp only [Memory.set]
    split
    · split
      · exact h
      · rename_i hab hx
        simp only [Memory.wfFrom, Bool.and_eq_true, decide_eq_true_eq]
        exact ⟨⟨hle, hx⟩, ⟨by omega, hy⟩, hr⟩
    · split
      · split
        · exact Memory.wfFrom_mono hr (by omega)
        · rename_i hab hx
          subst hab
          simp only [Memory.wfFrom, Bool.and_eq_true, decide_eq_true_eq]
          exact ⟨⟨hle, hx⟩, hr⟩
      · simp only [Memory.wfFrom, Bool.and_eq_true, decide_eq_true_eq]
        exact ⟨⟨hb, hy⟩, ih hr (by omega)⟩

/-- A write keeps the canonical form. -/
theorem Memory.set_wf {m : Memory} (h : m.wf = true) (a : Nat) (x : Byte) : (m.set a x).wf = true :=
  Memory.set_wfFrom x h (Nat.zero_le a)

theorem Memory.setN_wf : ∀ (bs : List Byte) {m : Memory} (_ : m.wf = true) (a : Nat), (m.setN a bs).wf = true
  | [], _, h, _ => h
  | b :: later, _, h, a => Memory.setN_wf later (Memory.set_wf h a b) (a + 1)

theorem Memory.filter_wfFrom (p : Host.Cell → Bool) {m : Memory} : ∀ {lo : Nat}, m.wfFrom lo = true →
    Memory.wfFrom (List.filter p m) lo = true := by
  induction m with
  | nil => intros; rfl
  | cons c rest ih =>
    intro lo h
    obtain ⟨b, y⟩ := c
    simp only [Memory.wfFrom, Bool.and_eq_true, decide_eq_true_eq] at h
    obtain ⟨⟨hb, hy⟩, hr⟩ := h
    by_cases hp : p (b, y) = true
    · simp only [List.filter, hp, Memory.wfFrom, Bool.and_eq_true, decide_eq_true_eq]
      exact ⟨⟨hb, hy⟩, ih hr⟩
    · simp only [List.filter, hp]
      exact Memory.wfFrom_mono (ih hr) (by omega)

/-- Dropping entries keeps the canonical form. -/
theorem Memory.filter_wf (p : Host.Cell → Bool) {m : Memory} (h : m.wf = true) : Memory.wf (List.filter p m) = true :=
  Memory.filter_wfFrom p h

theorem Memory.setWord_wf {m : Memory} (h : m.wf = true) (a data en : Nat) : (m.setWord a data en).wf = true := by
  refine List.foldlRecOn (motive := fun (n : Memory) => n.wf = true) (List.range 8) _ h (fun n hn i _ => ?_)
  dsimp only
  split
  · exact hn
  · exact Memory.set_wf hn _ _

/-- A read of the byte just written gives the value written. -/
theorem Memory.get_set_same (a : Nat) (x : Byte) : ∀ {m : Memory} {lo : Nat}, m.wfFrom lo = true → (m.set a x).get a = x := by
  intro m
  induction m with
  | nil => intro lo _; by_cases hx : x = unlisted <;> simp [Memory.set, Memory.get, hx]
  | cons c rest ih =>
    intro lo h
    obtain ⟨b, y⟩ := c
    simp only [Memory.wfFrom, Bool.and_eq_true, decide_eq_true_eq] at h
    obtain ⟨⟨_, _⟩, hr⟩ := h
    simp only [Memory.set]
    split
    · rename_i hab
      split
      · rename_i hx
        have : b ≠ a := by omega
        simp only [Memory.get, if_neg this]
        rw [hx]; exact Memory.get_below hr (by omega)
      · simp [Memory.get]
    · split
      · rename_i hab
        subst hab
        split
        · rename_i hx; rw [hx]; exact Memory.get_below hr (by omega)
        · simp [Memory.get]
      · rename_i h1 h2
        have : b ≠ a := fun e => h2 e.symm
        simp only [Memory.get, if_neg this]
        exact ih hr

/-- A write leaves every other byte alone. -/
theorem Memory.get_set_other {a c : Nat} (x : Byte) (hne : c ≠ a) : ∀ {m : Memory}, (m.set a x).get c = m.get c := by
  intro m
  have hne' : a ≠ c := fun e => hne e.symm
  induction m with
  | nil => by_cases hx : x = unlisted <;> simp [Memory.set, Memory.get, hx, hne']
  | cons d rest ih =>
    obtain ⟨b, y⟩ := d
    simp only [Memory.set]
    split
    · split
      · rfl
      · simp [Memory.get, hne']
    · split
      · rename_i hab
        subst hab
        split <;> simp [Memory.get, hne']
      · simp only [Memory.get]
        split
        · rfl
        · exact ih

/-- Bytes outside a run of writes stand. -/
theorem Memory.get_setN_other (bs : List Byte) : ∀ {m : Memory} {a c : Nat}, (c < a ∨ a + bs.length ≤ c) →
    (m.setN a bs).get c = m.get c := by
  induction bs with
  | nil => intros; rfl
  | cons b bs ih =>
    intro m a c h
    simp only [List.length_cons] at h
    simp only [Memory.setN]
    rw [ih (by omega), Memory.get_set_other _ (by omega)]

theorem State.reset_memWf : State.reset.memWf := ⟨rfl, rfl⟩

/-! ### Operations on both memories -/

theorem State.setByte_memWf {s : State} (h : s.memWf) (pa key : Nat) (x : Byte) : (s.setByte pa key x).memWf :=
  ⟨Memory.set_wf h.1 _ _, Memory.set_wf h.2 _ _⟩

theorem State.setBytes_memWf : ∀ (bs : List Byte) {s : State} (_ : s.memWf) (pa key : Nat), (s.setBytes pa key bs).memWf
  | [], _, h, _, _ => h
  | b :: later, _, h, pa, key => State.setBytes_memWf later (State.setByte_memWf h pa key b) (pa + 1) key

/-- A state with the same two memories has the same form. -/
theorem State.memWf_of_eq {s t : State} (h : s.memWf) (h1 : t.mem = s.mem) (h2 : t.memKey = s.memKey) : t.memWf := by
  unfold State.memWf; rw [h1, h2]; exact h

/-- An operation made once for each part of a list keeps the form, where each time it does. -/
theorem State.foldl_memWf {α : Type} {s : State} (start : s.memWf) (g : State → α → State) (parts : List α)
    (each : ∀ t x, x ∈ parts → t.memWf → (g t x).memWf) : (parts.foldl g s).memWf :=
  List.foldlRecOn (motive := State.memWf) parts g start (fun t ht x hx => each t x hx ht)

end Sys2Proof.Machine
end

