-- ==== Sys2Proof/Laws/State.lean ====
section
/-! SUPPORT. One lemma for each field and each update of a state or a flow, so that no proof unfolds a record update. -/

namespace Sys2Proof.Machine

/-! `setMe` -/

@[simp] theorem State.setMe_me (s : State) (f : Flow) : (s.setMe f).me = f := rfl
@[simp] theorem State.setMe_rest (s : State) (f : Flow) : (s.setMe f).rest = s.rest := rfl
@[simp] theorem State.setMe_sched (s : State) (f : Flow) : (s.setMe f).sched = s.sched := rfl
@[simp] theorem State.setMe_ahead (s : State) (f : Flow) : (s.setMe f).ahead = s.ahead := rfl
@[simp] theorem State.setMe_dev (s : State) (f : Flow) : (s.setMe f).dev = s.dev := rfl
@[simp] theorem State.setMe_tenants (s : State) (f : Flow) : (s.setMe f).tenants = s.tenants := rfl
@[simp] theorem State.setMe_launches (s : State) (f : Flow) : (s.setMe f).launches = s.launches := rfl
@[simp] theorem State.setMe_tasks (s : State) (f : Flow) : (s.setMe f).tasks = s.tasks := rfl
@[simp] theorem State.setMe_taskGens (s : State) (f : Flow) : (s.setMe f).taskGens = s.taskGens := rfl
@[simp] theorem State.setMe_mem (s : State) (f : Flow) : (s.setMe f).mem = s.mem := rfl
@[simp] theorem State.setMe_memKey (s : State) (f : Flow) : (s.setMe f).memKey = s.memKey := rfl
@[simp] theorem State.setMe_bad (s : State) (f : Flow) : (s.setMe f).bad = s.bad := rfl
@[simp] theorem State.setMe_badCache (s : State) (f : Flow) : (s.setMe f).badCache = s.badCache := rfl
@[simp] theorem State.setMe_reg (s : State) (f : Flow) : (s.setMe f).reg = s.reg := rfl
@[simp] theorem State.setMe_amoRuns (s : State) (f : Flow) : (s.setMe f).amoRuns = s.amoRuns := rfl
@[simp] theorem State.setMe_l1 (s : State) (f : Flow) : (s.setMe f).l1 = s.l1 := rfl
@[simp] theorem State.setMe_peerCopies (s : State) (f : Flow) : (s.setMe f).peerCopies = s.peerCopies := rfl
@[simp] theorem State.setMe_net (s : State) (f : Flow) : (s.setMe f).net = s.net := rfl
@[simp] theorem State.setMe_jobs (s : State) (f : Flow) : (s.setMe f).jobs = s.jobs := rfl
@[simp] theorem State.setMe_rows (s : State) (f : Flow) : (s.setMe f).rows = s.rows := rfl
@[simp] theorem State.setMe_evFlight (s : State) (f : Flow) : (s.setMe f).evFlight = s.evFlight := rfl
@[simp] theorem State.setMe_plans (s : State) (f : Flow) : (s.setMe f).plans = s.plans := rfl
@[simp] theorem State.setMe_planGens (s : State) (f : Flow) : (s.setMe f).planGens = s.planGens := rfl
@[simp] theorem State.setMe_watches (s : State) (f : Flow) : (s.setMe f).watches = s.watches := rfl
@[simp] theorem State.setMe_resident (s : State) (f : Flow) : (s.setMe f).resident = s.resident := rfl
@[simp] theorem State.setMe_saves (s : State) (f : Flow) : (s.setMe f).saves = s.saves := rfl
@[simp] theorem State.setMe_seqrs (s : State) (f : Flow) : (s.setMe f).seqrs = s.seqrs := rfl
@[simp] theorem State.setMe_tlb (s : State) (f : Flow) : (s.setMe f).tlb = s.tlb := rfl
@[simp] theorem State.setMe_walks (s : State) (f : Flow) : (s.setMe f).walks = s.walks := rfl
@[simp] theorem State.setMe_coh (s : State) (f : Flow) : (s.setMe f).coh = s.coh := rfl
@[simp] theorem State.setMe_ckpts (s : State) (f : Flow) : (s.setMe f).ckpts = s.ckpts := rfl
@[simp] theorem State.setMe_replayQ (s : State) (f : Flow) : (s.setMe f).replayQ = s.replayQ := rfl
@[simp] theorem State.setMe_snaps (s : State) (f : Flow) : (s.setMe f).snaps = s.snaps := rfl
@[simp] theorem State.setMe_nextId (s : State) (f : Flow) : (s.setMe f).nextId = s.nextId := rfl
@[simp] theorem State.setMe_freeCtr (s : State) (f : Flow) : (s.setMe f).freeCtr = s.freeCtr := rfl
@[simp] theorem State.setMe_issueCtr (s : State) (f : Flow) : (s.setMe f).issueCtr = s.issueCtr := rfl

/-! `modMe` -/

@[simp] theorem State.modMe_me (s : State) (g : Flow → Flow) : (s.modMe g).me = g s.me := rfl
@[simp] theorem State.modMe_rest (s : State) (g : Flow → Flow) : (s.modMe g).rest = s.rest := rfl
@[simp] theorem State.modMe_sched (s : State) (g : Flow → Flow) : (s.modMe g).sched = s.sched := rfl
@[simp] theorem State.modMe_ahead (s : State) (g : Flow → Flow) : (s.modMe g).ahead = s.ahead := rfl
@[simp] theorem State.modMe_dev (s : State) (g : Flow → Flow) : (s.modMe g).dev = s.dev := rfl
@[simp] theorem State.modMe_tenants (s : State) (g : Flow → Flow) : (s.modMe g).tenants = s.tenants := rfl
@[simp] theorem State.modMe_launches (s : State) (g : Flow → Flow) : (s.modMe g).launches = s.launches := rfl
@[simp] theorem State.modMe_tasks (s : State) (g : Flow → Flow) : (s.modMe g).tasks = s.tasks := rfl
@[simp] theorem State.modMe_taskGens (s : State) (g : Flow → Flow) : (s.modMe g).taskGens = s.taskGens := rfl
@[simp] theorem State.modMe_mem (s : State) (g : Flow → Flow) : (s.modMe g).mem = s.mem := rfl
@[simp] theorem State.modMe_memKey (s : State) (g : Flow → Flow) : (s.modMe g).memKey = s.memKey := rfl
@[simp] theorem State.modMe_bad (s : State) (g : Flow → Flow) : (s.modMe g).bad = s.bad := rfl
@[simp] theorem State.modMe_badCache (s : State) (g : Flow → Flow) : (s.modMe g).badCache = s.badCache := rfl
@[simp] theorem State.modMe_reg (s : State) (g : Flow → Flow) : (s.modMe g).reg = s.reg := rfl
@[simp] theorem State.modMe_amoRuns (s : State) (g : Flow → Flow) : (s.modMe g).amoRuns = s.amoRuns := rfl
@[simp] theorem State.modMe_l1 (s : State) (g : Flow → Flow) : (s.modMe g).l1 = s.l1 := rfl
@[simp] theorem State.modMe_peerCopies (s : State) (g : Flow → Flow) : (s.modMe g).peerCopies = s.peerCopies := rfl
@[simp] theorem State.modMe_net (s : State) (g : Flow → Flow) : (s.modMe g).net = s.net := rfl
@[simp] theorem State.modMe_jobs (s : State) (g : Flow → Flow) : (s.modMe g).jobs = s.jobs := rfl
@[simp] theorem State.modMe_rows (s : State) (g : Flow → Flow) : (s.modMe g).rows = s.rows := rfl
@[simp] theorem State.modMe_evFlight (s : State) (g : Flow → Flow) : (s.modMe g).evFlight = s.evFlight := rfl
@[simp] theorem State.modMe_plans (s : State) (g : Flow → Flow) : (s.modMe g).plans = s.plans := rfl
@[simp] theorem State.modMe_planGens (s : State) (g : Flow → Flow) : (s.modMe g).planGens = s.planGens := rfl
@[simp] theorem State.modMe_watches (s : State) (g : Flow → Flow) : (s.modMe g).watches = s.watches := rfl
@[simp] theorem State.modMe_resident (s : State) (g : Flow → Flow) : (s.modMe g).resident = s.resident := rfl
@[simp] theorem State.modMe_saves (s : State) (g : Flow → Flow) : (s.modMe g).saves = s.saves := rfl
@[simp] theorem State.modMe_seqrs (s : State) (g : Flow → Flow) : (s.modMe g).seqrs = s.seqrs := rfl
@[simp] theorem State.modMe_tlb (s : State) (g : Flow → Flow) : (s.modMe g).tlb = s.tlb := rfl
@[simp] theorem State.modMe_walks (s : State) (g : Flow → Flow) : (s.modMe g).walks = s.walks := rfl
@[simp] theorem State.modMe_coh (s : State) (g : Flow → Flow) : (s.modMe g).coh = s.coh := rfl
@[simp] theorem State.modMe_ckpts (s : State) (g : Flow → Flow) : (s.modMe g).ckpts = s.ckpts := rfl
@[simp] theorem State.modMe_replayQ (s : State) (g : Flow → Flow) : (s.modMe g).replayQ = s.replayQ := rfl
@[simp] theorem State.modMe_snaps (s : State) (g : Flow → Flow) : (s.modMe g).snaps = s.snaps := rfl
@[simp] theorem State.modMe_nextId (s : State) (g : Flow → Flow) : (s.modMe g).nextId = s.nextId := rfl
@[simp] theorem State.modMe_freeCtr (s : State) (g : Flow → Flow) : (s.modMe g).freeCtr = s.freeCtr := rfl
@[simp] theorem State.modMe_issueCtr (s : State) (g : Flow → Flow) : (s.modMe g).issueCtr = s.issueCtr := rfl

/-! `modTen` -/

@[simp] theorem State.modTen_me (s : State) (t : Nat) (g : Tenant → Tenant) : (s.modTen t g).me = s.me := rfl
@[simp] theorem State.modTen_rest (s : State) (t : Nat) (g : Tenant → Tenant) : (s.modTen t g).rest = s.rest := rfl
@[simp] theorem State.modTen_sched (s : State) (t : Nat) (g : Tenant → Tenant) : (s.modTen t g).sched = s.sched := rfl
@[simp] theorem State.modTen_ahead (s : State) (t : Nat) (g : Tenant → Tenant) : (s.modTen t g).ahead = s.ahead := rfl
@[simp] theorem State.modTen_dev (s : State) (t : Nat) (g : Tenant → Tenant) : (s.modTen t g).dev = s.dev := rfl
@[simp] theorem State.modTen_tenants (s : State) (t : Nat) (g : Tenant → Tenant) : (s.modTen t g).tenants = s.tenants.modify t g := rfl
@[simp] theorem State.modTen_launches (s : State) (t : Nat) (g : Tenant → Tenant) : (s.modTen t g).launches = s.launches := rfl
@[simp] theorem State.modTen_tasks (s : State) (t : Nat) (g : Tenant → Tenant) : (s.modTen t g).tasks = s.tasks := rfl
@[simp] theorem State.modTen_taskGens (s : State) (t : Nat) (g : Tenant → Tenant) : (s.modTen t g).taskGens = s.taskGens := rfl
@[simp] theorem State.modTen_mem (s : State) (t : Nat) (g : Tenant → Tenant) : (s.modTen t g).mem = s.mem := rfl
@[simp] theorem State.modTen_memKey (s : State) (t : Nat) (g : Tenant → Tenant) : (s.modTen t g).memKey = s.memKey := rfl
@[simp] theorem State.modTen_bad (s : State) (t : Nat) (g : Tenant → Tenant) : (s.modTen t g).bad = s.bad := rfl
@[simp] theorem State.modTen_badCache (s : State) (t : Nat) (g : Tenant → Tenant) : (s.modTen t g).badCache = s.badCache := rfl
@[simp] theorem State.modTen_reg (s : State) (t : Nat) (g : Tenant → Tenant) : (s.modTen t g).reg = s.reg := rfl
@[simp] theorem State.modTen_amoRuns (s : State) (t : Nat) (g : Tenant → Tenant) : (s.modTen t g).amoRuns = s.amoRuns := rfl
@[simp] theorem State.modTen_l1 (s : State) (t : Nat) (g : Tenant → Tenant) : (s.modTen t g).l1 = s.l1 := rfl
@[simp] theorem State.modTen_peerCopies (s : State) (t : Nat) (g : Tenant → Tenant) : (s.modTen t g).peerCopies = s.peerCopies := rfl
@[simp] theorem State.modTen_net (s : State) (t : Nat) (g : Tenant → Tenant) : (s.modTen t g).net = s.net := rfl
@[simp] theorem State.modTen_jobs (s : State) (t : Nat) (g : Tenant → Tenant) : (s.modTen t g).jobs = s.jobs := rfl
@[simp] theorem State.modTen_rows (s : State) (t : Nat) (g : Tenant → Tenant) : (s.modTen t g).rows = s.rows := rfl
@[simp] theorem State.modTen_evFlight (s : State) (t : Nat) (g : Tenant → Tenant) : (s.modTen t g).evFlight = s.evFlight := rfl
@[simp] theorem State.modTen_plans (s : State) (t : Nat) (g : Tenant → Tenant) : (s.modTen t g).plans = s.plans := rfl
@[simp] theorem State.modTen_planGens (s : State) (t : Nat) (g : Tenant → Tenant) : (s.modTen t g).planGens = s.planGens := rfl
@[simp] theorem State.modTen_watches (s : State) (t : Nat) (g : Tenant → Tenant) : (s.modTen t g).watches = s.watches := rfl
@[simp] theorem State.modTen_resident (s : State) (t : Nat) (g : Tenant → Tenant) : (s.modTen t g).resident = s.resident := rfl
@[simp] theorem State.modTen_saves (s : State) (t : Nat) (g : Tenant → Tenant) : (s.modTen t g).saves = s.saves := rfl
@[simp] theorem State.modTen_seqrs (s : State) (t : Nat) (g : Tenant → Tenant) : (s.modTen t g).seqrs = s.seqrs := rfl
@[simp] theorem State.modTen_tlb (s : State) (t : Nat) (g : Tenant → Tenant) : (s.modTen t g).tlb = s.tlb := rfl
@[simp] theorem State.modTen_walks (s : State) (t : Nat) (g : Tenant → Tenant) : (s.modTen t g).walks = s.walks := rfl
@[simp] theorem State.modTen_coh (s : State) (t : Nat) (g : Tenant → Tenant) : (s.modTen t g).coh = s.coh := rfl
@[simp] theorem State.modTen_ckpts (s : State) (t : Nat) (g : Tenant → Tenant) : (s.modTen t g).ckpts = s.ckpts := rfl
@[simp] theorem State.modTen_replayQ (s : State) (t : Nat) (g : Tenant → Tenant) : (s.modTen t g).replayQ = s.replayQ := rfl
@[simp] theorem State.modTen_snaps (s : State) (t : Nat) (g : Tenant → Tenant) : (s.modTen t g).snaps = s.snaps := rfl
@[simp] theorem State.modTen_nextId (s : State) (t : Nat) (g : Tenant → Tenant) : (s.modTen t g).nextId = s.nextId := rfl
@[simp] theorem State.modTen_freeCtr (s : State) (t : Nat) (g : Tenant → Tenant) : (s.modTen t g).freeCtr = s.freeCtr := rfl
@[simp] theorem State.modTen_issueCtr (s : State) (t : Nat) (g : Tenant → Tenant) : (s.modTen t g).issueCtr = s.issueCtr := rfl

/-! `modLaunch` -/

@[simp] theorem State.modLaunch_me (s : State) (k : Nat) (g : Launch → Launch) : (s.modLaunch k g).me = s.me := rfl
@[simp] theorem State.modLaunch_rest (s : State) (k : Nat) (g : Launch → Launch) : (s.modLaunch k g).rest = s.rest := rfl
@[simp] theorem State.modLaunch_sched (s : State) (k : Nat) (g : Launch → Launch) : (s.modLaunch k g).sched = s.sched := rfl
@[simp] theorem State.modLaunch_ahead (s : State) (k : Nat) (g : Launch → Launch) : (s.modLaunch k g).ahead = s.ahead := rfl
@[simp] theorem State.modLaunch_dev (s : State) (k : Nat) (g : Launch → Launch) : (s.modLaunch k g).dev = s.dev := rfl
@[simp] theorem State.modLaunch_tenants (s : State) (k : Nat) (g : Launch → Launch) : (s.modLaunch k g).tenants = s.tenants := rfl
@[simp] theorem State.modLaunch_launches (s : State) (k : Nat) (g : Launch → Launch) : (s.modLaunch k g).launches = s.launches.map (fun l => if l.id = k then g l else l) := rfl
@[simp] theorem State.modLaunch_tasks (s : State) (k : Nat) (g : Launch → Launch) : (s.modLaunch k g).tasks = s.tasks := rfl
@[simp] theorem State.modLaunch_taskGens (s : State) (k : Nat) (g : Launch → Launch) : (s.modLaunch k g).taskGens = s.taskGens := rfl
@[simp] theorem State.modLaunch_mem (s : State) (k : Nat) (g : Launch → Launch) : (s.modLaunch k g).mem = s.mem := rfl
@[simp] theorem State.modLaunch_memKey (s : State) (k : Nat) (g : Launch → Launch) : (s.modLaunch k g).memKey = s.memKey := rfl
@[simp] theorem State.modLaunch_bad (s : State) (k : Nat) (g : Launch → Launch) : (s.modLaunch k g).bad = s.bad := rfl
@[simp] theorem State.modLaunch_badCache (s : State) (k : Nat) (g : Launch → Launch) : (s.modLaunch k g).badCache = s.badCache := rfl
@[simp] theorem State.modLaunch_reg (s : State) (k : Nat) (g : Launch → Launch) : (s.modLaunch k g).reg = s.reg := rfl
@[simp] theorem State.modLaunch_amoRuns (s : State) (k : Nat) (g : Launch → Launch) : (s.modLaunch k g).amoRuns = s.amoRuns := rfl
@[simp] theorem State.modLaunch_l1 (s : State) (k : Nat) (g : Launch → Launch) : (s.modLaunch k g).l1 = s.l1 := rfl
@[simp] theorem State.modLaunch_peerCopies (s : State) (k : Nat) (g : Launch → Launch) : (s.modLaunch k g).peerCopies = s.peerCopies := rfl
@[simp] theorem State.modLaunch_net (s : State) (k : Nat) (g : Launch → Launch) : (s.modLaunch k g).net = s.net := rfl
@[simp] theorem State.modLaunch_jobs (s : State) (k : Nat) (g : Launch → Launch) : (s.modLaunch k g).jobs = s.jobs := rfl
@[simp] theorem State.modLaunch_rows (s : State) (k : Nat) (g : Launch → Launch) : (s.modLaunch k g).rows = s.rows := rfl
@[simp] theorem State.modLaunch_evFlight (s : State) (k : Nat) (g : Launch → Launch) : (s.modLaunch k g).evFlight = s.evFlight := rfl
@[simp] theorem State.modLaunch_plans (s : State) (k : Nat) (g : Launch → Launch) : (s.modLaunch k g).plans = s.plans := rfl
@[simp] theorem State.modLaunch_planGens (s : State) (k : Nat) (g : Launch → Launch) : (s.modLaunch k g).planGens = s.planGens := rfl
@[simp] theorem State.modLaunch_watches (s : State) (k : Nat) (g : Launch → Launch) : (s.modLaunch k g).watches = s.watches := rfl
@[simp] theorem State.modLaunch_resident (s : State) (k : Nat) (g : Launch → Launch) : (s.modLaunch k g).resident = s.resident := rfl
@[simp] theorem State.modLaunch_saves (s : State) (k : Nat) (g : Launch → Launch) : (s.modLaunch k g).saves = s.saves := rfl
@[simp] theorem State.modLaunch_seqrs (s : State) (k : Nat) (g : Launch → Launch) : (s.modLaunch k g).seqrs = s.seqrs := rfl
@[simp] theorem State.modLaunch_tlb (s : State) (k : Nat) (g : Launch → Launch) : (s.modLaunch k g).tlb = s.tlb := rfl
@[simp] theorem State.modLaunch_walks (s : State) (k : Nat) (g : Launch → Launch) : (s.modLaunch k g).walks = s.walks := rfl
@[simp] theorem State.modLaunch_coh (s : State) (k : Nat) (g : Launch → Launch) : (s.modLaunch k g).coh = s.coh := rfl
@[simp] theorem State.modLaunch_ckpts (s : State) (k : Nat) (g : Launch → Launch) : (s.modLaunch k g).ckpts = s.ckpts := rfl
@[simp] theorem State.modLaunch_replayQ (s : State) (k : Nat) (g : Launch → Launch) : (s.modLaunch k g).replayQ = s.replayQ := rfl
@[simp] theorem State.modLaunch_snaps (s : State) (k : Nat) (g : Launch → Launch) : (s.modLaunch k g).snaps = s.snaps := rfl
@[simp] theorem State.modLaunch_nextId (s : State) (k : Nat) (g : Launch → Launch) : (s.modLaunch k g).nextId = s.nextId := rfl
@[simp] theorem State.modLaunch_freeCtr (s : State) (k : Nat) (g : Launch → Launch) : (s.modLaunch k g).freeCtr = s.freeCtr := rfl
@[simp] theorem State.modLaunch_issueCtr (s : State) (k : Nat) (g : Launch → Launch) : (s.modLaunch k g).issueCtr = s.issueCtr := rfl

/-! `modDev` -/

@[simp] theorem State.modDev_me (s : State) (g : Device → Device) : (s.modDev g).me = s.me := rfl
@[simp] theorem State.modDev_rest (s : State) (g : Device → Device) : (s.modDev g).rest = s.rest := rfl
@[simp] theorem State.modDev_sched (s : State) (g : Device → Device) : (s.modDev g).sched = s.sched := rfl
@[simp] theorem State.modDev_ahead (s : State) (g : Device → Device) : (s.modDev g).ahead = s.ahead := rfl
@[simp] theorem State.modDev_dev (s : State) (g : Device → Device) : (s.modDev g).dev = g s.dev := rfl
@[simp] theorem State.modDev_tenants (s : State) (g : Device → Device) : (s.modDev g).tenants = s.tenants := rfl
@[simp] theorem State.modDev_launches (s : State) (g : Device → Device) : (s.modDev g).launches = s.launches := rfl
@[simp] theorem State.modDev_tasks (s : State) (g : Device → Device) : (s.modDev g).tasks = s.tasks := rfl
@[simp] theorem State.modDev_taskGens (s : State) (g : Device → Device) : (s.modDev g).taskGens = s.taskGens := rfl
@[simp] theorem State.modDev_mem (s : State) (g : Device → Device) : (s.modDev g).mem = s.mem := rfl
@[simp] theorem State.modDev_memKey (s : State) (g : Device → Device) : (s.modDev g).memKey = s.memKey := rfl
@[simp] theorem State.modDev_bad (s : State) (g : Device → Device) : (s.modDev g).bad = s.bad := rfl
@[simp] theorem State.modDev_badCache (s : State) (g : Device → Device) : (s.modDev g).badCache = s.badCache := rfl
@[simp] theorem State.modDev_reg (s : State) (g : Device → Device) : (s.modDev g).reg = s.reg := rfl
@[simp] theorem State.modDev_amoRuns (s : State) (g : Device → Device) : (s.modDev g).amoRuns = s.amoRuns := rfl
@[simp] theorem State.modDev_l1 (s : State) (g : Device → Device) : (s.modDev g).l1 = s.l1 := rfl
@[simp] theorem State.modDev_peerCopies (s : State) (g : Device → Device) : (s.modDev g).peerCopies = s.peerCopies := rfl
@[simp] theorem State.modDev_net (s : State) (g : Device → Device) : (s.modDev g).net = s.net := rfl
@[simp] theorem State.modDev_jobs (s : State) (g : Device → Device) : (s.modDev g).jobs = s.jobs := rfl
@[simp] theorem State.modDev_rows (s : State) (g : Device → Device) : (s.modDev g).rows = s.rows := rfl
@[simp] theorem State.modDev_evFlight (s : State) (g : Device → Device) : (s.modDev g).evFlight = s.evFlight := rfl
@[simp] theorem State.modDev_plans (s : State) (g : Device → Device) : (s.modDev g).plans = s.plans := rfl
@[simp] theorem State.modDev_planGens (s : State) (g : Device → Device) : (s.modDev g).planGens = s.planGens := rfl
@[simp] theorem State.modDev_watches (s : State) (g : Device → Device) : (s.modDev g).watches = s.watches := rfl
@[simp] theorem State.modDev_resident (s : State) (g : Device → Device) : (s.modDev g).resident = s.resident := rfl
@[simp] theorem State.modDev_saves (s : State) (g : Device → Device) : (s.modDev g).saves = s.saves := rfl
@[simp] theorem State.modDev_seqrs (s : State) (g : Device → Device) : (s.modDev g).seqrs = s.seqrs := rfl
@[simp] theorem State.modDev_tlb (s : State) (g : Device → Device) : (s.modDev g).tlb = s.tlb := rfl
@[simp] theorem State.modDev_walks (s : State) (g : Device → Device) : (s.modDev g).walks = s.walks := rfl
@[simp] theorem State.modDev_coh (s : State) (g : Device → Device) : (s.modDev g).coh = s.coh := rfl
@[simp] theorem State.modDev_ckpts (s : State) (g : Device → Device) : (s.modDev g).ckpts = s.ckpts := rfl
@[simp] theorem State.modDev_replayQ (s : State) (g : Device → Device) : (s.modDev g).replayQ = s.replayQ := rfl
@[simp] theorem State.modDev_snaps (s : State) (g : Device → Device) : (s.modDev g).snaps = s.snaps := rfl
@[simp] theorem State.modDev_nextId (s : State) (g : Device → Device) : (s.modDev g).nextId = s.nextId := rfl
@[simp] theorem State.modDev_freeCtr (s : State) (g : Device → Device) : (s.modDev g).freeCtr = s.freeCtr := rfl
@[simp] theorem State.modDev_issueCtr (s : State) (g : Device → Device) : (s.modDev g).issueCtr = s.issueCtr := rfl

/-! `charge` -/

@[simp] theorem State.charge_me (s : State) (t l fj : Nat) : (s.charge t l fj).me = s.me := rfl
@[simp] theorem State.charge_rest (s : State) (t l fj : Nat) : (s.charge t l fj).rest = s.rest := rfl
@[simp] theorem State.charge_sched (s : State) (t l fj : Nat) : (s.charge t l fj).sched = s.sched := rfl
@[simp] theorem State.charge_ahead (s : State) (t l fj : Nat) : (s.charge t l fj).ahead = s.ahead := rfl
@[simp] theorem State.charge_dev (s : State) (t l fj : Nat) : (s.charge t l fj).dev = s.dev := rfl
@[simp] theorem State.charge_tasks (s : State) (t l fj : Nat) : (s.charge t l fj).tasks = s.tasks := rfl
@[simp] theorem State.charge_taskGens (s : State) (t l fj : Nat) : (s.charge t l fj).taskGens = s.taskGens := rfl
@[simp] theorem State.charge_mem (s : State) (t l fj : Nat) : (s.charge t l fj).mem = s.mem := rfl
@[simp] theorem State.charge_memKey (s : State) (t l fj : Nat) : (s.charge t l fj).memKey = s.memKey := rfl
@[simp] theorem State.charge_bad (s : State) (t l fj : Nat) : (s.charge t l fj).bad = s.bad := rfl
@[simp] theorem State.charge_badCache (s : State) (t l fj : Nat) : (s.charge t l fj).badCache = s.badCache := rfl
@[simp] theorem State.charge_reg (s : State) (t l fj : Nat) : (s.charge t l fj).reg = s.reg := rfl
@[simp] theorem State.charge_amoRuns (s : State) (t l fj : Nat) : (s.charge t l fj).amoRuns = s.amoRuns := rfl
@[simp] theorem State.charge_l1 (s : State) (t l fj : Nat) : (s.charge t l fj).l1 = s.l1 := rfl
@[simp] theorem State.charge_peerCopies (s : State) (t l fj : Nat) : (s.charge t l fj).peerCopies = s.peerCopies := rfl
@[simp] theorem State.charge_net (s : State) (t l fj : Nat) : (s.charge t l fj).net = s.net := rfl
@[simp] theorem State.charge_jobs (s : State) (t l fj : Nat) : (s.charge t l fj).jobs = s.jobs := rfl
@[simp] theorem State.charge_rows (s : State) (t l fj : Nat) : (s.charge t l fj).rows = s.rows := rfl
@[simp] theorem State.charge_evFlight (s : State) (t l fj : Nat) : (s.charge t l fj).evFlight = s.evFlight := rfl
@[simp] theorem State.charge_plans (s : State) (t l fj : Nat) : (s.charge t l fj).plans = s.plans := rfl
@[simp] theorem State.charge_planGens (s : State) (t l fj : Nat) : (s.charge t l fj).planGens = s.planGens := rfl
@[simp] theorem State.charge_watches (s : State) (t l fj : Nat) : (s.charge t l fj).watches = s.watches := rfl
@[simp] theorem State.charge_resident (s : State) (t l fj : Nat) : (s.charge t l fj).resident = s.resident := rfl
@[simp] theorem State.charge_saves (s : State) (t l fj : Nat) : (s.charge t l fj).saves = s.saves := rfl
@[simp] theorem State.charge_seqrs (s : State) (t l fj : Nat) : (s.charge t l fj).seqrs = s.seqrs := rfl
@[simp] theorem State.charge_tlb (s : State) (t l fj : Nat) : (s.charge t l fj).tlb = s.tlb := rfl
@[simp] theorem State.charge_walks (s : State) (t l fj : Nat) : (s.charge t l fj).walks = s.walks := rfl
@[simp] theorem State.charge_coh (s : State) (t l fj : Nat) : (s.charge t l fj).coh = s.coh := rfl
@[simp] theorem State.charge_ckpts (s : State) (t l fj : Nat) : (s.charge t l fj).ckpts = s.ckpts := rfl
@[simp] theorem State.charge_replayQ (s : State) (t l fj : Nat) : (s.charge t l fj).replayQ = s.replayQ := rfl
@[simp] theorem State.charge_snaps (s : State) (t l fj : Nat) : (s.charge t l fj).snaps = s.snaps := rfl
@[simp] theorem State.charge_nextId (s : State) (t l fj : Nat) : (s.charge t l fj).nextId = s.nextId := rfl
@[simp] theorem State.charge_freeCtr (s : State) (t l fj : Nat) : (s.charge t l fj).freeCtr = s.freeCtr := rfl
@[simp] theorem State.charge_issueCtr (s : State) (t l fj : Nat) : (s.charge t l fj).issueCtr = s.issueCtr := rfl

/-! `beginScalar` -/

@[simp] theorem State.beginScalar_me (s : State) : (s.beginScalar).me = { s.me with convoy := Convoy.none, qBeats := s.me.qBeats + 1 } := rfl
@[simp] theorem State.beginScalar_rest (s : State) : (s.beginScalar).rest = s.rest := rfl
@[simp] theorem State.beginScalar_sched (s : State) : (s.beginScalar).sched = s.sched := rfl
@[simp] theorem State.beginScalar_ahead (s : State) : (s.beginScalar).ahead = s.ahead := rfl
@[simp] theorem State.beginScalar_dev (s : State) : (s.beginScalar).dev = s.dev := rfl
@[simp] theorem State.beginScalar_tasks (s : State) : (s.beginScalar).tasks = s.tasks := rfl
@[simp] theorem State.beginScalar_taskGens (s : State) : (s.beginScalar).taskGens = s.taskGens := rfl
@[simp] theorem State.beginScalar_mem (s : State) : (s.beginScalar).mem = s.mem := rfl
@[simp] theorem State.beginScalar_memKey (s : State) : (s.beginScalar).memKey = s.memKey := rfl
@[simp] theorem State.beginScalar_bad (s : State) : (s.beginScalar).bad = s.bad := rfl
@[simp] theorem State.beginScalar_badCache (s : State) : (s.beginScalar).badCache = s.badCache := rfl
@[simp] theorem State.beginScalar_reg (s : State) : (s.beginScalar).reg = s.reg := rfl
@[simp] theorem State.beginScalar_amoRuns (s : State) : (s.beginScalar).amoRuns = s.amoRuns := rfl
@[simp] theorem State.beginScalar_l1 (s : State) : (s.beginScalar).l1 = s.l1 := rfl
@[simp] theorem State.beginScalar_peerCopies (s : State) : (s.beginScalar).peerCopies = s.peerCopies := rfl
@[simp] theorem State.beginScalar_net (s : State) : (s.beginScalar).net = s.net := rfl
@[simp] theorem State.beginScalar_jobs (s : State) : (s.beginScalar).jobs = s.jobs := rfl
@[simp] theorem State.beginScalar_rows (s : State) : (s.beginScalar).rows = s.rows := rfl
@[simp] theorem State.beginScalar_evFlight (s : State) : (s.beginScalar).evFlight = s.evFlight := rfl
@[simp] theorem State.beginScalar_plans (s : State) : (s.beginScalar).plans = s.plans := rfl
@[simp] theorem State.beginScalar_planGens (s : State) : (s.beginScalar).planGens = s.planGens := rfl
@[simp] theorem State.beginScalar_watches (s : State) : (s.beginScalar).watches = s.watches := rfl
@[simp] theorem State.beginScalar_resident (s : State) : (s.beginScalar).resident = s.resident := rfl
@[simp] theorem State.beginScalar_saves (s : State) : (s.beginScalar).saves = s.saves := rfl
@[simp] theorem State.beginScalar_seqrs (s : State) : (s.beginScalar).seqrs = s.seqrs := rfl
@[simp] theorem State.beginScalar_tlb (s : State) : (s.beginScalar).tlb = s.tlb := rfl
@[simp] theorem State.beginScalar_walks (s : State) : (s.beginScalar).walks = s.walks := rfl
@[simp] theorem State.beginScalar_coh (s : State) : (s.beginScalar).coh = s.coh := rfl
@[simp] theorem State.beginScalar_ckpts (s : State) : (s.beginScalar).ckpts = s.ckpts := rfl
@[simp] theorem State.beginScalar_replayQ (s : State) : (s.beginScalar).replayQ = s.replayQ := rfl
@[simp] theorem State.beginScalar_snaps (s : State) : (s.beginScalar).snaps = s.snaps := rfl
@[simp] theorem State.beginScalar_nextId (s : State) : (s.beginScalar).nextId = s.nextId := rfl
@[simp] theorem State.beginScalar_freeCtr (s : State) : (s.beginScalar).freeCtr = s.freeCtr := rfl
@[simp] theorem State.beginScalar_issueCtr (s : State) : (s.beginScalar).issueCtr = s.issueCtr := rfl

/-! `setByte` -/

@[simp] theorem State.setByte_me (s : State) (a k : Nat) (x : Byte) : (s.setByte a k x).me = s.me := rfl
@[simp] theorem State.setByte_rest (s : State) (a k : Nat) (x : Byte) : (s.setByte a k x).rest = s.rest := rfl
@[simp] theorem State.setByte_sched (s : State) (a k : Nat) (x : Byte) : (s.setByte a k x).sched = s.sched := rfl
@[simp] theorem State.setByte_ahead (s : State) (a k : Nat) (x : Byte) : (s.setByte a k x).ahead = s.ahead := rfl
@[simp] theorem State.setByte_dev (s : State) (a k : Nat) (x : Byte) : (s.setByte a k x).dev = s.dev := rfl
@[simp] theorem State.setByte_tenants (s : State) (a k : Nat) (x : Byte) : (s.setByte a k x).tenants = s.tenants := rfl
@[simp] theorem State.setByte_launches (s : State) (a k : Nat) (x : Byte) : (s.setByte a k x).launches = s.launches := rfl
@[simp] theorem State.setByte_tasks (s : State) (a k : Nat) (x : Byte) : (s.setByte a k x).tasks = s.tasks := rfl
@[simp] theorem State.setByte_taskGens (s : State) (a k : Nat) (x : Byte) : (s.setByte a k x).taskGens = s.taskGens := rfl
@[simp] theorem State.setByte_mem (s : State) (a k : Nat) (x : Byte) : (s.setByte a k x).mem = s.mem.set a x := rfl
@[simp] theorem State.setByte_memKey (s : State) (a k : Nat) (x : Byte) : (s.setByte a k x).memKey = s.memKey.set a (BitVec.ofNat 8 k) := rfl
@[simp] theorem State.setByte_bad (s : State) (a k : Nat) (x : Byte) : (s.setByte a k x).bad = s.bad := rfl
@[simp] theorem State.setByte_badCache (s : State) (a k : Nat) (x : Byte) : (s.setByte a k x).badCache = s.badCache := rfl
@[simp] theorem State.setByte_reg (s : State) (a k : Nat) (x : Byte) : (s.setByte a k x).reg = s.reg := rfl
@[simp] theorem State.setByte_amoRuns (s : State) (a k : Nat) (x : Byte) : (s.setByte a k x).amoRuns = s.amoRuns := rfl
@[simp] theorem State.setByte_l1 (s : State) (a k : Nat) (x : Byte) : (s.setByte a k x).l1 = s.l1 := rfl
@[simp] theorem State.setByte_peerCopies (s : State) (a k : Nat) (x : Byte) : (s.setByte a k x).peerCopies = s.peerCopies := rfl
@[simp] theorem State.setByte_net (s : State) (a k : Nat) (x : Byte) : (s.setByte a k x).net = s.net := rfl
@[simp] theorem State.setByte_jobs (s : State) (a k : Nat) (x : Byte) : (s.setByte a k x).jobs = s.jobs := rfl
@[simp] theorem State.setByte_rows (s : State) (a k : Nat) (x : Byte) : (s.setByte a k x).rows = s.rows := rfl
@[simp] theorem State.setByte_evFlight (s : State) (a k : Nat) (x : Byte) : (s.setByte a k x).evFlight = s.evFlight := rfl
@[simp] theorem State.setByte_plans (s : State) (a k : Nat) (x : Byte) : (s.setByte a k x).plans = s.plans := rfl
@[simp] theorem State.setByte_planGens (s : State) (a k : Nat) (x : Byte) : (s.setByte a k x).planGens = s.planGens := rfl
@[simp] theorem State.setByte_watches (s : State) (a k : Nat) (x : Byte) : (s.setByte a k x).watches = s.watches := rfl
@[simp] theorem State.setByte_resident (s : State) (a k : Nat) (x : Byte) : (s.setByte a k x).resident = s.resident := rfl
@[simp] theorem State.setByte_saves (s : State) (a k : Nat) (x : Byte) : (s.setByte a k x).saves = s.saves := rfl
@[simp] theorem State.setByte_seqrs (s : State) (a k : Nat) (x : Byte) : (s.setByte a k x).seqrs = s.seqrs := rfl
@[simp] theorem State.setByte_tlb (s : State) (a k : Nat) (x : Byte) : (s.setByte a k x).tlb = s.tlb := rfl
@[simp] theorem State.setByte_walks (s : State) (a k : Nat) (x : Byte) : (s.setByte a k x).walks = s.walks := rfl
@[simp] theorem State.setByte_coh (s : State) (a k : Nat) (x : Byte) : (s.setByte a k x).coh = s.coh := rfl
@[simp] theorem State.setByte_ckpts (s : State) (a k : Nat) (x : Byte) : (s.setByte a k x).ckpts = s.ckpts := rfl
@[simp] theorem State.setByte_replayQ (s : State) (a k : Nat) (x : Byte) : (s.setByte a k x).replayQ = s.replayQ := rfl
@[simp] theorem State.setByte_snaps (s : State) (a k : Nat) (x : Byte) : (s.setByte a k x).snaps = s.snaps := rfl
@[simp] theorem State.setByte_nextId (s : State) (a k : Nat) (x : Byte) : (s.setByte a k x).nextId = s.nextId := rfl
@[simp] theorem State.setByte_freeCtr (s : State) (a k : Nat) (x : Byte) : (s.setByte a k x).freeCtr = s.freeCtr := rfl
@[simp] theorem State.setByte_issueCtr (s : State) (a k : Nat) (x : Byte) : (s.setByte a k x).issueCtr = s.issueCtr := rfl

/-! `chargeBits` -/

@[simp] theorem State.chargeBits_me (s : State) (f : Flow) (a n : Nat) : (s.chargeBits f a n).me = s.me := rfl
@[simp] theorem State.chargeBits_rest (s : State) (f : Flow) (a n : Nat) : (s.chargeBits f a n).rest = s.rest := rfl
@[simp] theorem State.chargeBits_sched (s : State) (f : Flow) (a n : Nat) : (s.chargeBits f a n).sched = s.sched := rfl
@[simp] theorem State.chargeBits_ahead (s : State) (f : Flow) (a n : Nat) : (s.chargeBits f a n).ahead = s.ahead := rfl
@[simp] theorem State.chargeBits_dev (s : State) (f : Flow) (a n : Nat) : (s.chargeBits f a n).dev = s.dev := rfl
@[simp] theorem State.chargeBits_tasks (s : State) (f : Flow) (a n : Nat) : (s.chargeBits f a n).tasks = s.tasks := rfl
@[simp] theorem State.chargeBits_taskGens (s : State) (f : Flow) (a n : Nat) : (s.chargeBits f a n).taskGens = s.taskGens := rfl
@[simp] theorem State.chargeBits_mem (s : State) (f : Flow) (a n : Nat) : (s.chargeBits f a n).mem = s.mem := rfl
@[simp] theorem State.chargeBits_memKey (s : State) (f : Flow) (a n : Nat) : (s.chargeBits f a n).memKey = s.memKey := rfl
@[simp] theorem State.chargeBits_bad (s : State) (f : Flow) (a n : Nat) : (s.chargeBits f a n).bad = s.bad := rfl
@[simp] theorem State.chargeBits_badCache (s : State) (f : Flow) (a n : Nat) : (s.chargeBits f a n).badCache = s.badCache := rfl
@[simp] theorem State.chargeBits_reg (s : State) (f : Flow) (a n : Nat) : (s.chargeBits f a n).reg = s.reg := rfl
@[simp] theorem State.chargeBits_amoRuns (s : State) (f : Flow) (a n : Nat) : (s.chargeBits f a n).amoRuns = s.amoRuns := rfl
@[simp] theorem State.chargeBits_l1 (s : State) (f : Flow) (a n : Nat) : (s.chargeBits f a n).l1 = s.l1 := rfl
@[simp] theorem State.chargeBits_peerCopies (s : State) (f : Flow) (a n : Nat) : (s.chargeBits f a n).peerCopies = s.peerCopies := rfl
@[simp] theorem State.chargeBits_net (s : State) (f : Flow) (a n : Nat) : (s.chargeBits f a n).net = s.net := rfl
@[simp] theorem State.chargeBits_jobs (s : State) (f : Flow) (a n : Nat) : (s.chargeBits f a n).jobs = s.jobs := rfl
@[simp] theorem State.chargeBits_rows (s : State) (f : Flow) (a n : Nat) : (s.chargeBits f a n).rows = s.rows := rfl
@[simp] theorem State.chargeBits_evFlight (s : State) (f : Flow) (a n : Nat) : (s.chargeBits f a n).evFlight = s.evFlight := rfl
@[simp] theorem State.chargeBits_plans (s : State) (f : Flow) (a n : Nat) : (s.chargeBits f a n).plans = s.plans := rfl
@[simp] theorem State.chargeBits_planGens (s : State) (f : Flow) (a n : Nat) : (s.chargeBits f a n).planGens = s.planGens := rfl
@[simp] theorem State.chargeBits_watches (s : State) (f : Flow) (a n : Nat) : (s.chargeBits f a n).watches = s.watches := rfl
@[simp] theorem State.chargeBits_resident (s : State) (f : Flow) (a n : Nat) : (s.chargeBits f a n).resident = s.resident := rfl
@[simp] theorem State.chargeBits_saves (s : State) (f : Flow) (a n : Nat) : (s.chargeBits f a n).saves = s.saves := rfl
@[simp] theorem State.chargeBits_seqrs (s : State) (f : Flow) (a n : Nat) : (s.chargeBits f a n).seqrs = s.seqrs := rfl
@[simp] theorem State.chargeBits_tlb (s : State) (f : Flow) (a n : Nat) : (s.chargeBits f a n).tlb = s.tlb := rfl
@[simp] theorem State.chargeBits_walks (s : State) (f : Flow) (a n : Nat) : (s.chargeBits f a n).walks = s.walks := rfl
@[simp] theorem State.chargeBits_coh (s : State) (f : Flow) (a n : Nat) : (s.chargeBits f a n).coh = s.coh := rfl
@[simp] theorem State.chargeBits_ckpts (s : State) (f : Flow) (a n : Nat) : (s.chargeBits f a n).ckpts = s.ckpts := rfl
@[simp] theorem State.chargeBits_replayQ (s : State) (f : Flow) (a n : Nat) : (s.chargeBits f a n).replayQ = s.replayQ := rfl
@[simp] theorem State.chargeBits_snaps (s : State) (f : Flow) (a n : Nat) : (s.chargeBits f a n).snaps = s.snaps := rfl
@[simp] theorem State.chargeBits_nextId (s : State) (f : Flow) (a n : Nat) : (s.chargeBits f a n).nextId = s.nextId := rfl
@[simp] theorem State.chargeBits_freeCtr (s : State) (f : Flow) (a n : Nat) : (s.chargeBits f a n).freeCtr = s.freeCtr + 1 := rfl
@[simp] theorem State.chargeBits_issueCtr (s : State) (f : Flow) (a n : Nat) : (s.chargeBits f a n).issueCtr = s.issueCtr := rfl

/-! `chargeAt` -/

@[simp] theorem State.chargeAt_me (s : State) (f : Flow) (a n : Nat) : (s.chargeAt f a n).me = s.me := rfl
@[simp] theorem State.chargeAt_rest (s : State) (f : Flow) (a n : Nat) : (s.chargeAt f a n).rest = s.rest := rfl
@[simp] theorem State.chargeAt_sched (s : State) (f : Flow) (a n : Nat) : (s.chargeAt f a n).sched = s.sched := rfl
@[simp] theorem State.chargeAt_ahead (s : State) (f : Flow) (a n : Nat) : (s.chargeAt f a n).ahead = s.ahead := rfl
@[simp] theorem State.chargeAt_dev (s : State) (f : Flow) (a n : Nat) : (s.chargeAt f a n).dev = s.dev := rfl
@[simp] theorem State.chargeAt_tasks (s : State) (f : Flow) (a n : Nat) : (s.chargeAt f a n).tasks = s.tasks := rfl
@[simp] theorem State.chargeAt_taskGens (s : State) (f : Flow) (a n : Nat) : (s.chargeAt f a n).taskGens = s.taskGens := rfl
@[simp] theorem State.chargeAt_mem (s : State) (f : Flow) (a n : Nat) : (s.chargeAt f a n).mem = s.mem := rfl
@[simp] theorem State.chargeAt_memKey (s : State) (f : Flow) (a n : Nat) : (s.chargeAt f a n).memKey = s.memKey := rfl
@[simp] theorem State.chargeAt_bad (s : State) (f : Flow) (a n : Nat) : (s.chargeAt f a n).bad = s.bad := rfl
@[simp] theorem State.chargeAt_badCache (s : State) (f : Flow) (a n : Nat) : (s.chargeAt f a n).badCache = s.badCache := rfl
@[simp] theorem State.chargeAt_reg (s : State) (f : Flow) (a n : Nat) : (s.chargeAt f a n).reg = s.reg := rfl
@[simp] theorem State.chargeAt_amoRuns (s : State) (f : Flow) (a n : Nat) : (s.chargeAt f a n).amoRuns = s.amoRuns := rfl
@[simp] theorem State.chargeAt_l1 (s : State) (f : Flow) (a n : Nat) : (s.chargeAt f a n).l1 = s.l1 := rfl
@[simp] theorem State.chargeAt_peerCopies (s : State) (f : Flow) (a n : Nat) : (s.chargeAt f a n).peerCopies = s.peerCopies := rfl
@[simp] theorem State.chargeAt_net (s : State) (f : Flow) (a n : Nat) : (s.chargeAt f a n).net = s.net := rfl
@[simp] theorem State.chargeAt_jobs (s : State) (f : Flow) (a n : Nat) : (s.chargeAt f a n).jobs = s.jobs := rfl
@[simp] theorem State.chargeAt_rows (s : State) (f : Flow) (a n : Nat) : (s.chargeAt f a n).rows = s.rows := rfl
@[simp] theorem State.chargeAt_evFlight (s : State) (f : Flow) (a n : Nat) : (s.chargeAt f a n).evFlight = s.evFlight := rfl
@[simp] theorem State.chargeAt_plans (s : State) (f : Flow) (a n : Nat) : (s.chargeAt f a n).plans = s.plans := rfl
@[simp] theorem State.chargeAt_planGens (s : State) (f : Flow) (a n : Nat) : (s.chargeAt f a n).planGens = s.planGens := rfl
@[simp] theorem State.chargeAt_watches (s : State) (f : Flow) (a n : Nat) : (s.chargeAt f a n).watches = s.watches := rfl
@[simp] theorem State.chargeAt_resident (s : State) (f : Flow) (a n : Nat) : (s.chargeAt f a n).resident = s.resident := rfl
@[simp] theorem State.chargeAt_saves (s : State) (f : Flow) (a n : Nat) : (s.chargeAt f a n).saves = s.saves := rfl
@[simp] theorem State.chargeAt_seqrs (s : State) (f : Flow) (a n : Nat) : (s.chargeAt f a n).seqrs = s.seqrs := rfl
@[simp] theorem State.chargeAt_tlb (s : State) (f : Flow) (a n : Nat) : (s.chargeAt f a n).tlb = s.tlb := rfl
@[simp] theorem State.chargeAt_walks (s : State) (f : Flow) (a n : Nat) : (s.chargeAt f a n).walks = s.walks := rfl
@[simp] theorem State.chargeAt_coh (s : State) (f : Flow) (a n : Nat) : (s.chargeAt f a n).coh = s.coh := rfl
@[simp] theorem State.chargeAt_ckpts (s : State) (f : Flow) (a n : Nat) : (s.chargeAt f a n).ckpts = s.ckpts := rfl
@[simp] theorem State.chargeAt_replayQ (s : State) (f : Flow) (a n : Nat) : (s.chargeAt f a n).replayQ = s.replayQ := rfl
@[simp] theorem State.chargeAt_snaps (s : State) (f : Flow) (a n : Nat) : (s.chargeAt f a n).snaps = s.snaps := rfl
@[simp] theorem State.chargeAt_nextId (s : State) (f : Flow) (a n : Nat) : (s.chargeAt f a n).nextId = s.nextId := rfl
@[simp] theorem State.chargeAt_freeCtr (s : State) (f : Flow) (a n : Nat) : (s.chargeAt f a n).freeCtr = s.freeCtr + 1 := rfl
@[simp] theorem State.chargeAt_issueCtr (s : State) (f : Flow) (a n : Nat) : (s.chargeAt f a n).issueCtr = s.issueCtr := rfl

/-! `irq` -/

@[simp] theorem State.irq_me (s : State) (fn v : Nat) : (s.irq fn v).me = s.me := rfl
@[simp] theorem State.irq_rest (s : State) (fn v : Nat) : (s.irq fn v).rest = s.rest := rfl
@[simp] theorem State.irq_sched (s : State) (fn v : Nat) : (s.irq fn v).sched = s.sched := rfl
@[simp] theorem State.irq_ahead (s : State) (fn v : Nat) : (s.irq fn v).ahead = s.ahead := rfl
@[simp] theorem State.irq_dev (s : State) (fn v : Nat) : (s.irq fn v).dev = s.dev := rfl
@[simp] theorem State.irq_tenants (s : State) (fn v : Nat) : (s.irq fn v).tenants = s.tenants := rfl
@[simp] theorem State.irq_launches (s : State) (fn v : Nat) : (s.irq fn v).launches = s.launches := rfl
@[simp] theorem State.irq_tasks (s : State) (fn v : Nat) : (s.irq fn v).tasks = s.tasks := rfl
@[simp] theorem State.irq_taskGens (s : State) (fn v : Nat) : (s.irq fn v).taskGens = s.taskGens := rfl
@[simp] theorem State.irq_mem (s : State) (fn v : Nat) : (s.irq fn v).mem = s.mem := rfl
@[simp] theorem State.irq_memKey (s : State) (fn v : Nat) : (s.irq fn v).memKey = s.memKey := rfl
@[simp] theorem State.irq_bad (s : State) (fn v : Nat) : (s.irq fn v).bad = s.bad := rfl
@[simp] theorem State.irq_badCache (s : State) (fn v : Nat) : (s.irq fn v).badCache = s.badCache := rfl
@[simp] theorem State.irq_reg (s : State) (fn v : Nat) : (s.irq fn v).reg = s.reg := rfl
@[simp] theorem State.irq_amoRuns (s : State) (fn v : Nat) : (s.irq fn v).amoRuns = s.amoRuns := rfl
@[simp] theorem State.irq_l1 (s : State) (fn v : Nat) : (s.irq fn v).l1 = s.l1 := rfl
@[simp] theorem State.irq_peerCopies (s : State) (fn v : Nat) : (s.irq fn v).peerCopies = s.peerCopies := rfl
@[simp] theorem State.irq_net (s : State) (fn v : Nat) : (s.irq fn v).net = s.net ++ [s.dev.msi fn v] := rfl
@[simp] theorem State.irq_jobs (s : State) (fn v : Nat) : (s.irq fn v).jobs = s.jobs := rfl
@[simp] theorem State.irq_rows (s : State) (fn v : Nat) : (s.irq fn v).rows = s.rows := rfl
@[simp] theorem State.irq_evFlight (s : State) (fn v : Nat) : (s.irq fn v).evFlight = s.evFlight := rfl
@[simp] theorem State.irq_plans (s : State) (fn v : Nat) : (s.irq fn v).plans = s.plans := rfl
@[simp] theorem State.irq_planGens (s : State) (fn v : Nat) : (s.irq fn v).planGens = s.planGens := rfl
@[simp] theorem State.irq_watches (s : State) (fn v : Nat) : (s.irq fn v).watches = s.watches := rfl
@[simp] theorem State.irq_resident (s : State) (fn v : Nat) : (s.irq fn v).resident = s.resident := rfl
@[simp] theorem State.irq_saves (s : State) (fn v : Nat) : (s.irq fn v).saves = s.saves := rfl
@[simp] theorem State.irq_seqrs (s : State) (fn v : Nat) : (s.irq fn v).seqrs = s.seqrs := rfl
@[simp] theorem State.irq_tlb (s : State) (fn v : Nat) : (s.irq fn v).tlb = s.tlb := rfl
@[simp] theorem State.irq_walks (s : State) (fn v : Nat) : (s.irq fn v).walks = s.walks := rfl
@[simp] theorem State.irq_coh (s : State) (fn v : Nat) : (s.irq fn v).coh = s.coh := rfl
@[simp] theorem State.irq_ckpts (s : State) (fn v : Nat) : (s.irq fn v).ckpts = s.ckpts := rfl
@[simp] theorem State.irq_replayQ (s : State) (fn v : Nat) : (s.irq fn v).replayQ = s.replayQ := rfl
@[simp] theorem State.irq_snaps (s : State) (fn v : Nat) : (s.irq fn v).snaps = s.snaps := rfl
@[simp] theorem State.irq_nextId (s : State) (fn v : Nat) : (s.irq fn v).nextId = s.nextId := rfl
@[simp] theorem State.irq_freeCtr (s : State) (fn v : Nat) : (s.irq fn v).freeCtr = s.freeCtr := rfl
@[simp] theorem State.irq_issueCtr (s : State) (fn v : Nat) : (s.irq fn v).issueCtr = s.issueCtr := rfl

/-! `unhandled` -/

@[simp] theorem State.unhandled_rest (s : State) (t : Trap) (epc : Word) : (s.unhandled t epc).rest = s.rest := rfl
@[simp] theorem State.unhandled_sched (s : State) (t : Trap) (epc : Word) : (s.unhandled t epc).sched = s.sched := rfl
@[simp] theorem State.unhandled_ahead (s : State) (t : Trap) (epc : Word) : (s.unhandled t epc).ahead = s.ahead := rfl
@[simp] theorem State.unhandled_dev (s : State) (t : Trap) (epc : Word) : (s.unhandled t epc).dev = s.dev := rfl
@[simp] theorem State.unhandled_launches (s : State) (t : Trap) (epc : Word) : (s.unhandled t epc).launches = s.launches := rfl
@[simp] theorem State.unhandled_tasks (s : State) (t : Trap) (epc : Word) : (s.unhandled t epc).tasks = s.tasks := rfl
@[simp] theorem State.unhandled_taskGens (s : State) (t : Trap) (epc : Word) : (s.unhandled t epc).taskGens = s.taskGens := rfl
@[simp] theorem State.unhandled_mem (s : State) (t : Trap) (epc : Word) : (s.unhandled t epc).mem = s.mem := rfl
@[simp] theorem State.unhandled_memKey (s : State) (t : Trap) (epc : Word) : (s.unhandled t epc).memKey = s.memKey := rfl
@[simp] theorem State.unhandled_bad (s : State) (t : Trap) (epc : Word) : (s.unhandled t epc).bad = s.bad := rfl
@[simp] theorem State.unhandled_badCache (s : State) (t : Trap) (epc : Word) : (s.unhandled t epc).badCache = s.badCache := rfl
@[simp] theorem State.unhandled_reg (s : State) (t : Trap) (epc : Word) : (s.unhandled t epc).reg = s.reg := rfl
@[simp] theorem State.unhandled_amoRuns (s : State) (t : Trap) (epc : Word) : (s.unhandled t epc).amoRuns = s.amoRuns := rfl
@[simp] theorem State.unhandled_l1 (s : State) (t : Trap) (epc : Word) : (s.unhandled t epc).l1 = s.l1 := rfl
@[simp] theorem State.unhandled_peerCopies (s : State) (t : Trap) (epc : Word) : (s.unhandled t epc).peerCopies = s.peerCopies := rfl
@[simp] theorem State.unhandled_net (s : State) (t : Trap) (epc : Word) : (s.unhandled t epc).net = s.net ++ [s.dev.msi s.me.tenant 0] := rfl
@[simp] theorem State.unhandled_jobs (s : State) (t : Trap) (epc : Word) : (s.unhandled t epc).jobs = s.jobs := rfl
@[simp] theorem State.unhandled_rows (s : State) (t : Trap) (epc : Word) : (s.unhandled t epc).rows = s.rows := rfl
@[simp] theorem State.unhandled_evFlight (s : State) (t : Trap) (epc : Word) : (s.unhandled t epc).evFlight = s.evFlight := rfl
@[simp] theorem State.unhandled_plans (s : State) (t : Trap) (epc : Word) : (s.unhandled t epc).plans = s.plans := rfl
@[simp] theorem State.unhandled_planGens (s : State) (t : Trap) (epc : Word) : (s.unhandled t epc).planGens = s.planGens := rfl
@[simp] theorem State.unhandled_watches (s : State) (t : Trap) (epc : Word) : (s.unhandled t epc).watches = s.watches := rfl
@[simp] theorem State.unhandled_resident (s : State) (t : Trap) (epc : Word) : (s.unhandled t epc).resident = s.resident := rfl
@[simp] theorem State.unhandled_saves (s : State) (t : Trap) (epc : Word) : (s.unhandled t epc).saves = s.saves := rfl
@[simp] theorem State.unhandled_seqrs (s : State) (t : Trap) (epc : Word) : (s.unhandled t epc).seqrs = s.seqrs := rfl
@[simp] theorem State.unhandled_tlb (s : State) (t : Trap) (epc : Word) : (s.unhandled t epc).tlb = s.tlb := rfl
@[simp] theorem State.unhandled_walks (s : State) (t : Trap) (epc : Word) : (s.unhandled t epc).walks = s.walks := rfl
@[simp] theorem State.unhandled_coh (s : State) (t : Trap) (epc : Word) : (s.unhandled t epc).coh = s.coh := rfl
@[simp] theorem State.unhandled_ckpts (s : State) (t : Trap) (epc : Word) : (s.unhandled t epc).ckpts = s.ckpts := rfl
@[simp] theorem State.unhandled_replayQ (s : State) (t : Trap) (epc : Word) : (s.unhandled t epc).replayQ = s.replayQ := rfl
@[simp] theorem State.unhandled_snaps (s : State) (t : Trap) (epc : Word) : (s.unhandled t epc).snaps = s.snaps := rfl
@[simp] theorem State.unhandled_nextId (s : State) (t : Trap) (epc : Word) : (s.unhandled t epc).nextId = s.nextId := rfl
@[simp] theorem State.unhandled_freeCtr (s : State) (t : Trap) (epc : Word) : (s.unhandled t epc).freeCtr = s.freeCtr := rfl
@[simp] theorem State.unhandled_issueCtr (s : State) (t : Trap) (epc : Word) : (s.unhandled t epc).issueCtr = s.issueCtr := rfl

/-! `Flow.next` -/

@[simp] theorem Flow.next_key (f : Flow) : (f.next).key = f.key := rfl
@[simp] theorem Flow.next_loc (f : Flow) : (f.next).loc = f.loc := rfl
@[simp] theorem Flow.next_tenant (f : Flow) : (f.next).tenant = f.tenant := rfl
@[simp] theorem Flow.next_status (f : Flow) : (f.next).status = f.status := rfl
@[simp] theorem Flow.next_pc (f : Flow) : (f.next).pc = f.pc + 4 := rfl
@[simp] theorem Flow.next_s (f : Flow) : (f.next).s = f.s := rfl
@[simp] theorem Flow.next_busy (f : Flow) : (f.next).busy = f.busy := rfl
@[simp] theorem Flow.next_v (f : Flow) : (f.next).v = f.v := rfl
@[simp] theorem Flow.next_m (f : Flow) : (f.next).m = f.m := rfl
@[simp] theorem Flow.next_act (f : Flow) : (f.next).act = f.act := rfl
@[simp] theorem Flow.next_vl (f : Flow) : (f.next).vl = f.vl := rfl
@[simp] theorem Flow.next_vtype (f : Flow) : (f.next).vtype = f.vtype := rfl
@[simp] theorem Flow.next_svp (f : Flow) : (f.next).svp = f.svp := rfl
@[simp] theorem Flow.next_vprog (f : Flow) : (f.next).vprog = f.vprog := rfl
@[simp] theorem Flow.next_vgnt (f : Flow) : (f.next).vgnt = f.vgnt := rfl
@[simp] theorem Flow.next_convoy (f : Flow) : (f.next).convoy = f.convoy := rfl
@[simp] theorem Flow.next_tags (f : Flow) : (f.next).tags = f.tags := rfl
@[simp] theorem Flow.next_reserved (f : Flow) : (f.next).reserved = f.reserved := rfl
@[simp] theorem Flow.next_loop (f : Flow) : (f.next).loop = f.loop := rfl
@[simp] theorem Flow.next_frags (f : Flow) : (f.next).frags = f.frags := rfl
@[simp] theorem Flow.next_vsq (f : Flow) : (f.next).vsq = f.vsq := rfl
@[simp] theorem Flow.next_ival (f : Flow) : (f.next).ival = f.ival := rfl
@[simp] theorem Flow.next_seq (f : Flow) : (f.next).seq = f.seq := rfl
@[simp] theorem Flow.next_strips (f : Flow) : (f.next).strips = f.strips := rfl
@[simp] theorem Flow.next_sb (f : Flow) : (f.next).sb = f.sb := rfl
@[simp] theorem Flow.next_cq (f : Flow) : (f.next).cq = f.cq := rfl
@[simp] theorem Flow.next_fences (f : Flow) : (f.next).fences = f.fences := rfl
@[simp] theorem Flow.next_rf (f : Flow) : (f.next).rf = f.rf := rfl
@[simp] theorem Flow.next_issued (f : Flow) : (f.next).issued = f.issued := rfl
@[simp] theorem Flow.next_eq (f : Flow) : (f.next).eq = f.eq := rfl
@[simp] theorem Flow.next_vq (f : Flow) : (f.next).vq = f.vq := rfl
@[simp] theorem Flow.next_cv (f : Flow) : (f.next).cv = f.cv := rfl
@[simp] theorem Flow.next_age (f : Flow) : (f.next).age = f.age := rfl
@[simp] theorem Flow.next_cause (f : Flow) : (f.next).cause = f.cause := rfl
@[simp] theorem Flow.next_epc (f : Flow) : (f.next).epc = f.epc := rfl
@[simp] theorem Flow.next_eval (f : Flow) : (f.next).eval = f.eval := rfl
@[simp] theorem Flow.next_status3 (f : Flow) : (f.next).status3 = f.status3 := rfl
@[simp] theorem Flow.next_preq (f : Flow) : (f.next).preq = f.preq := rfl
@[simp] theorem Flow.next_asked (f : Flow) : (f.next).asked = f.asked := rfl
@[simp] theorem Flow.next_point (f : Flow) : (f.next).point = f.point := rfl
@[simp] theorem Flow.next_skipPoint (f : Flow) : (f.next).skipPoint = f.skipPoint := rfl
@[simp] theorem Flow.next_noRoom (f : Flow) : (f.next).noRoom = f.noRoom := rfl
@[simp] theorem Flow.next_qm (f : Flow) : (f.next).qm = f.qm := rfl
@[simp] theorem Flow.next_slots (f : Flow) : (f.next).slots = f.slots := rfl
@[simp] theorem Flow.next_mxq (f : Flow) : (f.next).mxq = f.mxq := rfl
@[simp] theorem Flow.next_tt (f : Flow) : (f.next).tt = f.tt := rfl
@[simp] theorem Flow.next_ttcur (f : Flow) : (f.next).ttcur = f.ttcur := rfl
@[simp] theorem Flow.next_ttmiss (f : Flow) : (f.next).ttmiss = f.ttmiss := rfl
@[simp] theorem Flow.next_ctags (f : Flow) : (f.next).ctags = f.ctags := rfl
@[simp] theorem Flow.next_cscope (f : Flow) : (f.next).cscope = f.cscope := rfl
@[simp] theorem Flow.next_log (f : Flow) : (f.next).log = f.log := rfl
@[simp] theorem Flow.next_events (f : Flow) : (f.next).events = f.events := rfl
@[simp] theorem Flow.next_evOvf (f : Flow) : (f.next).evOvf = f.evOvf := rfl
@[simp] theorem Flow.next_task (f : Flow) : (f.next).task = f.task := rfl
@[simp] theorem Flow.next_barInst (f : Flow) : (f.next).barInst = f.barInst := rfl
@[simp] theorem Flow.next_avl (f : Flow) : (f.next).avl = f.avl := rfl
@[simp] theorem Flow.next_enTrapped (f : Flow) : (f.next).enTrapped = f.enTrapped := rfl
@[simp] theorem Flow.next_rebuilt (f : Flow) : (f.next).rebuilt = f.rebuilt := rfl
@[simp] theorem Flow.next_fetch (f : Flow) : (f.next).fetch = f.fetch := rfl
@[simp] theorem Flow.next_bad (f : Flow) : (f.next).bad = f.bad := rfl
@[simp] theorem Flow.next_qBeats (f : Flow) : (f.next).qBeats = f.qBeats := rfl
@[simp] theorem Flow.next_qEnd (f : Flow) : (f.next).qEnd = f.qEnd := rfl
@[simp] theorem Flow.next_qGo (f : Flow) : (f.next).qGo = f.qGo := rfl

/-! `Flow.wr` -/

@[simp] theorem Flow.wr_key (f : Flow) (r : BitVec 5) (x : Word) : (f.wr r x).key = f.key := by unfold Flow.wr; split <;> rfl
@[simp] theorem Flow.wr_loc (f : Flow) (r : BitVec 5) (x : Word) : (f.wr r x).loc = f.loc := by unfold Flow.wr; split <;> rfl
@[simp] theorem Flow.wr_tenant (f : Flow) (r : BitVec 5) (x : Word) : (f.wr r x).tenant = f.tenant := by unfold Flow.wr; split <;> rfl
@[simp] theorem Flow.wr_status (f : Flow) (r : BitVec 5) (x : Word) : (f.wr r x).status = f.status := by unfold Flow.wr; split <;> rfl
@[simp] theorem Flow.wr_pc (f : Flow) (r : BitVec 5) (x : Word) : (f.wr r x).pc = f.pc := by unfold Flow.wr; split <;> rfl
@[simp] theorem Flow.wr_v (f : Flow) (r : BitVec 5) (x : Word) : (f.wr r x).v = f.v := by unfold Flow.wr; split <;> rfl
@[simp] theorem Flow.wr_m (f : Flow) (r : BitVec 5) (x : Word) : (f.wr r x).m = f.m := by unfold Flow.wr; split <;> rfl
@[simp] theorem Flow.wr_act (f : Flow) (r : BitVec 5) (x : Word) : (f.wr r x).act = f.act := by unfold Flow.wr; split <;> rfl
@[simp] theorem Flow.wr_vl (f : Flow) (r : BitVec 5) (x : Word) : (f.wr r x).vl = f.vl := by unfold Flow.wr; split <;> rfl
@[simp] theorem Flow.wr_vtype (f : Flow) (r : BitVec 5) (x : Word) : (f.wr r x).vtype = f.vtype := by unfold Flow.wr; split <;> rfl
@[simp] theorem Flow.wr_svp (f : Flow) (r : BitVec 5) (x : Word) : (f.wr r x).svp = f.svp := by unfold Flow.wr; split <;> rfl
@[simp] theorem Flow.wr_vprog (f : Flow) (r : BitVec 5) (x : Word) : (f.wr r x).vprog = f.vprog := by unfold Flow.wr; split <;> rfl
@[simp] theorem Flow.wr_vgnt (f : Flow) (r : BitVec 5) (x : Word) : (f.wr r x).vgnt = f.vgnt := by unfold Flow.wr; split <;> rfl
@[simp] theorem Flow.wr_convoy (f : Flow) (r : BitVec 5) (x : Word) : (f.wr r x).convoy = f.convoy := by unfold Flow.wr; split <;> rfl
@[simp] theorem Flow.wr_tags (f : Flow) (r : BitVec 5) (x : Word) : (f.wr r x).tags = f.tags := by unfold Flow.wr; split <;> rfl
@[simp] theorem Flow.wr_reserved (f : Flow) (r : BitVec 5) (x : Word) : (f.wr r x).reserved = f.reserved := by unfold Flow.wr; split <;> rfl
@[simp] theorem Flow.wr_loop (f : Flow) (r : BitVec 5) (x : Word) : (f.wr r x).loop = f.loop := by unfold Flow.wr; split <;> rfl
@[simp] theorem Flow.wr_frags (f : Flow) (r : BitVec 5) (x : Word) : (f.wr r x).frags = f.frags := by unfold Flow.wr; split <;> rfl
@[simp] theorem Flow.wr_vsq (f : Flow) (r : BitVec 5) (x : Word) : (f.wr r x).vsq = f.vsq := by unfold Flow.wr; split <;> rfl
@[simp] theorem Flow.wr_ival (f : Flow) (r : BitVec 5) (x : Word) : (f.wr r x).ival = f.ival := by unfold Flow.wr; split <;> rfl
@[simp] theorem Flow.wr_seq (f : Flow) (r : BitVec 5) (x : Word) : (f.wr r x).seq = f.seq := by unfold Flow.wr; split <;> rfl
@[simp] theorem Flow.wr_strips (f : Flow) (r : BitVec 5) (x : Word) : (f.wr r x).strips = f.strips := by unfold Flow.wr; split <;> rfl
@[simp] theorem Flow.wr_sb (f : Flow) (r : BitVec 5) (x : Word) : (f.wr r x).sb = f.sb := by unfold Flow.wr; split <;> rfl
@[simp] theorem Flow.wr_cq (f : Flow) (r : BitVec 5) (x : Word) : (f.wr r x).cq = f.cq := by unfold Flow.wr; split <;> rfl
@[simp] theorem Flow.wr_fences (f : Flow) (r : BitVec 5) (x : Word) : (f.wr r x).fences = f.fences := by unfold Flow.wr; split <;> rfl
@[simp] theorem Flow.wr_rf (f : Flow) (r : BitVec 5) (x : Word) : (f.wr r x).rf = f.rf := by unfold Flow.wr; split <;> rfl
@[simp] theorem Flow.wr_issued (f : Flow) (r : BitVec 5) (x : Word) : (f.wr r x).issued = f.issued := by unfold Flow.wr; split <;> rfl
@[simp] theorem Flow.wr_eq (f : Flow) (r : BitVec 5) (x : Word) : (f.wr r x).eq = f.eq := by unfold Flow.wr; split <;> rfl
@[simp] theorem Flow.wr_vq (f : Flow) (r : BitVec 5) (x : Word) : (f.wr r x).vq = f.vq := by unfold Flow.wr; split <;> rfl
@[simp] theorem Flow.wr_cv (f : Flow) (r : BitVec 5) (x : Word) : (f.wr r x).cv = f.cv := by unfold Flow.wr; split <;> rfl
@[simp] theorem Flow.wr_age (f : Flow) (r : BitVec 5) (x : Word) : (f.wr r x).age = f.age := by unfold Flow.wr; split <;> rfl
@[simp] theorem Flow.wr_cause (f : Flow) (r : BitVec 5) (x : Word) : (f.wr r x).cause = f.cause := by unfold Flow.wr; split <;> rfl
@[simp] theorem Flow.wr_epc (f : Flow) (r : BitVec 5) (x : Word) : (f.wr r x).epc = f.epc := by unfold Flow.wr; split <;> rfl
@[simp] theorem Flow.wr_eval (f : Flow) (r : BitVec 5) (x : Word) : (f.wr r x).eval = f.eval := by unfold Flow.wr; split <;> rfl
@[simp] theorem Flow.wr_status3 (f : Flow) (r : BitVec 5) (x : Word) : (f.wr r x).status3 = f.status3 := by unfold Flow.wr; split <;> rfl
@[simp] theorem Flow.wr_preq (f : Flow) (r : BitVec 5) (x : Word) : (f.wr r x).preq = f.preq := by unfold Flow.wr; split <;> rfl
@[simp] theorem Flow.wr_asked (f : Flow) (r : BitVec 5) (x : Word) : (f.wr r x).asked = f.asked := by unfold Flow.wr; split <;> rfl
@[simp] theorem Flow.wr_point (f : Flow) (r : BitVec 5) (x : Word) : (f.wr r x).point = f.point := by unfold Flow.wr; split <;> rfl
@[simp] theorem Flow.wr_skipPoint (f : Flow) (r : BitVec 5) (x : Word) : (f.wr r x).skipPoint = f.skipPoint := by unfold Flow.wr; split <;> rfl
@[simp] theorem Flow.wr_noRoom (f : Flow) (r : BitVec 5) (x : Word) : (f.wr r x).noRoom = f.noRoom := by unfold Flow.wr; split <;> rfl
@[simp] theorem Flow.wr_qm (f : Flow) (r : BitVec 5) (x : Word) : (f.wr r x).qm = f.qm := by unfold Flow.wr; split <;> rfl
@[simp] theorem Flow.wr_slots (f : Flow) (r : BitVec 5) (x : Word) : (f.wr r x).slots = f.slots := by unfold Flow.wr; split <;> rfl
@[simp] theorem Flow.wr_mxq (f : Flow) (r : BitVec 5) (x : Word) : (f.wr r x).mxq = f.mxq := by unfold Flow.wr; split <;> rfl
@[simp] theorem Flow.wr_tt (f : Flow) (r : BitVec 5) (x : Word) : (f.wr r x).tt = f.tt := by unfold Flow.wr; split <;> rfl
@[simp] theorem Flow.wr_ttcur (f : Flow) (r : BitVec 5) (x : Word) : (f.wr r x).ttcur = f.ttcur := by unfold Flow.wr; split <;> rfl
@[simp] theorem Flow.wr_ttmiss (f : Flow) (r : BitVec 5) (x : Word) : (f.wr r x).ttmiss = f.ttmiss := by unfold Flow.wr; split <;> rfl
@[simp] theorem Flow.wr_ctags (f : Flow) (r : BitVec 5) (x : Word) : (f.wr r x).ctags = f.ctags := by unfold Flow.wr; split <;> rfl
@[simp] theorem Flow.wr_cscope (f : Flow) (r : BitVec 5) (x : Word) : (f.wr r x).cscope = f.cscope := by unfold Flow.wr; split <;> rfl
@[simp] theorem Flow.wr_log (f : Flow) (r : BitVec 5) (x : Word) : (f.wr r x).log = f.log := by unfold Flow.wr; split <;> rfl
@[simp] theorem Flow.wr_events (f : Flow) (r : BitVec 5) (x : Word) : (f.wr r x).events = f.events := by unfold Flow.wr; split <;> rfl
@[simp] theorem Flow.wr_evOvf (f : Flow) (r : BitVec 5) (x : Word) : (f.wr r x).evOvf = f.evOvf := by unfold Flow.wr; split <;> rfl
@[simp] theorem Flow.wr_task (f : Flow) (r : BitVec 5) (x : Word) : (f.wr r x).task = f.task := by unfold Flow.wr; split <;> rfl
@[simp] theorem Flow.wr_barInst (f : Flow) (r : BitVec 5) (x : Word) : (f.wr r x).barInst = f.barInst := by unfold Flow.wr; split <;> rfl
@[simp] theorem Flow.wr_avl (f : Flow) (r : BitVec 5) (x : Word) : (f.wr r x).avl = f.avl := by unfold Flow.wr; split <;> rfl
@[simp] theorem Flow.wr_enTrapped (f : Flow) (r : BitVec 5) (x : Word) : (f.wr r x).enTrapped = f.enTrapped := by unfold Flow.wr; split <;> rfl
@[simp] theorem Flow.wr_rebuilt (f : Flow) (r : BitVec 5) (x : Word) : (f.wr r x).rebuilt = f.rebuilt := by unfold Flow.wr; split <;> rfl
@[simp] theorem Flow.wr_fetch (f : Flow) (r : BitVec 5) (x : Word) : (f.wr r x).fetch = f.fetch := by unfold Flow.wr; split <;> rfl
@[simp] theorem Flow.wr_qBeats (f : Flow) (r : BitVec 5) (x : Word) : (f.wr r x).qBeats = f.qBeats := by unfold Flow.wr; split <;> rfl
@[simp] theorem Flow.wr_qEnd (f : Flow) (r : BitVec 5) (x : Word) : (f.wr r x).qEnd = f.qEnd := by unfold Flow.wr; split <;> rfl
@[simp] theorem Flow.wr_qGo (f : Flow) (r : BitVec 5) (x : Word) : (f.wr r x).qGo = f.qGo := by unfold Flow.wr; split <;> rfl

/-! `Flow.wrBusy` -/

@[simp] theorem Flow.wrBusy_key (f : Flow) (r : BitVec 5) (x : Word) : (f.wrBusy r x).key = f.key := by unfold Flow.wrBusy; split <;> rfl
@[simp] theorem Flow.wrBusy_loc (f : Flow) (r : BitVec 5) (x : Word) : (f.wrBusy r x).loc = f.loc := by unfold Flow.wrBusy; split <;> rfl
@[simp] theorem Flow.wrBusy_tenant (f : Flow) (r : BitVec 5) (x : Word) : (f.wrBusy r x).tenant = f.tenant := by unfold Flow.wrBusy; split <;> rfl
@[simp] theorem Flow.wrBusy_status (f : Flow) (r : BitVec 5) (x : Word) : (f.wrBusy r x).status = f.status := by unfold Flow.wrBusy; split <;> rfl
@[simp] theorem Flow.wrBusy_pc (f : Flow) (r : BitVec 5) (x : Word) : (f.wrBusy r x).pc = f.pc := by unfold Flow.wrBusy; split <;> rfl
@[simp] theorem Flow.wrBusy_s (f : Flow) (r : BitVec 5) (x : Word) : (f.wrBusy r x).s = f.s := by unfold Flow.wrBusy; split <;> rfl
@[simp] theorem Flow.wrBusy_v (f : Flow) (r : BitVec 5) (x : Word) : (f.wrBusy r x).v = f.v := by unfold Flow.wrBusy; split <;> rfl
@[simp] theorem Flow.wrBusy_m (f : Flow) (r : BitVec 5) (x : Word) : (f.wrBusy r x).m = f.m := by unfold Flow.wrBusy; split <;> rfl
@[simp] theorem Flow.wrBusy_act (f : Flow) (r : BitVec 5) (x : Word) : (f.wrBusy r x).act = f.act := by unfold Flow.wrBusy; split <;> rfl
@[simp] theorem Flow.wrBusy_vl (f : Flow) (r : BitVec 5) (x : Word) : (f.wrBusy r x).vl = f.vl := by unfold Flow.wrBusy; split <;> rfl
@[simp] theorem Flow.wrBusy_vtype (f : Flow) (r : BitVec 5) (x : Word) : (f.wrBusy r x).vtype = f.vtype := by unfold Flow.wrBusy; split <;> rfl
@[simp] theorem Flow.wrBusy_svp (f : Flow) (r : BitVec 5) (x : Word) : (f.wrBusy r x).svp = f.svp := by unfold Flow.wrBusy; split <;> rfl
@[simp] theorem Flow.wrBusy_vprog (f : Flow) (r : BitVec 5) (x : Word) : (f.wrBusy r x).vprog = f.vprog := by unfold Flow.wrBusy; split <;> rfl
@[simp] theorem Flow.wrBusy_vgnt (f : Flow) (r : BitVec 5) (x : Word) : (f.wrBusy r x).vgnt = f.vgnt := by unfold Flow.wrBusy; split <;> rfl
@[simp] theorem Flow.wrBusy_convoy (f : Flow) (r : BitVec 5) (x : Word) : (f.wrBusy r x).convoy = f.convoy := by unfold Flow.wrBusy; split <;> rfl
@[simp] theorem Flow.wrBusy_tags (f : Flow) (r : BitVec 5) (x : Word) : (f.wrBusy r x).tags = f.tags := by unfold Flow.wrBusy; split <;> rfl
@[simp] theorem Flow.wrBusy_reserved (f : Flow) (r : BitVec 5) (x : Word) : (f.wrBusy r x).reserved = f.reserved := by unfold Flow.wrBusy; split <;> rfl
@[simp] theorem Flow.wrBusy_loop (f : Flow) (r : BitVec 5) (x : Word) : (f.wrBusy r x).loop = f.loop := by unfold Flow.wrBusy; split <;> rfl
@[simp] theorem Flow.wrBusy_frags (f : Flow) (r : BitVec 5) (x : Word) : (f.wrBusy r x).frags = f.frags := by unfold Flow.wrBusy; split <;> rfl
@[simp] theorem Flow.wrBusy_vsq (f : Flow) (r : BitVec 5) (x : Word) : (f.wrBusy r x).vsq = f.vsq := by unfold Flow.wrBusy; split <;> rfl
@[simp] theorem Flow.wrBusy_ival (f : Flow) (r : BitVec 5) (x : Word) : (f.wrBusy r x).ival = f.ival := by unfold Flow.wrBusy; split <;> rfl
@[simp] theorem Flow.wrBusy_seq (f : Flow) (r : BitVec 5) (x : Word) : (f.wrBusy r x).seq = f.seq := by unfold Flow.wrBusy; split <;> rfl
@[simp] theorem Flow.wrBusy_strips (f : Flow) (r : BitVec 5) (x : Word) : (f.wrBusy r x).strips = f.strips := by unfold Flow.wrBusy; split <;> rfl
@[simp] theorem Flow.wrBusy_sb (f : Flow) (r : BitVec 5) (x : Word) : (f.wrBusy r x).sb = f.sb := by unfold Flow.wrBusy; split <;> rfl
@[simp] theorem Flow.wrBusy_cq (f : Flow) (r : BitVec 5) (x : Word) : (f.wrBusy r x).cq = f.cq := by unfold Flow.wrBusy; split <;> rfl
@[simp] theorem Flow.wrBusy_fences (f : Flow) (r : BitVec 5) (x : Word) : (f.wrBusy r x).fences = f.fences := by unfold Flow.wrBusy; split <;> rfl
@[simp] theorem Flow.wrBusy_rf (f : Flow) (r : BitVec 5) (x : Word) : (f.wrBusy r x).rf = f.rf := by unfold Flow.wrBusy; split <;> rfl
@[simp] theorem Flow.wrBusy_issued (f : Flow) (r : BitVec 5) (x : Word) : (f.wrBusy r x).issued = f.issued := by unfold Flow.wrBusy; split <;> rfl
@[simp] theorem Flow.wrBusy_eq (f : Flow) (r : BitVec 5) (x : Word) : (f.wrBusy r x).eq = f.eq := by unfold Flow.wrBusy; split <;> rfl
@[simp] theorem Flow.wrBusy_vq (f : Flow) (r : BitVec 5) (x : Word) : (f.wrBusy r x).vq = f.vq := by unfold Flow.wrBusy; split <;> rfl
@[simp] theorem Flow.wrBusy_cv (f : Flow) (r : BitVec 5) (x : Word) : (f.wrBusy r x).cv = f.cv := by unfold Flow.wrBusy; split <;> rfl
@[simp] theorem Flow.wrBusy_age (f : Flow) (r : BitVec 5) (x : Word) : (f.wrBusy r x).age = f.age := by unfold Flow.wrBusy; split <;> rfl
@[simp] theorem Flow.wrBusy_cause (f : Flow) (r : BitVec 5) (x : Word) : (f.wrBusy r x).cause = f.cause := by unfold Flow.wrBusy; split <;> rfl
@[simp] theorem Flow.wrBusy_epc (f : Flow) (r : BitVec 5) (x : Word) : (f.wrBusy r x).epc = f.epc := by unfold Flow.wrBusy; split <;> rfl
@[simp] theorem Flow.wrBusy_eval (f : Flow) (r : BitVec 5) (x : Word) : (f.wrBusy r x).eval = f.eval := by unfold Flow.wrBusy; split <;> rfl
@[simp] theorem Flow.wrBusy_status3 (f : Flow) (r : BitVec 5) (x : Word) : (f.wrBusy r x).status3 = f.status3 := by unfold Flow.wrBusy; split <;> rfl
@[simp] theorem Flow.wrBusy_preq (f : Flow) (r : BitVec 5) (x : Word) : (f.wrBusy r x).preq = f.preq := by unfold Flow.wrBusy; split <;> rfl
@[simp] theorem Flow.wrBusy_asked (f : Flow) (r : BitVec 5) (x : Word) : (f.wrBusy r x).asked = f.asked := by unfold Flow.wrBusy; split <;> rfl
@[simp] theorem Flow.wrBusy_point (f : Flow) (r : BitVec 5) (x : Word) : (f.wrBusy r x).point = f.point := by unfold Flow.wrBusy; split <;> rfl
@[simp] theorem Flow.wrBusy_skipPoint (f : Flow) (r : BitVec 5) (x : Word) : (f.wrBusy r x).skipPoint = f.skipPoint := by unfold Flow.wrBusy; split <;> rfl
@[simp] theorem Flow.wrBusy_noRoom (f : Flow) (r : BitVec 5) (x : Word) : (f.wrBusy r x).noRoom = f.noRoom := by unfold Flow.wrBusy; split <;> rfl
@[simp] theorem Flow.wrBusy_qm (f : Flow) (r : BitVec 5) (x : Word) : (f.wrBusy r x).qm = f.qm := by unfold Flow.wrBusy; split <;> rfl
@[simp] theorem Flow.wrBusy_slots (f : Flow) (r : BitVec 5) (x : Word) : (f.wrBusy r x).slots = f.slots := by unfold Flow.wrBusy; split <;> rfl
@[simp] theorem Flow.wrBusy_mxq (f : Flow) (r : BitVec 5) (x : Word) : (f.wrBusy r x).mxq = f.mxq := by unfold Flow.wrBusy; split <;> rfl
@[simp] theorem Flow.wrBusy_tt (f : Flow) (r : BitVec 5) (x : Word) : (f.wrBusy r x).tt = f.tt := by unfold Flow.wrBusy; split <;> rfl
@[simp] theorem Flow.wrBusy_ttcur (f : Flow) (r : BitVec 5) (x : Word) : (f.wrBusy r x).ttcur = f.ttcur := by unfold Flow.wrBusy; split <;> rfl
@[simp] theorem Flow.wrBusy_ttmiss (f : Flow) (r : BitVec 5) (x : Word) : (f.wrBusy r x).ttmiss = f.ttmiss := by unfold Flow.wrBusy; split <;> rfl
@[simp] theorem Flow.wrBusy_ctags (f : Flow) (r : BitVec 5) (x : Word) : (f.wrBusy r x).ctags = f.ctags := by unfold Flow.wrBusy; split <;> rfl
@[simp] theorem Flow.wrBusy_cscope (f : Flow) (r : BitVec 5) (x : Word) : (f.wrBusy r x).cscope = f.cscope := by unfold Flow.wrBusy; split <;> rfl
@[simp] theorem Flow.wrBusy_log (f : Flow) (r : BitVec 5) (x : Word) : (f.wrBusy r x).log = f.log := by unfold Flow.wrBusy; split <;> rfl
@[simp] theorem Flow.wrBusy_events (f : Flow) (r : BitVec 5) (x : Word) : (f.wrBusy r x).events = f.events := by unfold Flow.wrBusy; split <;> rfl
@[simp] theorem Flow.wrBusy_evOvf (f : Flow) (r : BitVec 5) (x : Word) : (f.wrBusy r x).evOvf = f.evOvf := by unfold Flow.wrBusy; split <;> rfl
@[simp] theorem Flow.wrBusy_task (f : Flow) (r : BitVec 5) (x : Word) : (f.wrBusy r x).task = f.task := by unfold Flow.wrBusy; split <;> rfl
@[simp] theorem Flow.wrBusy_barInst (f : Flow) (r : BitVec 5) (x : Word) : (f.wrBusy r x).barInst = f.barInst := by unfold Flow.wrBusy; split <;> rfl
@[simp] theorem Flow.wrBusy_avl (f : Flow) (r : BitVec 5) (x : Word) : (f.wrBusy r x).avl = f.avl := by unfold Flow.wrBusy; split <;> rfl
@[simp] theorem Flow.wrBusy_enTrapped (f : Flow) (r : BitVec 5) (x : Word) : (f.wrBusy r x).enTrapped = f.enTrapped := by unfold Flow.wrBusy; split <;> rfl
@[simp] theorem Flow.wrBusy_rebuilt (f : Flow) (r : BitVec 5) (x : Word) : (f.wrBusy r x).rebuilt = f.rebuilt := by unfold Flow.wrBusy; split <;> rfl
@[simp] theorem Flow.wrBusy_fetch (f : Flow) (r : BitVec 5) (x : Word) : (f.wrBusy r x).fetch = f.fetch := by unfold Flow.wrBusy; split <;> rfl
@[simp] theorem Flow.wrBusy_qBeats (f : Flow) (r : BitVec 5) (x : Word) : (f.wrBusy r x).qBeats = f.qBeats := by unfold Flow.wrBusy; split <;> rfl
@[simp] theorem Flow.wrBusy_qEnd (f : Flow) (r : BitVec 5) (x : Word) : (f.wrBusy r x).qEnd = f.qEnd := by unfold Flow.wrBusy; split <;> rfl
@[simp] theorem Flow.wrBusy_qGo (f : Flow) (r : BitVec 5) (x : Word) : (f.wrBusy r x).qGo = f.qGo := by unfold Flow.wrBusy; split <;> rfl

/-! `Flow.setTag` -/

@[simp] theorem Flow.setTag_key (f : Flow) (n : Nat) (t : TagSt) : (f.setTag n t).key = f.key := rfl
@[simp] theorem Flow.setTag_loc (f : Flow) (n : Nat) (t : TagSt) : (f.setTag n t).loc = f.loc := rfl
@[simp] theorem Flow.setTag_tenant (f : Flow) (n : Nat) (t : TagSt) : (f.setTag n t).tenant = f.tenant := rfl
@[simp] theorem Flow.setTag_status (f : Flow) (n : Nat) (t : TagSt) : (f.setTag n t).status = f.status := rfl
@[simp] theorem Flow.setTag_pc (f : Flow) (n : Nat) (t : TagSt) : (f.setTag n t).pc = f.pc := rfl
@[simp] theorem Flow.setTag_s (f : Flow) (n : Nat) (t : TagSt) : (f.setTag n t).s = f.s := rfl
@[simp] theorem Flow.setTag_busy (f : Flow) (n : Nat) (t : TagSt) : (f.setTag n t).busy = f.busy := rfl
@[simp] theorem Flow.setTag_v (f : Flow) (n : Nat) (t : TagSt) : (f.setTag n t).v = f.v := rfl
@[simp] theorem Flow.setTag_m (f : Flow) (n : Nat) (t : TagSt) : (f.setTag n t).m = f.m := rfl
@[simp] theorem Flow.setTag_act (f : Flow) (n : Nat) (t : TagSt) : (f.setTag n t).act = f.act := rfl
@[simp] theorem Flow.setTag_vl (f : Flow) (n : Nat) (t : TagSt) : (f.setTag n t).vl = f.vl := rfl
@[simp] theorem Flow.setTag_vtype (f : Flow) (n : Nat) (t : TagSt) : (f.setTag n t).vtype = f.vtype := rfl
@[simp] theorem Flow.setTag_svp (f : Flow) (n : Nat) (t : TagSt) : (f.setTag n t).svp = f.svp := rfl
@[simp] theorem Flow.setTag_vprog (f : Flow) (n : Nat) (t : TagSt) : (f.setTag n t).vprog = f.vprog := rfl
@[simp] theorem Flow.setTag_vgnt (f : Flow) (n : Nat) (t : TagSt) : (f.setTag n t).vgnt = f.vgnt := rfl
@[simp] theorem Flow.setTag_convoy (f : Flow) (n : Nat) (t : TagSt) : (f.setTag n t).convoy = f.convoy := rfl
@[simp] theorem Flow.setTag_tags (f : Flow) (n : Nat) (t : TagSt) : (f.setTag n t).tags = f.tags.set n t := rfl
@[simp] theorem Flow.setTag_reserved (f : Flow) (n : Nat) (t : TagSt) : (f.setTag n t).reserved = f.reserved := rfl
@[simp] theorem Flow.setTag_loop (f : Flow) (n : Nat) (t : TagSt) : (f.setTag n t).loop = f.loop := rfl
@[simp] theorem Flow.setTag_frags (f : Flow) (n : Nat) (t : TagSt) : (f.setTag n t).frags = f.frags := rfl
@[simp] theorem Flow.setTag_vsq (f : Flow) (n : Nat) (t : TagSt) : (f.setTag n t).vsq = f.vsq := rfl
@[simp] theorem Flow.setTag_ival (f : Flow) (n : Nat) (t : TagSt) : (f.setTag n t).ival = f.ival := rfl
@[simp] theorem Flow.setTag_seq (f : Flow) (n : Nat) (t : TagSt) : (f.setTag n t).seq = f.seq := rfl
@[simp] theorem Flow.setTag_strips (f : Flow) (n : Nat) (t : TagSt) : (f.setTag n t).strips = f.strips := rfl
@[simp] theorem Flow.setTag_sb (f : Flow) (n : Nat) (t : TagSt) : (f.setTag n t).sb = f.sb := rfl
@[simp] theorem Flow.setTag_cq (f : Flow) (n : Nat) (t : TagSt) : (f.setTag n t).cq = f.cq := rfl
@[simp] theorem Flow.setTag_fences (f : Flow) (n : Nat) (t : TagSt) : (f.setTag n t).fences = f.fences := rfl
@[simp] theorem Flow.setTag_rf (f : Flow) (n : Nat) (t : TagSt) : (f.setTag n t).rf = f.rf := rfl
@[simp] theorem Flow.setTag_issued (f : Flow) (n : Nat) (t : TagSt) : (f.setTag n t).issued = f.issued := rfl
@[simp] theorem Flow.setTag_eq (f : Flow) (n : Nat) (t : TagSt) : (f.setTag n t).eq = f.eq := rfl
@[simp] theorem Flow.setTag_vq (f : Flow) (n : Nat) (t : TagSt) : (f.setTag n t).vq = f.vq := rfl
@[simp] theorem Flow.setTag_cv (f : Flow) (n : Nat) (t : TagSt) : (f.setTag n t).cv = f.cv := rfl
@[simp] theorem Flow.setTag_age (f : Flow) (n : Nat) (t : TagSt) : (f.setTag n t).age = f.age := rfl
@[simp] theorem Flow.setTag_cause (f : Flow) (n : Nat) (t : TagSt) : (f.setTag n t).cause = f.cause := rfl
@[simp] theorem Flow.setTag_epc (f : Flow) (n : Nat) (t : TagSt) : (f.setTag n t).epc = f.epc := rfl
@[simp] theorem Flow.setTag_eval (f : Flow) (n : Nat) (t : TagSt) : (f.setTag n t).eval = f.eval := rfl
@[simp] theorem Flow.setTag_status3 (f : Flow) (n : Nat) (t : TagSt) : (f.setTag n t).status3 = f.status3 := rfl
@[simp] theorem Flow.setTag_preq (f : Flow) (n : Nat) (t : TagSt) : (f.setTag n t).preq = f.preq := rfl
@[simp] theorem Flow.setTag_asked (f : Flow) (n : Nat) (t : TagSt) : (f.setTag n t).asked = f.asked := rfl
@[simp] theorem Flow.setTag_point (f : Flow) (n : Nat) (t : TagSt) : (f.setTag n t).point = f.point := rfl
@[simp] theorem Flow.setTag_skipPoint (f : Flow) (n : Nat) (t : TagSt) : (f.setTag n t).skipPoint = f.skipPoint := rfl
@[simp] theorem Flow.setTag_noRoom (f : Flow) (n : Nat) (t : TagSt) : (f.setTag n t).noRoom = f.noRoom := rfl
@[simp] theorem Flow.setTag_qm (f : Flow) (n : Nat) (t : TagSt) : (f.setTag n t).qm = f.qm := rfl
@[simp] theorem Flow.setTag_slots (f : Flow) (n : Nat) (t : TagSt) : (f.setTag n t).slots = f.slots := rfl
@[simp] theorem Flow.setTag_mxq (f : Flow) (n : Nat) (t : TagSt) : (f.setTag n t).mxq = f.mxq := rfl
@[simp] theorem Flow.setTag_tt (f : Flow) (n : Nat) (t : TagSt) : (f.setTag n t).tt = f.tt := rfl
@[simp] theorem Flow.setTag_ttcur (f : Flow) (n : Nat) (t : TagSt) : (f.setTag n t).ttcur = f.ttcur := rfl
@[simp] theorem Flow.setTag_ttmiss (f : Flow) (n : Nat) (t : TagSt) : (f.setTag n t).ttmiss = f.ttmiss := rfl
@[simp] theorem Flow.setTag_ctags (f : Flow) (n : Nat) (t : TagSt) : (f.setTag n t).ctags = f.ctags := rfl
@[simp] theorem Flow.setTag_cscope (f : Flow) (n : Nat) (t : TagSt) : (f.setTag n t).cscope = f.cscope := rfl
@[simp] theorem Flow.setTag_log (f : Flow) (n : Nat) (t : TagSt) : (f.setTag n t).log = f.log := rfl
@[simp] theorem Flow.setTag_events (f : Flow) (n : Nat) (t : TagSt) : (f.setTag n t).events = f.events := rfl
@[simp] theorem Flow.setTag_evOvf (f : Flow) (n : Nat) (t : TagSt) : (f.setTag n t).evOvf = f.evOvf := rfl
@[simp] theorem Flow.setTag_task (f : Flow) (n : Nat) (t : TagSt) : (f.setTag n t).task = f.task := rfl
@[simp] theorem Flow.setTag_barInst (f : Flow) (n : Nat) (t : TagSt) : (f.setTag n t).barInst = f.barInst := rfl
@[simp] theorem Flow.setTag_avl (f : Flow) (n : Nat) (t : TagSt) : (f.setTag n t).avl = f.avl := rfl
@[simp] theorem Flow.setTag_enTrapped (f : Flow) (n : Nat) (t : TagSt) : (f.setTag n t).enTrapped = f.enTrapped := rfl
@[simp] theorem Flow.setTag_rebuilt (f : Flow) (n : Nat) (t : TagSt) : (f.setTag n t).rebuilt = f.rebuilt := rfl
@[simp] theorem Flow.setTag_fetch (f : Flow) (n : Nat) (t : TagSt) : (f.setTag n t).fetch = f.fetch := rfl
@[simp] theorem Flow.setTag_qBeats (f : Flow) (n : Nat) (t : TagSt) : (f.setTag n t).qBeats = f.qBeats := rfl
@[simp] theorem Flow.setTag_qEnd (f : Flow) (n : Nat) (t : TagSt) : (f.setTag n t).qEnd = f.qEnd := rfl
@[simp] theorem Flow.setTag_qGo (f : Flow) (n : Nat) (t : TagSt) : (f.setTag n t).qGo = f.qGo := rfl

/-! `Flow.setSlot` -/

@[simp] theorem Flow.setSlot_key (f : Flow) (t : BitVec 4) (x : Slot) : (f.setSlot t x).key = f.key := rfl
@[simp] theorem Flow.setSlot_loc (f : Flow) (t : BitVec 4) (x : Slot) : (f.setSlot t x).loc = f.loc := rfl
@[simp] theorem Flow.setSlot_tenant (f : Flow) (t : BitVec 4) (x : Slot) : (f.setSlot t x).tenant = f.tenant := rfl
@[simp] theorem Flow.setSlot_status (f : Flow) (t : BitVec 4) (x : Slot) : (f.setSlot t x).status = f.status := rfl
@[simp] theorem Flow.setSlot_pc (f : Flow) (t : BitVec 4) (x : Slot) : (f.setSlot t x).pc = f.pc := rfl
@[simp] theorem Flow.setSlot_s (f : Flow) (t : BitVec 4) (x : Slot) : (f.setSlot t x).s = f.s := rfl
@[simp] theorem Flow.setSlot_busy (f : Flow) (t : BitVec 4) (x : Slot) : (f.setSlot t x).busy = f.busy := rfl
@[simp] theorem Flow.setSlot_v (f : Flow) (t : BitVec 4) (x : Slot) : (f.setSlot t x).v = f.v := rfl
@[simp] theorem Flow.setSlot_m (f : Flow) (t : BitVec 4) (x : Slot) : (f.setSlot t x).m = f.m := rfl
@[simp] theorem Flow.setSlot_act (f : Flow) (t : BitVec 4) (x : Slot) : (f.setSlot t x).act = f.act := rfl
@[simp] theorem Flow.setSlot_vl (f : Flow) (t : BitVec 4) (x : Slot) : (f.setSlot t x).vl = f.vl := rfl
@[simp] theorem Flow.setSlot_vtype (f : Flow) (t : BitVec 4) (x : Slot) : (f.setSlot t x).vtype = f.vtype := rfl
@[simp] theorem Flow.setSlot_svp (f : Flow) (t : BitVec 4) (x : Slot) : (f.setSlot t x).svp = f.svp := rfl
@[simp] theorem Flow.setSlot_vprog (f : Flow) (t : BitVec 4) (x : Slot) : (f.setSlot t x).vprog = f.vprog := rfl
@[simp] theorem Flow.setSlot_vgnt (f : Flow) (t : BitVec 4) (x : Slot) : (f.setSlot t x).vgnt = f.vgnt := rfl
@[simp] theorem Flow.setSlot_convoy (f : Flow) (t : BitVec 4) (x : Slot) : (f.setSlot t x).convoy = f.convoy := rfl
@[simp] theorem Flow.setSlot_tags (f : Flow) (t : BitVec 4) (x : Slot) : (f.setSlot t x).tags = f.tags := rfl
@[simp] theorem Flow.setSlot_reserved (f : Flow) (t : BitVec 4) (x : Slot) : (f.setSlot t x).reserved = f.reserved := rfl
@[simp] theorem Flow.setSlot_loop (f : Flow) (t : BitVec 4) (x : Slot) : (f.setSlot t x).loop = f.loop := rfl
@[simp] theorem Flow.setSlot_frags (f : Flow) (t : BitVec 4) (x : Slot) : (f.setSlot t x).frags = f.frags := rfl
@[simp] theorem Flow.setSlot_vsq (f : Flow) (t : BitVec 4) (x : Slot) : (f.setSlot t x).vsq = f.vsq := rfl
@[simp] theorem Flow.setSlot_ival (f : Flow) (t : BitVec 4) (x : Slot) : (f.setSlot t x).ival = f.ival := rfl
@[simp] theorem Flow.setSlot_seq (f : Flow) (t : BitVec 4) (x : Slot) : (f.setSlot t x).seq = f.seq := rfl
@[simp] theorem Flow.setSlot_strips (f : Flow) (t : BitVec 4) (x : Slot) : (f.setSlot t x).strips = f.strips := rfl
@[simp] theorem Flow.setSlot_sb (f : Flow) (t : BitVec 4) (x : Slot) : (f.setSlot t x).sb = f.sb := rfl
@[simp] theorem Flow.setSlot_cq (f : Flow) (t : BitVec 4) (x : Slot) : (f.setSlot t x).cq = f.cq := rfl
@[simp] theorem Flow.setSlot_fences (f : Flow) (t : BitVec 4) (x : Slot) : (f.setSlot t x).fences = f.fences := rfl
@[simp] theorem Flow.setSlot_rf (f : Flow) (t : BitVec 4) (x : Slot) : (f.setSlot t x).rf = f.rf := rfl
@[simp] theorem Flow.setSlot_issued (f : Flow) (t : BitVec 4) (x : Slot) : (f.setSlot t x).issued = f.issued := rfl
@[simp] theorem Flow.setSlot_eq (f : Flow) (t : BitVec 4) (x : Slot) : (f.setSlot t x).eq = f.eq := rfl
@[simp] theorem Flow.setSlot_vq (f : Flow) (t : BitVec 4) (x : Slot) : (f.setSlot t x).vq = f.vq := rfl
@[simp] theorem Flow.setSlot_cv (f : Flow) (t : BitVec 4) (x : Slot) : (f.setSlot t x).cv = f.cv := rfl
@[simp] theorem Flow.setSlot_age (f : Flow) (t : BitVec 4) (x : Slot) : (f.setSlot t x).age = f.age := rfl
@[simp] theorem Flow.setSlot_cause (f : Flow) (t : BitVec 4) (x : Slot) : (f.setSlot t x).cause = f.cause := rfl
@[simp] theorem Flow.setSlot_epc (f : Flow) (t : BitVec 4) (x : Slot) : (f.setSlot t x).epc = f.epc := rfl
@[simp] theorem Flow.setSlot_eval (f : Flow) (t : BitVec 4) (x : Slot) : (f.setSlot t x).eval = f.eval := rfl
@[simp] theorem Flow.setSlot_status3 (f : Flow) (t : BitVec 4) (x : Slot) : (f.setSlot t x).status3 = f.status3 := rfl
@[simp] theorem Flow.setSlot_preq (f : Flow) (t : BitVec 4) (x : Slot) : (f.setSlot t x).preq = f.preq := rfl
@[simp] theorem Flow.setSlot_asked (f : Flow) (t : BitVec 4) (x : Slot) : (f.setSlot t x).asked = f.asked := rfl
@[simp] theorem Flow.setSlot_point (f : Flow) (t : BitVec 4) (x : Slot) : (f.setSlot t x).point = f.point := rfl
@[simp] theorem Flow.setSlot_skipPoint (f : Flow) (t : BitVec 4) (x : Slot) : (f.setSlot t x).skipPoint = f.skipPoint := rfl
@[simp] theorem Flow.setSlot_noRoom (f : Flow) (t : BitVec 4) (x : Slot) : (f.setSlot t x).noRoom = f.noRoom := rfl
@[simp] theorem Flow.setSlot_qm (f : Flow) (t : BitVec 4) (x : Slot) : (f.setSlot t x).qm = f.qm := rfl
@[simp] theorem Flow.setSlot_slots (f : Flow) (t : BitVec 4) (x : Slot) : (f.setSlot t x).slots = f.slots.set t.toNat x := rfl
@[simp] theorem Flow.setSlot_mxq (f : Flow) (t : BitVec 4) (x : Slot) : (f.setSlot t x).mxq = f.mxq := rfl
@[simp] theorem Flow.setSlot_tt (f : Flow) (t : BitVec 4) (x : Slot) : (f.setSlot t x).tt = f.tt := rfl
@[simp] theorem Flow.setSlot_ttcur (f : Flow) (t : BitVec 4) (x : Slot) : (f.setSlot t x).ttcur = f.ttcur := rfl
@[simp] theorem Flow.setSlot_ttmiss (f : Flow) (t : BitVec 4) (x : Slot) : (f.setSlot t x).ttmiss = f.ttmiss := rfl
@[simp] theorem Flow.setSlot_ctags (f : Flow) (t : BitVec 4) (x : Slot) : (f.setSlot t x).ctags = f.ctags := rfl
@[simp] theorem Flow.setSlot_cscope (f : Flow) (t : BitVec 4) (x : Slot) : (f.setSlot t x).cscope = f.cscope := rfl
@[simp] theorem Flow.setSlot_log (f : Flow) (t : BitVec 4) (x : Slot) : (f.setSlot t x).log = f.log := rfl
@[simp] theorem Flow.setSlot_events (f : Flow) (t : BitVec 4) (x : Slot) : (f.setSlot t x).events = f.events := rfl
@[simp] theorem Flow.setSlot_evOvf (f : Flow) (t : BitVec 4) (x : Slot) : (f.setSlot t x).evOvf = f.evOvf := rfl
@[simp] theorem Flow.setSlot_task (f : Flow) (t : BitVec 4) (x : Slot) : (f.setSlot t x).task = f.task := rfl
@[simp] theorem Flow.setSlot_barInst (f : Flow) (t : BitVec 4) (x : Slot) : (f.setSlot t x).barInst = f.barInst := rfl
@[simp] theorem Flow.setSlot_avl (f : Flow) (t : BitVec 4) (x : Slot) : (f.setSlot t x).avl = f.avl := rfl
@[simp] theorem Flow.setSlot_enTrapped (f : Flow) (t : BitVec 4) (x : Slot) : (f.setSlot t x).enTrapped = f.enTrapped := rfl
@[simp] theorem Flow.setSlot_rebuilt (f : Flow) (t : BitVec 4) (x : Slot) : (f.setSlot t x).rebuilt = f.rebuilt := rfl
@[simp] theorem Flow.setSlot_fetch (f : Flow) (t : BitVec 4) (x : Slot) : (f.setSlot t x).fetch = f.fetch := rfl
@[simp] theorem Flow.setSlot_bad (f : Flow) (t : BitVec 4) (x : Slot) : (f.setSlot t x).bad = f.bad := rfl
@[simp] theorem Flow.setSlot_qBeats (f : Flow) (t : BitVec 4) (x : Slot) : (f.setSlot t x).qBeats = f.qBeats := rfl
@[simp] theorem Flow.setSlot_qEnd (f : Flow) (t : BitVec 4) (x : Slot) : (f.setSlot t x).qEnd = f.qEnd := rfl
@[simp] theorem Flow.setSlot_qGo (f : Flow) (t : BitVec 4) (x : Slot) : (f.setSlot t x).qGo = f.qGo := rfl

/-! `Flow.issue` -/

@[simp] theorem Flow.issue_key (f : Flow) (xs : List Access) : (f.issue xs).key = f.key := rfl
@[simp] theorem Flow.issue_loc (f : Flow) (xs : List Access) : (f.issue xs).loc = f.loc := rfl
@[simp] theorem Flow.issue_tenant (f : Flow) (xs : List Access) : (f.issue xs).tenant = f.tenant := rfl
@[simp] theorem Flow.issue_status (f : Flow) (xs : List Access) : (f.issue xs).status = f.status := rfl
@[simp] theorem Flow.issue_pc (f : Flow) (xs : List Access) : (f.issue xs).pc = f.pc := rfl
@[simp] theorem Flow.issue_s (f : Flow) (xs : List Access) : (f.issue xs).s = f.s := rfl
@[simp] theorem Flow.issue_busy (f : Flow) (xs : List Access) : (f.issue xs).busy = f.busy := rfl
@[simp] theorem Flow.issue_v (f : Flow) (xs : List Access) : (f.issue xs).v = f.v := rfl
@[simp] theorem Flow.issue_m (f : Flow) (xs : List Access) : (f.issue xs).m = f.m := rfl
@[simp] theorem Flow.issue_act (f : Flow) (xs : List Access) : (f.issue xs).act = f.act := rfl
@[simp] theorem Flow.issue_vl (f : Flow) (xs : List Access) : (f.issue xs).vl = f.vl := rfl
@[simp] theorem Flow.issue_vtype (f : Flow) (xs : List Access) : (f.issue xs).vtype = f.vtype := rfl
@[simp] theorem Flow.issue_svp (f : Flow) (xs : List Access) : (f.issue xs).svp = f.svp := rfl
@[simp] theorem Flow.issue_vprog (f : Flow) (xs : List Access) : (f.issue xs).vprog = f.vprog := rfl
@[simp] theorem Flow.issue_vgnt (f : Flow) (xs : List Access) : (f.issue xs).vgnt = f.vgnt := rfl
@[simp] theorem Flow.issue_convoy (f : Flow) (xs : List Access) : (f.issue xs).convoy = f.convoy := rfl
@[simp] theorem Flow.issue_tags (f : Flow) (xs : List Access) : (f.issue xs).tags = f.tags := rfl
@[simp] theorem Flow.issue_reserved (f : Flow) (xs : List Access) : (f.issue xs).reserved = f.reserved := rfl
@[simp] theorem Flow.issue_loop (f : Flow) (xs : List Access) : (f.issue xs).loop = f.loop := rfl
@[simp] theorem Flow.issue_frags (f : Flow) (xs : List Access) : (f.issue xs).frags = f.frags := rfl
@[simp] theorem Flow.issue_vsq (f : Flow) (xs : List Access) : (f.issue xs).vsq = f.vsq := rfl
@[simp] theorem Flow.issue_ival (f : Flow) (xs : List Access) : (f.issue xs).ival = f.ival := rfl
@[simp] theorem Flow.issue_seq (f : Flow) (xs : List Access) : (f.issue xs).seq = f.seq + 1 := rfl
@[simp] theorem Flow.issue_strips (f : Flow) (xs : List Access) : (f.issue xs).strips = f.strips := rfl
@[simp] theorem Flow.issue_sb (f : Flow) (xs : List Access) : (f.issue xs).sb = f.sb ++ xs := rfl
@[simp] theorem Flow.issue_cq (f : Flow) (xs : List Access) : (f.issue xs).cq = f.cq := rfl
@[simp] theorem Flow.issue_fences (f : Flow) (xs : List Access) : (f.issue xs).fences = f.fences := rfl
@[simp] theorem Flow.issue_rf (f : Flow) (xs : List Access) : (f.issue xs).rf = f.rf := rfl
@[simp] theorem Flow.issue_issued (f : Flow) (xs : List Access) : (f.issue xs).issued = f.issued := rfl
@[simp] theorem Flow.issue_eq (f : Flow) (xs : List Access) : (f.issue xs).eq = f.eq := rfl
@[simp] theorem Flow.issue_vq (f : Flow) (xs : List Access) : (f.issue xs).vq = f.vq := rfl
@[simp] theorem Flow.issue_cv (f : Flow) (xs : List Access) : (f.issue xs).cv = f.cv := rfl
@[simp] theorem Flow.issue_age (f : Flow) (xs : List Access) : (f.issue xs).age = f.age := rfl
@[simp] theorem Flow.issue_cause (f : Flow) (xs : List Access) : (f.issue xs).cause = f.cause := rfl
@[simp] theorem Flow.issue_epc (f : Flow) (xs : List Access) : (f.issue xs).epc = f.epc := rfl
@[simp] theorem Flow.issue_eval (f : Flow) (xs : List Access) : (f.issue xs).eval = f.eval := rfl
@[simp] theorem Flow.issue_status3 (f : Flow) (xs : List Access) : (f.issue xs).status3 = f.status3 := rfl
@[simp] theorem Flow.issue_preq (f : Flow) (xs : List Access) : (f.issue xs).preq = f.preq := rfl
@[simp] theorem Flow.issue_asked (f : Flow) (xs : List Access) : (f.issue xs).asked = f.asked := rfl
@[simp] theorem Flow.issue_point (f : Flow) (xs : List Access) : (f.issue xs).point = f.point := rfl
@[simp] theorem Flow.issue_skipPoint (f : Flow) (xs : List Access) : (f.issue xs).skipPoint = f.skipPoint := rfl
@[simp] theorem Flow.issue_noRoom (f : Flow) (xs : List Access) : (f.issue xs).noRoom = f.noRoom := rfl
@[simp] theorem Flow.issue_qm (f : Flow) (xs : List Access) : (f.issue xs).qm = f.qm := rfl
@[simp] theorem Flow.issue_slots (f : Flow) (xs : List Access) : (f.issue xs).slots = f.slots := rfl
@[simp] theorem Flow.issue_mxq (f : Flow) (xs : List Access) : (f.issue xs).mxq = f.mxq := rfl
@[simp] theorem Flow.issue_tt (f : Flow) (xs : List Access) : (f.issue xs).tt = f.tt := rfl
@[simp] theorem Flow.issue_ttcur (f : Flow) (xs : List Access) : (f.issue xs).ttcur = f.ttcur := rfl
@[simp] theorem Flow.issue_ttmiss (f : Flow) (xs : List Access) : (f.issue xs).ttmiss = f.ttmiss := rfl
@[simp] theorem Flow.issue_ctags (f : Flow) (xs : List Access) : (f.issue xs).ctags = f.ctags := rfl
@[simp] theorem Flow.issue_cscope (f : Flow) (xs : List Access) : (f.issue xs).cscope = f.cscope := rfl
@[simp] theorem Flow.issue_log (f : Flow) (xs : List Access) : (f.issue xs).log = f.log := rfl
@[simp] theorem Flow.issue_events (f : Flow) (xs : List Access) : (f.issue xs).events = f.events := rfl
@[simp] theorem Flow.issue_evOvf (f : Flow) (xs : List Access) : (f.issue xs).evOvf = f.evOvf := rfl
@[simp] theorem Flow.issue_task (f : Flow) (xs : List Access) : (f.issue xs).task = f.task := rfl
@[simp] theorem Flow.issue_barInst (f : Flow) (xs : List Access) : (f.issue xs).barInst = f.barInst := rfl
@[simp] theorem Flow.issue_avl (f : Flow) (xs : List Access) : (f.issue xs).avl = f.avl := rfl
@[simp] theorem Flow.issue_enTrapped (f : Flow) (xs : List Access) : (f.issue xs).enTrapped = f.enTrapped := rfl
@[simp] theorem Flow.issue_rebuilt (f : Flow) (xs : List Access) : (f.issue xs).rebuilt = f.rebuilt := rfl
@[simp] theorem Flow.issue_fetch (f : Flow) (xs : List Access) : (f.issue xs).fetch = f.fetch := rfl
@[simp] theorem Flow.issue_bad (f : Flow) (xs : List Access) : (f.issue xs).bad = f.bad := rfl
@[simp] theorem Flow.issue_qBeats (f : Flow) (xs : List Access) : (f.issue xs).qBeats = f.qBeats := rfl
@[simp] theorem Flow.issue_qEnd (f : Flow) (xs : List Access) : (f.issue xs).qEnd = f.qEnd := rfl
@[simp] theorem Flow.issue_qGo (f : Flow) (xs : List Access) : (f.issue xs).qGo = f.qGo := rfl

/-! `Flow.setGstr` -/

@[simp] theorem Flow.setGstr_key (f : Flow) (v g x : Nat) : (f.setGstr v g x).key = f.key := rfl
@[simp] theorem Flow.setGstr_loc (f : Flow) (v g x : Nat) : (f.setGstr v g x).loc = f.loc := rfl
@[simp] theorem Flow.setGstr_tenant (f : Flow) (v g x : Nat) : (f.setGstr v g x).tenant = f.tenant := rfl
@[simp] theorem Flow.setGstr_status (f : Flow) (v g x : Nat) : (f.setGstr v g x).status = f.status := rfl
@[simp] theorem Flow.setGstr_pc (f : Flow) (v g x : Nat) : (f.setGstr v g x).pc = f.pc := rfl
@[simp] theorem Flow.setGstr_s (f : Flow) (v g x : Nat) : (f.setGstr v g x).s = f.s := rfl
@[simp] theorem Flow.setGstr_busy (f : Flow) (v g x : Nat) : (f.setGstr v g x).busy = f.busy := rfl
@[simp] theorem Flow.setGstr_m (f : Flow) (v g x : Nat) : (f.setGstr v g x).m = f.m := rfl
@[simp] theorem Flow.setGstr_act (f : Flow) (v g x : Nat) : (f.setGstr v g x).act = f.act := rfl
@[simp] theorem Flow.setGstr_vl (f : Flow) (v g x : Nat) : (f.setGstr v g x).vl = f.vl := rfl
@[simp] theorem Flow.setGstr_vtype (f : Flow) (v g x : Nat) : (f.setGstr v g x).vtype = f.vtype := rfl
@[simp] theorem Flow.setGstr_svp (f : Flow) (v g x : Nat) : (f.setGstr v g x).svp = f.svp := rfl
@[simp] theorem Flow.setGstr_vprog (f : Flow) (v g x : Nat) : (f.setGstr v g x).vprog = f.vprog := rfl
@[simp] theorem Flow.setGstr_vgnt (f : Flow) (v g x : Nat) : (f.setGstr v g x).vgnt = f.vgnt := rfl
@[simp] theorem Flow.setGstr_convoy (f : Flow) (v g x : Nat) : (f.setGstr v g x).convoy = f.convoy := rfl
@[simp] theorem Flow.setGstr_tags (f : Flow) (v g x : Nat) : (f.setGstr v g x).tags = f.tags := rfl
@[simp] theorem Flow.setGstr_reserved (f : Flow) (v g x : Nat) : (f.setGstr v g x).reserved = f.reserved := rfl
@[simp] theorem Flow.setGstr_loop (f : Flow) (v g x : Nat) : (f.setGstr v g x).loop = f.loop := rfl
@[simp] theorem Flow.setGstr_frags (f : Flow) (v g x : Nat) : (f.setGstr v g x).frags = f.frags := rfl
@[simp] theorem Flow.setGstr_vsq (f : Flow) (v g x : Nat) : (f.setGstr v g x).vsq = f.vsq := rfl
@[simp] theorem Flow.setGstr_ival (f : Flow) (v g x : Nat) : (f.setGstr v g x).ival = f.ival := rfl
@[simp] theorem Flow.setGstr_seq (f : Flow) (v g x : Nat) : (f.setGstr v g x).seq = f.seq := rfl
@[simp] theorem Flow.setGstr_strips (f : Flow) (v g x : Nat) : (f.setGstr v g x).strips = f.strips := rfl
@[simp] theorem Flow.setGstr_sb (f : Flow) (v g x : Nat) : (f.setGstr v g x).sb = f.sb := rfl
@[simp] theorem Flow.setGstr_cq (f : Flow) (v g x : Nat) : (f.setGstr v g x).cq = f.cq := rfl
@[simp] theorem Flow.setGstr_fences (f : Flow) (v g x : Nat) : (f.setGstr v g x).fences = f.fences := rfl
@[simp] theorem Flow.setGstr_rf (f : Flow) (v g x : Nat) : (f.setGstr v g x).rf = f.rf := rfl
@[simp] theorem Flow.setGstr_issued (f : Flow) (v g x : Nat) : (f.setGstr v g x).issued = f.issued := rfl
@[simp] theorem Flow.setGstr_eq (f : Flow) (v g x : Nat) : (f.setGstr v g x).eq = f.eq := rfl
@[simp] theorem Flow.setGstr_vq (f : Flow) (v g x : Nat) : (f.setGstr v g x).vq = f.vq := rfl
@[simp] theorem Flow.setGstr_cv (f : Flow) (v g x : Nat) : (f.setGstr v g x).cv = f.cv := rfl
@[simp] theorem Flow.setGstr_age (f : Flow) (v g x : Nat) : (f.setGstr v g x).age = f.age := rfl
@[simp] theorem Flow.setGstr_cause (f : Flow) (v g x : Nat) : (f.setGstr v g x).cause = f.cause := rfl
@[simp] theorem Flow.setGstr_epc (f : Flow) (v g x : Nat) : (f.setGstr v g x).epc = f.epc := rfl
@[simp] theorem Flow.setGstr_eval (f : Flow) (v g x : Nat) : (f.setGstr v g x).eval = f.eval := rfl
@[simp] theorem Flow.setGstr_status3 (f : Flow) (v g x : Nat) : (f.setGstr v g x).status3 = f.status3 := rfl
@[simp] theorem Flow.setGstr_preq (f : Flow) (v g x : Nat) : (f.setGstr v g x).preq = f.preq := rfl
@[simp] theorem Flow.setGstr_asked (f : Flow) (v g x : Nat) : (f.setGstr v g x).asked = f.asked := rfl
@[simp] theorem Flow.setGstr_point (f : Flow) (v g x : Nat) : (f.setGstr v g x).point = f.point := rfl
@[simp] theorem Flow.setGstr_skipPoint (f : Flow) (v g x : Nat) : (f.setGstr v g x).skipPoint = f.skipPoint := rfl
@[simp] theorem Flow.setGstr_noRoom (f : Flow) (v g x : Nat) : (f.setGstr v g x).noRoom = f.noRoom := rfl
@[simp] theorem Flow.setGstr_qm (f : Flow) (v g x : Nat) : (f.setGstr v g x).qm = f.qm := rfl
@[simp] theorem Flow.setGstr_slots (f : Flow) (v g x : Nat) : (f.setGstr v g x).slots = f.slots := rfl
@[simp] theorem Flow.setGstr_mxq (f : Flow) (v g x : Nat) : (f.setGstr v g x).mxq = f.mxq := rfl
@[simp] theorem Flow.setGstr_tt (f : Flow) (v g x : Nat) : (f.setGstr v g x).tt = f.tt := rfl
@[simp] theorem Flow.setGstr_ttcur (f : Flow) (v g x : Nat) : (f.setGstr v g x).ttcur = f.ttcur := rfl
@[simp] theorem Flow.setGstr_ttmiss (f : Flow) (v g x : Nat) : (f.setGstr v g x).ttmiss = f.ttmiss := rfl
@[simp] theorem Flow.setGstr_ctags (f : Flow) (v g x : Nat) : (f.setGstr v g x).ctags = f.ctags := rfl
@[simp] theorem Flow.setGstr_cscope (f : Flow) (v g x : Nat) : (f.setGstr v g x).cscope = f.cscope := rfl
@[simp] theorem Flow.setGstr_log (f : Flow) (v g x : Nat) : (f.setGstr v g x).log = f.log := rfl
@[simp] theorem Flow.setGstr_events (f : Flow) (v g x : Nat) : (f.setGstr v g x).events = f.events := rfl
@[simp] theorem Flow.setGstr_evOvf (f : Flow) (v g x : Nat) : (f.setGstr v g x).evOvf = f.evOvf := rfl
@[simp] theorem Flow.setGstr_task (f : Flow) (v g x : Nat) : (f.setGstr v g x).task = f.task := rfl
@[simp] theorem Flow.setGstr_barInst (f : Flow) (v g x : Nat) : (f.setGstr v g x).barInst = f.barInst := rfl
@[simp] theorem Flow.setGstr_avl (f : Flow) (v g x : Nat) : (f.setGstr v g x).avl = f.avl := rfl
@[simp] theorem Flow.setGstr_enTrapped (f : Flow) (v g x : Nat) : (f.setGstr v g x).enTrapped = f.enTrapped := rfl
@[simp] theorem Flow.setGstr_rebuilt (f : Flow) (v g x : Nat) : (f.setGstr v g x).rebuilt = f.rebuilt := rfl
@[simp] theorem Flow.setGstr_fetch (f : Flow) (v g x : Nat) : (f.setGstr v g x).fetch = f.fetch := rfl
@[simp] theorem Flow.setGstr_bad (f : Flow) (v g x : Nat) : (f.setGstr v g x).bad = f.bad := rfl
@[simp] theorem Flow.setGstr_qBeats (f : Flow) (v g x : Nat) : (f.setGstr v g x).qBeats = f.qBeats := rfl
@[simp] theorem Flow.setGstr_qEnd (f : Flow) (v g x : Nat) : (f.setGstr v g x).qEnd = f.qEnd := rfl
@[simp] theorem Flow.setGstr_qGo (f : Flow) (v g x : Nat) : (f.setGstr v g x).qGo = f.qGo := rfl

/-! `Flow.issueVec` -/

@[simp] theorem Flow.issueVec_key (f : Flow) (c : Bool) (ps : List Pipe) (e : Bool) (w g : Nat) : (f.issueVec c ps e w g).key = f.key := rfl
@[simp] theorem Flow.issueVec_loc (f : Flow) (c : Bool) (ps : List Pipe) (e : Bool) (w g : Nat) : (f.issueVec c ps e w g).loc = f.loc := rfl
@[simp] theorem Flow.issueVec_tenant (f : Flow) (c : Bool) (ps : List Pipe) (e : Bool) (w g : Nat) : (f.issueVec c ps e w g).tenant = f.tenant := rfl
@[simp] theorem Flow.issueVec_status (f : Flow) (c : Bool) (ps : List Pipe) (e : Bool) (w g : Nat) : (f.issueVec c ps e w g).status = f.status := rfl
@[simp] theorem Flow.issueVec_pc (f : Flow) (c : Bool) (ps : List Pipe) (e : Bool) (w g : Nat) : (f.issueVec c ps e w g).pc = f.pc + 4 := rfl
@[simp] theorem Flow.issueVec_s (f : Flow) (c : Bool) (ps : List Pipe) (e : Bool) (w g : Nat) : (f.issueVec c ps e w g).s = f.s := rfl
@[simp] theorem Flow.issueVec_busy (f : Flow) (c : Bool) (ps : List Pipe) (e : Bool) (w g : Nat) : (f.issueVec c ps e w g).busy = f.busy := rfl
@[simp] theorem Flow.issueVec_v (f : Flow) (c : Bool) (ps : List Pipe) (e : Bool) (w g : Nat) : (f.issueVec c ps e w g).v = f.v := rfl
@[simp] theorem Flow.issueVec_m (f : Flow) (c : Bool) (ps : List Pipe) (e : Bool) (w g : Nat) : (f.issueVec c ps e w g).m = f.m := rfl
@[simp] theorem Flow.issueVec_act (f : Flow) (c : Bool) (ps : List Pipe) (e : Bool) (w g : Nat) : (f.issueVec c ps e w g).act = f.act := rfl
@[simp] theorem Flow.issueVec_vl (f : Flow) (c : Bool) (ps : List Pipe) (e : Bool) (w g : Nat) : (f.issueVec c ps e w g).vl = f.vl := rfl
@[simp] theorem Flow.issueVec_vtype (f : Flow) (c : Bool) (ps : List Pipe) (e : Bool) (w g : Nat) : (f.issueVec c ps e w g).vtype = f.vtype := rfl
@[simp] theorem Flow.issueVec_svp (f : Flow) (c : Bool) (ps : List Pipe) (e : Bool) (w g : Nat) : (f.issueVec c ps e w g).svp = f.svp := rfl
@[simp] theorem Flow.issueVec_vprog (f : Flow) (c : Bool) (ps : List Pipe) (e : Bool) (w g : Nat) : (f.issueVec c ps e w g).vprog = f.vprog &&& 0xFFFFFFFF7FFFFFFF := rfl
@[simp] theorem Flow.issueVec_vgnt (f : Flow) (c : Bool) (ps : List Pipe) (e : Bool) (w g : Nat) : (f.issueVec c ps e w g).vgnt = f.vgnt := rfl
@[simp] theorem Flow.issueVec_convoy (f : Flow) (c : Bool) (ps : List Pipe) (e : Bool) (w g : Nat) : (f.issueVec c ps e w g).convoy = f.convoyAfter c ps e := rfl
@[simp] theorem Flow.issueVec_tags (f : Flow) (c : Bool) (ps : List Pipe) (e : Bool) (w g : Nat) : (f.issueVec c ps e w g).tags = f.tags := rfl
@[simp] theorem Flow.issueVec_reserved (f : Flow) (c : Bool) (ps : List Pipe) (e : Bool) (w g : Nat) : (f.issueVec c ps e w g).reserved = f.reserved := rfl
@[simp] theorem Flow.issueVec_loop (f : Flow) (c : Bool) (ps : List Pipe) (e : Bool) (w g : Nat) : (f.issueVec c ps e w g).loop = f.loop := rfl
@[simp] theorem Flow.issueVec_frags (f : Flow) (c : Bool) (ps : List Pipe) (e : Bool) (w g : Nat) : (f.issueVec c ps e w g).frags = f.frags := rfl
@[simp] theorem Flow.issueVec_vsq (f : Flow) (c : Bool) (ps : List Pipe) (e : Bool) (w g : Nat) : (f.issueVec c ps e w g).vsq = f.vsq := rfl
@[simp] theorem Flow.issueVec_ival (f : Flow) (c : Bool) (ps : List Pipe) (e : Bool) (w g : Nat) : (f.issueVec c ps e w g).ival = f.ival := rfl
@[simp] theorem Flow.issueVec_seq (f : Flow) (c : Bool) (ps : List Pipe) (e : Bool) (w g : Nat) : (f.issueVec c ps e w g).seq = f.seq := rfl
@[simp] theorem Flow.issueVec_strips (f : Flow) (c : Bool) (ps : List Pipe) (e : Bool) (w g : Nat) : (f.issueVec c ps e w g).strips = f.strips := rfl
@[simp] theorem Flow.issueVec_sb (f : Flow) (c : Bool) (ps : List Pipe) (e : Bool) (w g : Nat) : (f.issueVec c ps e w g).sb = f.sb := rfl
@[simp] theorem Flow.issueVec_cq (f : Flow) (c : Bool) (ps : List Pipe) (e : Bool) (w g : Nat) : (f.issueVec c ps e w g).cq = f.cq := rfl
@[simp] theorem Flow.issueVec_fences (f : Flow) (c : Bool) (ps : List Pipe) (e : Bool) (w g : Nat) : (f.issueVec c ps e w g).fences = f.fences := rfl
@[simp] theorem Flow.issueVec_rf (f : Flow) (c : Bool) (ps : List Pipe) (e : Bool) (w g : Nat) : (f.issueVec c ps e w g).rf = f.rf := rfl
@[simp] theorem Flow.issueVec_issued (f : Flow) (c : Bool) (ps : List Pipe) (e : Bool) (w g : Nat) : (f.issueVec c ps e w g).issued = f.issued := rfl
@[simp] theorem Flow.issueVec_eq (f : Flow) (c : Bool) (ps : List Pipe) (e : Bool) (w g : Nat) : (f.issueVec c ps e w g).eq = f.eq := rfl
@[simp] theorem Flow.issueVec_cv (f : Flow) (c : Bool) (ps : List Pipe) (e : Bool) (w g : Nat) : (f.issueVec c ps e w g).cv = f.cv := rfl
@[simp] theorem Flow.issueVec_age (f : Flow) (c : Bool) (ps : List Pipe) (e : Bool) (w g : Nat) : (f.issueVec c ps e w g).age = f.age := rfl
@[simp] theorem Flow.issueVec_cause (f : Flow) (c : Bool) (ps : List Pipe) (e : Bool) (w g : Nat) : (f.issueVec c ps e w g).cause = f.cause := rfl
@[simp] theorem Flow.issueVec_epc (f : Flow) (c : Bool) (ps : List Pipe) (e : Bool) (w g : Nat) : (f.issueVec c ps e w g).epc = f.epc := rfl
@[simp] theorem Flow.issueVec_eval (f : Flow) (c : Bool) (ps : List Pipe) (e : Bool) (w g : Nat) : (f.issueVec c ps e w g).eval = f.eval := rfl
@[simp] theorem Flow.issueVec_status3 (f : Flow) (c : Bool) (ps : List Pipe) (e : Bool) (w g : Nat) : (f.issueVec c ps e w g).status3 = f.status3 := rfl
@[simp] theorem Flow.issueVec_preq (f : Flow) (c : Bool) (ps : List Pipe) (e : Bool) (w g : Nat) : (f.issueVec c ps e w g).preq = f.preq := rfl
@[simp] theorem Flow.issueVec_asked (f : Flow) (c : Bool) (ps : List Pipe) (e : Bool) (w g : Nat) : (f.issueVec c ps e w g).asked = f.asked := rfl
@[simp] theorem Flow.issueVec_point (f : Flow) (c : Bool) (ps : List Pipe) (e : Bool) (w g : Nat) : (f.issueVec c ps e w g).point = f.point := rfl
@[simp] theorem Flow.issueVec_skipPoint (f : Flow) (c : Bool) (ps : List Pipe) (e : Bool) (w g : Nat) : (f.issueVec c ps e w g).skipPoint = f.skipPoint := rfl
@[simp] theorem Flow.issueVec_noRoom (f : Flow) (c : Bool) (ps : List Pipe) (e : Bool) (w g : Nat) : (f.issueVec c ps e w g).noRoom = f.noRoom := rfl
@[simp] theorem Flow.issueVec_qm (f : Flow) (c : Bool) (ps : List Pipe) (e : Bool) (w g : Nat) : (f.issueVec c ps e w g).qm = f.qm := rfl
@[simp] theorem Flow.issueVec_slots (f : Flow) (c : Bool) (ps : List Pipe) (e : Bool) (w g : Nat) : (f.issueVec c ps e w g).slots = f.slots := rfl
@[simp] theorem Flow.issueVec_mxq (f : Flow) (c : Bool) (ps : List Pipe) (e : Bool) (w g : Nat) : (f.issueVec c ps e w g).mxq = f.mxq := rfl
@[simp] theorem Flow.issueVec_tt (f : Flow) (c : Bool) (ps : List Pipe) (e : Bool) (w g : Nat) : (f.issueVec c ps e w g).tt = f.tt := rfl
@[simp] theorem Flow.issueVec_ttcur (f : Flow) (c : Bool) (ps : List Pipe) (e : Bool) (w g : Nat) : (f.issueVec c ps e w g).ttcur = f.ttcur := rfl
@[simp] theorem Flow.issueVec_ttmiss (f : Flow) (c : Bool) (ps : List Pipe) (e : Bool) (w g : Nat) : (f.issueVec c ps e w g).ttmiss = f.ttmiss := rfl
@[simp] theorem Flow.issueVec_ctags (f : Flow) (c : Bool) (ps : List Pipe) (e : Bool) (w g : Nat) : (f.issueVec c ps e w g).ctags = f.ctags := rfl
@[simp] theorem Flow.issueVec_cscope (f : Flow) (c : Bool) (ps : List Pipe) (e : Bool) (w g : Nat) : (f.issueVec c ps e w g).cscope = f.cscope := rfl
@[simp] theorem Flow.issueVec_log (f : Flow) (c : Bool) (ps : List Pipe) (e : Bool) (w g : Nat) : (f.issueVec c ps e w g).log = f.log := rfl
@[simp] theorem Flow.issueVec_events (f : Flow) (c : Bool) (ps : List Pipe) (e : Bool) (w g : Nat) : (f.issueVec c ps e w g).events = f.events := rfl
@[simp] theorem Flow.issueVec_evOvf (f : Flow) (c : Bool) (ps : List Pipe) (e : Bool) (w g : Nat) : (f.issueVec c ps e w g).evOvf = f.evOvf := rfl
@[simp] theorem Flow.issueVec_task (f : Flow) (c : Bool) (ps : List Pipe) (e : Bool) (w g : Nat) : (f.issueVec c ps e w g).task = f.task := rfl
@[simp] theorem Flow.issueVec_barInst (f : Flow) (c : Bool) (ps : List Pipe) (e : Bool) (w g : Nat) : (f.issueVec c ps e w g).barInst = f.barInst := rfl
@[simp] theorem Flow.issueVec_avl (f : Flow) (c : Bool) (ps : List Pipe) (e : Bool) (w g : Nat) : (f.issueVec c ps e w g).avl = f.avl := rfl
@[simp] theorem Flow.issueVec_enTrapped (f : Flow) (c : Bool) (ps : List Pipe) (e : Bool) (w g : Nat) : (f.issueVec c ps e w g).enTrapped = f.enTrapped := rfl
@[simp] theorem Flow.issueVec_rebuilt (f : Flow) (c : Bool) (ps : List Pipe) (e : Bool) (w g : Nat) : (f.issueVec c ps e w g).rebuilt = f.rebuilt := rfl
@[simp] theorem Flow.issueVec_fetch (f : Flow) (c : Bool) (ps : List Pipe) (e : Bool) (w g : Nat) : (f.issueVec c ps e w g).fetch = f.fetch := rfl
@[simp] theorem Flow.issueVec_bad (f : Flow) (c : Bool) (ps : List Pipe) (e : Bool) (w g : Nat) : (f.issueVec c ps e w g).bad = f.bad := rfl
@[simp] theorem Flow.issueVec_qBeats (f : Flow) (c : Bool) (ps : List Pipe) (e : Bool) (w g : Nat) : (f.issueVec c ps e w g).qBeats = f.qBeats := rfl
@[simp] theorem Flow.issueVec_qEnd (f : Flow) (c : Bool) (ps : List Pipe) (e : Bool) (w g : Nat) : (f.issueVec c ps e w g).qEnd = f.qEnd := rfl
@[simp] theorem Flow.issueVec_qGo (f : Flow) (c : Bool) (ps : List Pipe) (e : Bool) (w g : Nat) : (f.issueVec c ps e w g).qGo = f.qGo := rfl

end Sys2Proof.Machine
end

