-- ==== Sys2Proof/Laws/Ops.lean ====
section
/-! SUPPORT. What the shared operations can do: checks, exceptions, registers, and the beginning of a word. -/

namespace Sys2Proof.Machine

/-! ### Checks -/

@[simp] theorem firstTrap_nil : firstTrap [] = none := rfl

@[simp] theorem firstTrap_cons (b : Bool) (t : Trap) (l : List (Bool × Trap)) :
    firstTrap ((b, t) :: l) = if b then some t else firstTrap l := rfl

theorem firstTrap_append : ∀ l r : List (Bool × Trap),
    firstTrap (l ++ r) = match firstTrap l with | some t => some t | none => firstTrap r
  | [], _ => rfl
  | (true, _) :: _, _ => rfl
  | (false, _) :: l, r => firstTrap_append l r

/-- No exception where no condition of the list holds. -/
theorem firstTrap_none : ∀ {l : List (Bool × Trap)}, (∀ p ∈ l, p.1 = false) → firstTrap l = none
  | [], _ => rfl
  | (true, t) :: _, h => Bool.noConfusion (h (true, t) List.mem_cons_self)
  | (false, _) :: l, h => firstTrap_none (l := l) fun p hp => h p (List.mem_cons_of_mem _ hp)

/-- Registers without an error raise nothing (R443). -/
theorem regErr_nil {f : Flow} {rs : List RegRef} (h : ∀ r ∈ rs, r ∉ f.bad) : regErr f rs = [] := by
  unfold regErr
  have : rs.find? (fun r => f.bad.contains r) = none := by
    simp only [List.find?_eq_none, List.contains_iff_mem]; exact fun r hr => h r hr
  rw [this]

/-- A word's checks decide between its trap and its effect. -/
theorem run_cases {s t : State} {cks : List (Bool × Trap)} {eff : State → State} (h : run s cks eff = .next t) :
    (∃ tr, firstTrap cks = some tr ∧ t = s.trap tr) ∨ (firstTrap cks = none ∧ t = eff s) := by
  unfold run at h
  split at h
  · rename_i tr htr
    cases h; exact .inl ⟨tr, htr, rfl⟩
  · rename_i hn
    cases h; exact .inr ⟨hn, rfl⟩

theorem run_of_none {s : State} {cks : List (Bool × Trap)} {eff : State → State} (h : firstTrap cks = none) :
    run s cks eff = .next (eff s) := by
  unfold run; rw [h]

theorem run_of_trap {s : State} {cks : List (Bool × Trap)} {eff : State → State} {t : Trap} (h : firstTrap cks = some t) :
    run s cks eff = .next (s.trap t) := by
  unfold run; rw [h]

theorem scalarWord_of_none {s : State} {cks : List (Bool × Trap)} {eff : Flow → Flow} (h : firstTrap cks = none) :
    scalarWord s cks eff = .next (s.beginScalar.modMe (fun f => (eff f).next)) := run_of_none h

theorem scalarWordS_of_none {s : State} {cks : List (Bool × Trap)} {eff : State → State} (h : firstTrap cks = none) :
    scalarWordS s cks eff = .next ((eff s.beginScalar).modMe Flow.next) := run_of_none h

/-- A vector-class word that passes its checks and finds room in VQ. -/
theorem vecWord_of_none {s : State} {c : Bool} {claims : List Pipe} {ends typeOk : Bool} {groups : List (BitVec 6)}
    {late own : List (Bool × Trap)} {refs : List RegRef} {width : Nat} {eff : Flow → Flow}
    (h : firstTrap ([(s.me.convoyBad c claims, ill subConvoy), (!typeOk, ill subType),
      (groupBad groups s.me.grp, ill subGroup)] ++ late ++ regErr s.me (s.me.vRefs refs) ++ own) = none)
    (hv : s.me.vq.length < 32) :
    vecWord s c claims ends typeOk groups late refs own width eff =
      .next (s.modMe (fun f => (eff f).issueVec c claims ends width s.me.grp)) := by
  unfold vecWord
  rw [run_of_none h]
  unfold vecEff
  rw [if_neg (by omega)]

/-! ### Scalar registers -/

theorem List.lookup_filter_ne {β : Type} (k n : Nat) (l : List (Nat × β)) :
    List.lookup k (l.filter (fun p => p.1 != n)) = if k = n then none else List.lookup k l := by
  induction l with
  | nil => exact (ite_self none).symm
  | cons entry rest tail =>
    rcases Decidable.em (entry.1 = n) with gone | stays
    · -- the entry goes: only a search for n could have met it
      rw [List.filter_cons_of_neg (by simpa using gone), tail, List.lookup_cons]
      split
      · rfl
      · rename_i other; rw [beq_false_of_ne (fun same : k = entry.1 => other (same.trans gone))]
    · -- the entry stays: it answers for its own number as before
      rw [List.filter_cons_of_pos (by simpa using stays), List.lookup_cons, List.lookup_cons, tail]
      cases own : k == entry.1
      · rfl
      · exact (if_neg fun e => stays ((beq_iff_eq.1 own).symm.trans e)).symm

theorem Flow.rd_zero (f : Flow) : f.rd 0 = 0 := rfl

/-- A register after a write (R30): s0 stays zero. -/
theorem Flow.rd_wr {f : Flow} (h : f.s.length = 32) (d r : BitVec 5) (x : Word) :
    (f.wr d x).rd r = if r = d then (if d = 0 then 0 else x) else f.rd r := by
  rcases Decidable.em (d = 0) with rfl | hd
  · -- a write of s0 is discarded
    show f.rd r = _
    split
    · rename_i e; subst e; rfl
    · rfl
  · rcases Decidable.em (r = 0) with rfl | hr
    · -- s0 reads zero
      rw [Flow.rd_zero, Flow.rd_zero, if_neg (Ne.symm hd)]
    · have hlt : r.toNat < f.s.length := by rw [h]; exact r.isLt
      simp only [Flow.rd, Flow.wr, hd, hr, if_false, List.lookup_filter_ne]
      by_cases hrd : r = d
      · subst hrd; simp [List.getD, hlt]
      · have hn : r.toNat ≠ d.toNat := fun e => hrd (BitVec.eq_of_toNat_eq e)
        simp [hrd, hn, List.getD, hn.symm]

/-- A register after a result is put under way to it (R148). -/
theorem Flow.rd_wrBusy (f : Flow) (d r : BitVec 5) (x : Word) :
    (f.wrBusy d x).rd r = if r = d then (if d = 0 then 0 else x) else f.rd r := by
  rcases Decidable.em (d = 0) with rfl | hd
  · -- a write of s0 is discarded
    show f.rd r = _
    split
    · rename_i e; subst e; rfl
    · rfl
  · rcases Decidable.em (r = 0) with rfl | hr
    · -- s0 reads zero
      rw [Flow.rd_zero, Flow.rd_zero, if_neg (Ne.symm hd)]
    · simp only [Flow.rd, Flow.wrBusy, hd, hr, if_false]
      by_cases hrd : r = d
      · subst hrd; simp [List.lookup]
      · have hn : r.toNat ≠ d.toNat := fun e => hrd (BitVec.eq_of_toNat_eq e)
        have : (r.toNat == d.toNat) = false := by simp [hn]
        simp [hrd, List.lookup, this, List.lookup_filter_ne, hn]

@[simp] theorem Flow.rd_next (f : Flow) (r : BitVec 5) : f.next.rd r = f.rd r := rfl

theorem Flow.wr_s_length (f : Flow) (d : BitVec 5) (x : Word) : (f.wr d x).s.length = f.s.length := by
  unfold Flow.wr; split
  · rfl
  · simp

/-! ### Exceptions (R371, R373) -/

/-- Taking an exception changes the flow, the tenant's record, the interrupts raised and, for a DATAERR, the error log. -/
theorem State.trap_frame (s : State) (t : Trap) (h : t.cause ≠ 7) :
    (s.trap t).mem = s.mem ∧ (s.trap t).memKey = s.memKey ∧ (s.trap t).rest = s.rest ∧
      ((s.trap t).net = s.net ∨ (s.trap t).net = s.net ++ [s.dev.msi s.me.tenant 0]) ∧
      (s.trap t).l1 = s.l1 ∧ (s.trap t).peerCopies = s.peerCopies ∧ (s.trap t).launches = s.launches := by
  unfold State.trap
  simp only [if_neg h]
  split <;> simp

/-- Taking an exception whose entry is handled (R371). -/
theorem State.trap_entry (s : State) (t : Trap) (h : t.cause ≠ 7) (hin : s.me.status3.getLsbD 2 = false)
    (hv : (s.ten s.me.tenant).tvec ≠ 0) :
    s.trap t = s.modMe (fun f => { f with
      cause := t.causeWord
      epc := t.epc.getD s.me.pc
      eval := t.eval
      status3 := (4 : BitVec 3) ||| (if f.status3.getLsbD 0 then 2 else 0) ||| 1
      pc := (s.ten s.me.tenant).tvec
      ival := f.ival + 1
      convoy := Convoy.none
      rebuilt := false }) := by
  have hb : (s.me.status3.getLsbD 2 || (s.ten s.me.tenant).tvec == 0) = false := by
    rw [hin, Bool.false_or, beq_eq_false_iff_ne]; exact hv
  unfold State.trap
  simp only [if_neg h, hb, Bool.false_eq_true, if_false]

theorem State.logErr_memWf {s : State} (h : s.memWf) (k c u t d p v : Nat) : (s.logErr k c u t d p v).memWf := by
  unfold State.logErr
  split
  · exact h
  · split
    · exact State.memWf_of_eq h (by simp) (by simp)
    · unfold State.memWf
      dsimp only
      exact ⟨Memory.setN_wf _ h.1 _, Memory.setN_wf _ h.2 _⟩

/-- Taking an exception keeps the memories in canonical form. -/
theorem State.trap_memWf {s : State} (h : s.memWf) (t : Trap) : (s.trap t).memWf := by
  have h' : (if t.cause = 7 then s.logErr 2 7 t.sub s.me.tenant s.me.loc.die t.pa (s.trapVa t) else s).memWf := by
    split
    · exact State.logErr_memWf h ..
    · exact h
  unfold State.trap
  generalize (if t.cause = 7 then s.logErr 2 7 t.sub s.me.tenant s.me.loc.die t.pa (s.trapVa t) else s) = s' at h' ⊢
  dsimp only
  split
  · exact State.memWf_of_eq h' (by simp) (by simp)
  · exact State.memWf_of_eq h' (by simp) (by simp)

/-- Every word that runs its checks first keeps the form if its effect does. -/
theorem run_memWf {s t : State} {cks : List (Bool × Trap)} {eff : State → State} (h : s.memWf)
    (he : (eff s).memWf) (hr : run s cks eff = .next t) : t.memWf := by
  obtain ⟨tr, _, rfl⟩ | ⟨_, rfl⟩ := run_cases hr
  · exact State.trap_memWf h tr
  · exact he

end Sys2Proof.Machine
end

