-- ==== Sys2Proof/Certificates/Slice0/Obligations.lean ====
section
/-! DEFINITION. The statements for the provers, and the words they are written in (namespace Sys2Proof.Claims). A
statement's docstring names the rules of spec/ it rests on. -/
open Sys2Proof Sys2Proof.Machine
namespace Sys2Proof.Claims
/-- No register the word reads holds an uncorrectable error (R443). -/
def clean (s : State) (rs : List RegRef) : Prop := ∀ r ∈ rs, r ∉ s.me.bad

/-- Beyond the flow whose turn it is, the accounts of its tenant and launch and the draws of free values, nothing moves. -/
def flowOnly (s t : State) : Prop :=
  t = { s with me := t.me, tenants := t.tenants, launches := t.launches, freeCtr := t.freeCtr }

/-- What the tenant and the launch of the flow pay, femtojoules (R363). -/
def paid (s t : State) (fj : Nat) : Prop :=
  t.tenants = s.tenants.modify s.me.tenant (fun x => { x with spent := x.spent + fj }) ∧
    t.launches = s.launches.map (fun l => if l.id = s.me.key.launch then { l with charged := l.charged + fj } else l)

/-- Every byte reads as before: at its point of service, and through the flow's own stores. -/
def sameBytes (s t : State) : Prop :=
  ∀ a key fill, t.byteAt a key = s.byteAt a key ∧
    t.seenByte t.me t.me.ownStores a key fill = s.seenByte s.me s.me.ownStores a key fill

/-- Of the flow, a scalar word changes scalar registers (with the results under way to them and their error marks), the
pc, its open convoy, which it ends, and its count of element-beats; it pays 6,000 fJ and stores nothing. -/
def scalarFrame (s t : State) : Prop :=
  flowOnly s t ∧ paid s t 6000 ∧ sameBytes s t ∧
    t.me = { s.me with s := t.me.s, busy := t.me.busy, bad := t.me.bad, pc := t.me.pc, convoy := Convoy.none, qBeats := s.me.qBeats + 1 }

/-- The scalar registers: sd holds x, or still 0 where it is s0, which discards writes (R30); every other one stands. -/
def wrote (s t : State) (d : BitVec 5) (x : Word) : Prop :=
  t.me.rd d = (if d = 0 then 0 else x) ∧ ∀ r, r ≠ d → t.me.rd r = s.me.rd r

/-- The results of R97 and R98 for two sources, in plain arithmetic. -/
def aluTable : List ((BitVec 5 → BitVec 5 → BitVec 5 → Instr) × (Word → Word → Word)) :=
  [(.add, fun a b => BitVec.ofNat 64 (a.toNat + b.toNat)),
   (.sub, fun a b => BitVec.ofInt 64 (a.toInt - b.toInt)),
   (.and, fun a b => a &&& b), (.or, fun a b => a ||| b), (.xor, fun a b => a ^^^ b),
   (.sll, fun a b => BitVec.ofNat 64 (a.toNat * 2 ^ (b.toNat % 64))),
   (.srl, fun a b => BitVec.ofNat 64 (a.toNat / 2 ^ (b.toNat % 64))),
   (.sra, fun a b => BitVec.ofInt 64 (a.toInt / 2 ^ (b.toNat % 64))),
   (.slt, fun a b => if a.toInt < b.toInt then 1 else 0), (.sltu, fun a b => if a.toNat < b.toNat then 1 else 0),
   (.min, fun a b => BitVec.ofInt 64 (min a.toInt b.toInt)), (.max, fun a b => BitVec.ofInt 64 (max a.toInt b.toInt)),
   (.minu, fun a b => BitVec.ofNat 64 (min a.toNat b.toNat)), (.maxu, fun a b => BitVec.ofNat 64 (max a.toNat b.toNat)),
   (.mul, fun a b => BitVec.ofNat 64 (a.toNat * b.toNat)),
   (.mulh, fun a b => BitVec.ofInt 64 (a.toInt * b.toInt / 2 ^ 64)),
   (.mulhu, fun a b => BitVec.ofNat 64 (a.toNat * b.toNat / 2 ^ 64)),
   (.div, fun a b => if b = 0 then BitVec.ofInt 64 (-1) else if a.toInt = -2 ^ 63 ∧ b.toInt = -1 then a else BitVec.ofInt 64 (a.toInt.tdiv b.toInt)),
   (.divu, fun a b => if b = 0 then BitVec.ofNat 64 (2 ^ 64 - 1) else BitVec.ofNat 64 (a.toNat / b.toNat)),
   (.rem, fun a b => if b = 0 then a else BitVec.ofInt 64 (a.toInt - b.toInt * a.toInt.tdiv b.toInt)),
   (.remu, fun a b => if b = 0 then a else BitVec.ofNat 64 (a.toNat - b.toNat * (a.toNat / b.toNat)))]

/-- The immediate forms of R99, each with its operation of R97. -/
def aluImmTable : List ((BitVec 5 → BitVec 5 → BitVec 14 → Instr) × (Word → Word → Word)) :=
  [(.addi, fun a b => BitVec.ofNat 64 (a.toNat + b.toNat)),
   (.andi, fun a b => a &&& b), (.ori, fun a b => a ||| b), (.xori, fun a b => a ^^^ b),
   (.slti, fun a b => if a.toInt < b.toInt then 1 else 0), (.sltiu, fun a b => if a.toNat < b.toNat then 1 else 0)]

/-- The shifts by fn[5:0]. -/
def shiftImmTable : List ((BitVec 5 → BitVec 5 → BitVec 6 → Instr) × (Word → Nat → Word)) :=
  [(.slli, fun a n => BitVec.ofNat 64 (a.toNat * 2 ^ n)), (.srli, fun a n => BitVec.ofNat 64 (a.toNat / 2 ^ n)),
   (.srai, fun a n => BitVec.ofInt 64 (a.toInt / 2 ^ n))]

/-- x is the count CLZ, CTZ or POPC gives for a: leading zeros, trailing zeros, ones. -/
def isClz (a : Word) (n : Nat) : Prop := n ≤ 64 ∧ a.toNat < 2 ^ (64 - n) ∧ (n < 64 → 2 ^ (63 - n) ≤ a.toNat)
def isCtz (a : Word) (n : Nat) : Prop := n ≤ 64 ∧ (∀ i, i < n → a.getLsbD i = false) ∧ (n < 64 → a.getLsbD n = true)
def isPopc (a : Word) (n : Nat) : Prop := n = ((List.range 64).filter (fun i => a.getLsbD i)).length

/-- The single-source counts. -/
def countTable : List ((BitVec 5 → BitVec 5 → Instr) × (Word → Nat → Prop)) := [(.clz, isClz), (.ctz, isCtz), (.popc, isPopc)]

/-- What a load or an atomic access changes of the flow: as a scalar word, but memory may have been read. -/
def scalarFlow (s t : State) : Prop :=
  t.me = { s.me with s := t.me.s, busy := t.me.busy, bad := t.me.bad, pc := t.me.pc, convoy := Convoy.none, qBeats := s.me.qBeats + 1 }

/-- The loads of R104: bytes, and whether the value is sign-extended. -/
def loadTable : List ((BitVec 5 → BitVec 5 → BitVec 14 → Instr) × Nat × Bool) :=
  [(.lb, 1, true), (.lbu, 1, false), (.lh, 2, true), (.lhu, 2, false), (.lw, 4, true), (.lwu, 4, false), (.ld, 8, false)]

/-- The stores of R104. -/
def storeTable : List ((BitVec 5 → BitVec 5 → BitVec 14 → Instr) × Nat) := [(.sb, 1), (.sh, 2), (.sw, 4), (.sd, 8)]

/-- The value of n bytes, lowest first, sign- or zero-extended to 64 bits. -/
def extended (sext : Bool) (n x : Nat) : Word :=
  if sext ∧ 2 ^ (8 * n - 1) ≤ x then BitVec.ofInt 64 ((x : Int) - 2 ^ (8 * n)) else BitVec.ofNat 64 x

/-- The address of a scalar load or store (R104). -/
def scalarAddr (s : State) (a : BitVec 5) (i : BitVec 14) : Word := s.me.rd a + i.signExtend 64

/-- A byte beside its own bytes that a store through va may write: the one of its leaf's D bit, where a walk or a TLB gives
the leaf with D clear (R397). -/
def leafByte (s : State) (va : Word) (x : Xl) (b : Nat) : Prop :=
  (x.dClear = true ∧ x.pte ≠ 0 ∧ b = x.pte / 8 * 8) ∨
    ∃ e, s.tlbHit (s.ctx s.me) va.toNat = some e ∧ e.leaf.getLsbD 6 = false ∧ e.pte ≠ 0 ∧ b = e.pte / 8 * 8

/-- That leaf stands in HBM, and no plan watches its word. -/
def plainLeaf (s : State) (va : Word) (x : Xl) : Prop :=
  ∀ b, leafByte s va x b → regionOf b = .hbm ∧ ∀ w ∈ s.watches, w.addr ≠ b

/-- The AMOs of R107 with their new value: width in bits, old, operand, expected. -/
def amoTable : List ((BitVec 5 → BitVec 5 → BitVec 5 → BitVec 2 → BitVec 3 → Bool → Instr) × (Nat → Nat → Nat → Nat → Option Nat) × Bool) :=
  [(.amoswap, (fun _ _ x _ => some x), false), (.amoadd, (fun w o x _ => some ((o + x) % 2 ^ w)), false),
   (.amoand, (fun _ o x _ => some (o &&& x)), false), (.amoor, (fun _ o x _ => some (o ||| x)), false),
   (.amomax, (fun w o x _ => some (if sgn w o < sgn w x then x else o)), false),
   (.amomin, (fun w o x _ => some (if sgn w x < sgn w o then x else o)), false),
   (.amocas, (fun _ o x e => if o = e then some x else none), true)]

/-- Bytes of an access by an AMO. -/
def amoBytes (z : Bool) : Nat := if z then 4 else 8

/-- The registers that an AMO reads (R107). -/
def amoRegs (d a b : BitVec 5) (cas : Bool) : List (BitVec 5) := if cas then [a, b, d] else [a, b]

/-- An AMO's state once FENCEs before a walk that fails have performed (R404), and once its TLB's leaf has D set (R397). -/
def amoFirst (s : State) (a : BitVec 5) (z : Bool) : State := s.fenceFirst (s.me.rd a) (amoBytes z) true
def amoState (s : State) (d a b : BitVec 5) (z cas : Bool) : State :=
  (amoFirst s a z).beforeStore (amoChecks (amoRegs d a b cas) (s.me.rd a) (amoBytes z)) (s.me.rd a)

/-- An AMO meets no exception of R110, before its leaf's D bit is set and after, translating to x. -/
def amoMay (s : State) (d a b : BitVec 5) (z cas : Bool) (x : Xl) : Prop :=
  (s.me.rd a).toNat % amoBytes z = 0 ∧ (amoFirst s a z).me.s = s.me.s ∧
    (∀ u ∈ [amoFirst s a z, amoState s d a b z cas],
      clean u ((amoRegs d a b cas).map (fun r => .s r.toNat)) ∧ (∃ y, u.translate (u.ctx u.me) (s.me.rd a).toNat .r = .ok y) ∧
        ∃ y, u.access (u.ctx u.me) (s.me.rd a).toNat .w = .ok y) ∧
    (let u := amoState s d a b z cas; u.access (u.ctx u.me) (s.me.rd a).toNat .w = .ok x)

/-- It has nothing to wait for, finds no error in the data, and in replay mode the boundary has let it run (R209). -/
def amoNow (s : State) (d a b : BitVec 5) (o : BitVec 2) (z cas : Bool) : Prop :=
  let f := amoFirst s a z
  f.ahead = false ∧ (f.replayOf f.me = false ∨ f.me.qGo = true) ∧
    (∀ u ∈ [f, amoState s d a b z cas], ∀ y, u.access (u.ctx u.me) (s.me.rd a).toNat .r = .ok y → y.index = true ∨ u.dataBad y.pa = none) ∧
    amoWaits { f with me := { f.me with qGo := false } } (s.me.rd a) o (amoBytes z) = false

/-- No access of any flow is under way, no byte of a peer is held, no word is watched, and no core's L1 holds a byte. -/
def calm (s : State) : Prop :=
  s.net = [] ∧ s.peerCopies = [] ∧ s.watches = [] ∧ s.l1 = [] ∧ ∀ f ∈ s.flows, f.sb = [] ∧ f.cq = [] ∧ f.vsq = []

/-- The registers of R33 and what each holds for the flow whose turn it is. -/
def csrTable : List (Nat × (State → Word)) :=
  [(0x000, fun s => BitVec.ofNat 64 s.me.vl.toNat), (0x001, fun s => s.me.vtype), (0x002, fun s => s.me.svp),
   (0x003, fun s => s.me.vprog), (0x004, fun s => BitVec.ofNat 64 s.me.vgnt.toNat), (0x010, fun s => BitVec.ofNat 64 s.me.loc.fid),
   (0x011, fun s => BitVec.ofNat 64 s.me.key.lflow), (0x012, fun s => BitVec.ofNat 64 s.me.loc.core),
   (0x013, fun s => BitVec.ofNat 64 s.me.loc.cluster), (0x014, fun s => BitVec.ofNat 64 s.me.loc.die),
   (0x015, fun s => BitVec.ofNat 64 s.dev.domDev.toNat), (0x016, fun s => BitVec.ofNat 64 s.me.tenant),
   (0x020, fun s => BitVec.ofNat 64 (64 * popN 4 s.me.qm.toNat + 65536 * s.me.qm.toNat)), (0x030, fun s => s.me.ttcur),
   (0x031, fun s => s.me.ttmiss), (0x040, fun s => BitVec.ofNat 64 ((s.ten s.me.tenant).spent / 10 ^ 9)),
   (0x041, fun s => BitVec.ofNat 64 ((s.ten s.me.tenant).share - (s.ten s.me.tenant).spent / 10 ^ 9)),
   (0x050, fun s => if s.dev.featLock then s.dev.featAcc.getD 0 0 else 0), (0x051, fun s => if s.dev.featLock then s.dev.featAcc.getD 1 0 else 0),
   (0x052, fun s => if s.dev.featLock then s.dev.featAcc.getD 2 0 else 0), (0x053, fun s => if s.dev.featLock then s.dev.featAcc.getD 3 0 else 0),
   (0x060, fun s => s.me.cause), (0x061, fun s => s.me.epc), (0x062, fun s => s.me.eval),
   (0x063, fun s => BitVec.ofNat 64 (s.me.status3.toNat + (if s.me.preq then 8 else 0))), (0x064, fun s => (s.ten s.me.tenant).tvec)]

/-- The registers of class S, whose every access is the supervisor's, and those of class RS, whose writes are (R34). -/
def classSup (n : Nat) : Prop := 0x060 ≤ n ∧ n ≤ 0x064
def classRs (n : Nat) : Prop := n = 0x000 ∨ n = 0x003 ∨ n = 0x030
def classRw (n : Nat) : Prop := n = 0x001 ∨ n = 0x002

/-- Supervisor mode (R369). -/
def supervisor (s : State) : Prop := s.me.status3.getLsbD 0 = true

/-- A read of MGR waits for the words of the matrix unit, and like TTCUR and TTMISS for the engine words before it; a read of
VL, VTYPE, SVP, VPROG or VGNT for the vector words before it (R35, R184, R255). -/
def csrSettled (s : State) (n : Nat) : Prop :=
  ((n = 0x020 ∨ n = 0x030 ∨ n = 0x031) → s.me.eq = []) ∧ (n = 0x020 → s.me.mxq = []) ∧ (n < 5 → s.me.vqDrained = true)

/-- What a write of x leaves of a flow, by register (R34, R38, R39, R42, R43, R368, R369): reserved fields are ignored, VL
stores at most VLMAX(), a new VTYPE lowers VL to its VLMAX(), PREQ ignores the write. -/
def csrPut (n : Nat) (f : Flow) (x : Word) : Flow :=
  if n = 0x000 then { f with vl := BitVec.ofNat 16 (min (x.toNat % 65536) f.vlmax) }
  else if n = 0x001 then
    { f with vtype := x, vl := if ({ f with vtype := x } : Flow).vlmax < f.vl.toNat then BitVec.ofNat 16 ({ f with vtype := x } : Flow).vlmax else f.vl }
  else if n = 0x002 then { f with svp := x &&& 0x7F }
  else if n = 0x003 then { f with vprog := x &&& 0x8000FFFF }
  else if n = 0x030 then { f with ttcur := x &&& 0xFFFF }
  else if n = 0x060 then { f with cause := x &&& 0xFFFF }
  else if n = 0x061 then { f with epc := x }
  else if n = 0x062 then { f with eval := x }
  else if n = 0x063 then { f with status3 := x.setWidth 3 }
  else f

/-- Reserved bits of a VTYPE, or a format code that R37 does not assign. -/
def vtypeReserved (x : Word) : Prop :=
  65536 ≤ x.toNat ∨ (28 ≤ x.toNat % 64 ∧ x.toNat % 64 ≤ 31) ∨ 38 ≤ x.toNat % 64

/-- A CSR write may go on: the mode allows it, and a value for VTYPE is one that R38 accepts and that R167 does not bar. -/
def csrMayWrite (s : State) (n : Nat) (x : Word) : Prop :=
  (supervisor s ∨ classRw n) ∧ (classSup n ∨ classRs n ∨ classRw n) ∧
    (n = 0x001 → ¬vtypeReserved x ∧ (s.me.loop = none ∨ ({ s.me with vtype := x } : Flow).vlmax = s.me.vlmax))

/-- The flow after a scalar word that also did g. -/
def scalarAfter (s : State) (g : Flow → Flow) : Flow :=
  { g s.me with pc := s.me.pc + 4, convoy := Convoy.none, qBeats := s.me.qBeats + 1 }

/-- A trap would be handled (R371). -/
def handled (s : State) : Prop := s.me.status3.getLsbD 2 = false ∧ (s.ten s.me.tenant).tvec ≠ 0

/-- The flow after trap entry (R371): CAUSE, EPC, EVAL, PSUP = the mode before, SUP and INTRAP set, the handler's address; an
ordering interval closes and the open convoy ends. -/
def entered (s : State) (cause epc eval : Word) : Flow :=
  { s.me with
    cause := cause
    epc := epc
    eval := eval
    status3 := if s.me.status3.getLsbD 0 then 7 else 5
    pc := (s.ten s.me.tenant).tvec
    ival := s.me.ival + 1
    convoy := Convoy.none
    rebuilt := false }

/-- A word that ends a replay quantum runs only at the boundary (R209); elsewhere at once. -/
def mayGo (s : State) : Prop := s.replayOf s.me = false ∨ s.me.qGo = true

/-- What lies ahead of the word of the flow whose turn it is: power, no replay boundary under way, the environment's turn,
and the flow Running at a word it may issue, with no flow of its sequencer that issued less recently and can issue (R182). `s` is
the state once the turn is taken; no step before it has left a snoop to send (R421). -/
def atWord (s0 s : State) : Prop :=
  s0.dev.power = true ∧ s0.replayQ = [] ∧ s0.sched = .flow s0.me.key :: s.sched ∧ s = { s0 with sched := s.sched } ∧
    s.me.status = .running ∧ s.me.point = none ∧ s.me.pc ≠ 0xFFFFFFFFFFFFFFF0 ∧
    (s.replayOf s.me = false ∨ s.me.qEnd = false ∨ s.me.qGo = true) ∧ s.ahead = false ∧ s.sharers s.me.key = [] ∧
    s.coh.need = [] ∧ ∀ p ∈ s.coh.snoops, p.st ≠ 2

/-- What the host's answers do to a step (R421): it takes place where nothing it accesses waits for one; else its snoops go out and
nothing else moves. -/
def gated (s : State) : Prop :=
  (∀ t : State, t.coh.need = [] → (∀ p ∈ t.coh.snoops, p.st ≠ 2) → s.snoopGate (.next t) = .next t) ∧
    ∀ t : State, t.coh.need ≠ [] → ∃ c, s.snoopGate (.next t) = .next { s with coh := c }

/-- No word of the flow has issued without its value (R105, R161). -/
def nothingAhead (s : State) : Prop := ∀ p ∈ s.ckpts, p.before.key ≠ s.me.key

/-- Nothing holds the word back: no register it names is busy, or waits for a word of EQ (R148, R405), no load that it has sent is
still out (R203), and in replay mode the convoys before a scalar-class word, or one that starts a convoy, have been charged (R193,
R209). -/
def mayIssue (s : State) (i : Instr) : Prop :=
  (∀ r ∈ s.me.named i, (∀ p ∈ s.me.busy, p.1 ≠ r) ∧ r ∉ s.me.eqDests) ∧ s.fetching s.me = false ∧
    (s.replayOf s.me = true → s.me.vqDrained = true ∨ ∃ c, convoyBit i = some c ∧ s.me.starts c = false)

/-- What follows a word leaves all but the flow's place in its quantum and in its sequencer's order, and the age of cached
bytes, which drop in time (R182, R206, R209), while no dirty byte of W_n is due to go home (R439). -/
def endsAs (t u : State) : Prop :=
  (∀ p ∈ t.peerCopies, p.dirty = true → p.age + 1 < 2 ^ 27) →
    u = { t with me := u.me, rest := u.rest, issueCtr := u.issueCtr, l1 := u.l1, peerCopies := u.peerCopies } ∧
    ∀ k f, t.flow? k = some f → ∃ g, u.flow? k = some g ∧
      g = { f with qGo := g.qGo, qEnd := g.qEnd, issued := g.issued, fetch := g.fetch } ∧
      (t.replayOf f = false → g.qGo = f.qGo ∧ g.qEnd = f.qEnd)

/-- The four bytes at the pc, fetched with execute permission, lowest first (R74, R103). -/
def fetches (s : State) (bs : List Byte) : Prop :=
  s.me.pc.toNat % 4 = 0 ∧ ∃ xs, s.accessBytes (s.ctx s.me) s.me.pc.toNat .x 4 = .ok xs ∧ s.badOf xs = none ∧
    bs = bytesLE 4 (natLE (s.readXls s.me xs))

/-- Subcodes of ILLEGAL for a word that is no instruction (R84). -/
def illegalSub : DecErr → Nat
  | .opcode => 1
  | .func => 2
  | .field => 3
  | .reg => 4
  | .mask => 5
  | .convoy => 6
  | .short => 1

/-- The sizes of a flow's register files and tables (R30 to R32, R51, R259, R283). -/
def shape (f : Flow) : Prop :=
  f.s.length = 32 ∧ f.v.length = 48 ∧ f.m.length = 12 ∧ f.tags.length = 16 ∧ f.slots.length = 16 ∧ f.ctags.length = 16 ∧
    f.cscope.length = 16

/-- Every flow of the machine, and every copy of one kept for a load without its value, has that shape. -/
def shapes (s : State) : Prop := shape s.me ∧ (∀ f ∈ s.rest, shape f) ∧ ∀ p ∈ s.ckpts, shape p.before

/-- Words that the spec writes out with the instruction they encode (worked encodings of 04, 05, 07, 10, 12 to 15, 17, 20). -/
def wordTable : List (Nat × Instr) :=
  [(0x01298E00, .add 5 6 7), (0x0118C044, .slli 3 3 4), (0x02213FF8, .addi 4 4 0x3FF8), (0x082891A2, .lih 5 0x91A2),
   (0x0A203FFD, .beq 4 0 0x3FFD), (0x11004000, .jalr 0 1 0), (0x18408010, .ld 8 2 0x10), (0x1B4ABFFC, .sw 9 10 0x3FFC),
   (0x1D4A97B8, .amocas 9 10 11 3 4 false), (0x1E280000, .csrrd 5 0), (0x1E019001, .csrwr 0 6 1), (0x1F300020, .fence 6 4),
   (0x1F005440, .sys 0x2A), (0x1F000080, .eret), (0x1F000100, .wfe), (0xA0290000, .setvl true 5 4), (0xA10F2200, .setvt true 0x0F22),
   (0xC80140F0, .vld true 0 10 15), (0x2304003C, .vadd false 1 0 0 15), (0xA8144048, .vaddVx true 5 4 1 0b001000),
   (0x4C1580F0, .vst false 5 12 15), (0xB60801C0, .vcompress true 2 0 7 0), (0xB518003C, .mpop true 6 0),
   (0x4E0080F0, .loopv 4 false), (0x4F0000F0, .endv), (0x50000030, .brkv 3), (0x54514B00, .plan 20 10 11 false),
   (0x55629501, .papplySpm 24 20 21 false), (0x5C000010, .mattach 1), (0x5F00202E, .mop false 0 2 0 1 14),
   (0x69296C14, .swalk 10 11 12 1 1 0), (0x6C000020, .commit 2), (0x73029501, .ttbind 20 21 1), (0x7B14C000, .enchk 5 6)]


/-! ### Vector words -/

/-- Type classes of R83. -/
def tyN (n : Nat) : Prop := n ≤ 13 ∨ (32 ≤ n ∧ n ≤ 37)
def tyI (n : Nat) : Prop := (9 ≤ n ∧ n ≤ 13) ∨ (32 ≤ n ∧ n ≤ 36)
def tyF (n : Nat) : Prop := n ≤ 8 ∨ n = 37
def tyS (n : Nat) : Prop := 14 ≤ n ∧ n ≤ 27
def tyD (n : Nat) : Prop := n ≤ 27 ∨ (32 ≤ n ∧ n ≤ 37)
def tyAny (_ : Nat) : Prop := True

/-- The registers of the VTYPE group at v, and the mask register a mask field names (15 names none). -/
def vrefs (s : State) (v : BitVec 6) : List RegRef := (List.range s.me.grp).map (fun k => .v (v.toNat + k))
def mrefs (m : BitVec 4) : List RegRef := if m = 15 then [] else [.m m.toNat]

/-- A vector word meets no exception of R84 and VQ has room: it starts or joins a convoy, VTYPE is of its class, its
groups are aligned (R31), and no register it reads is bad (R443; with VL = 0 none is read, R211). -/
def vecMay (s : State) (c : Bool) (ps : List Pipe) (ty : Nat → Prop) (gs : List (BitVec 6)) (rs : List RegRef) : Prop :=
  s.me.convoyBad c ps = false ∧ ty s.me.fmtc ∧ (∀ v ∈ gs, v.toNat % s.me.grp = 0) ∧ (s.me.vl = 0 ∨ clean s rs) ∧
    s.me.vq.length < 32

/-- Of the machine a vector word of the arithmetic and permute pipes changes the flow alone: vector and mask registers,
results under way to scalar registers and error marks as the statement says, then its place in the convoy, VPROG.V
(R43), the pc and VQ, where it waits for its element-beats. -/
def vecFrame (s t : State) (c : Bool) (ps : List Pipe) (ends : Bool) : Prop :=
  t = { s with me := t.me } ∧
    t.me = { s.me with
      v := t.me.v
      m := t.me.m
      busy := t.me.busy
      bad := t.me.bad
      pc := s.me.pc + 4
      convoy := s.me.convoyAfter c ps ends
      vprog := s.me.vprog &&& 0xFFFFFFFF7FFFFFFF
      vq := t.me.vq } ∧
    t.me.vq.length = s.me.vq.length + 1

/-- The group of g registers at d exists and holds VL elements of w bits in what the flow sees of it (R40, R46). -/
def room (f : Flow) (d g w : Nat) : Prop :=
  f.v.length = 48 ∧ d + g ≤ 48 ∧ f.vlN * w ≤ g * f.view.2 ∧ f.view.1 + f.view.2 ≤ 16384

/-- The mask field m selects position i: 15 selects all. -/
def picks (f : Flow) (m : BitVec 4) (i : Nat) : Bool := m == 15 || (f.m.getD m.toNat 0).getLsbD i

/-- Position i is inside the active set (R151). -/
def active (f : Flow) (i : Nat) : Bool := f.act.getLsbD i

/-- WriteDest (R27, R151), R49 and R169 on one group, from position k on: below VL an active position that the mask
selects takes x, one it does not select becomes 0 or stays by VTYPE.MP, an inactive one stays; from VL up the group is zero,
but a carried group keeps its elements there below VLMAX; bits outside what the flow sees stay. -/
def groupTakesFrom (k : Nat) (f g : Flow) (d w : Nat) (m : BitVec 4) (x : Nat → Nat) : Prop :=
  room f d f.grp w → f.vl ≠ 0 →
    (∀ i, i < f.vlN → g.elem d f.grp w i =
      (if active f i && decide (k ≤ i) then (if picks f m i then x i % 2 ^ w else if f.mz then 0 else f.elem d f.grp w i)
       else f.elem d f.grp w i)) ∧
    (f.isCarried d f.grp = false → ∀ j, f.vlN * w ≤ j → j < f.grp * f.view.2 → bit (g.gstr d f.grp) j = false) ∧
    (f.isCarried d f.grp = true → f.vlmaxNow * w ≤ f.grp * f.view.2 → ∀ i, f.vlN ≤ i → i < f.vlmaxNow →
      g.elem d f.grp w i = f.elem d f.grp w i) ∧
    (∀ r k, d ≤ r → r < d + f.grp → (k < f.view.1 ∨ f.view.1 + f.view.2 ≤ k) →
      (g.v.getD r 0).getLsbD k = (f.v.getD r 0).getLsbD k)

/-- The same from position 0 on. -/
def groupTakes : Flow → Flow → Nat → Nat → BitVec 4 → (Nat → Nat) → Prop := groupTakesFrom 0

/-- Of the registers of a flow, vector ones outside [d, d + n) stand; with VL = 0 all do (R211). -/
def vOnly (f g : Flow) (d n : Nat) : Prop :=
  (∀ r, r < d ∨ d + n ≤ r → g.v[r]? = f.v[r]?) ∧ (f.vl = 0 → g.v = f.v)

/-- The result goes to the VTYPE group at d, and no other register changes. -/
def toGroup (s t : State) (d : BitVec 6) (m : BitVec 4) (x : Nat → Nat) : Prop :=
  groupTakes s.me t.me d.toNat s.me.ew m x ∧ vOnly s.me t.me d.toNat s.me.grp ∧ t.me.m = s.me.m ∧ t.me.busy = s.me.busy ∧
    ∀ r, r ∉ vrefs s d → (r ∈ t.me.bad ↔ r ∈ s.me.bad)

/-- The result goes to mask register d, position by position as WriteDest writes it, zero from VL up (R32, R151); with
VL = 0 nothing is written (R211). -/
def toMask (s t : State) (d : BitVec 6) (m : BitVec 4) (p : Nat → Bool) : Prop :=
  t.me.v = s.me.v ∧ t.me.busy = s.me.busy ∧ (∀ r, r ≠ d.toNat → t.me.m[r]? = s.me.m[r]?) ∧ (s.me.vl = 0 → t.me.m = s.me.m) ∧
    (s.me.vl ≠ 0 → d.toNat < s.me.m.length → s.me.vlN ≤ 32768 → ∀ i, i < 32768 →
      (t.me.m.getD d.toNat 0).getLsbD i =
        (decide (i < s.me.vlN) &&
          (if active s.me i then (if picks s.me m i then p i else !s.me.mz && (s.me.m.getD d.toNat 0).getLsbD i)
           else (s.me.m.getD d.toNat 0).getLsbD i))) ∧
    ∀ r, r ≠ .m d.toNat → (r ∈ t.me.bad ↔ r ∈ s.me.bad)

/-- The result goes to scalar register d, which is busy until it comes (R148). -/
def toScalar (s t : State) (d : BitVec 5) (x : Word) : Prop :=
  wrote s t d x ∧ t.me.v = s.me.v ∧ t.me.m = s.me.m ∧ ∀ r, r ≠ .s d.toNat → (r ∈ t.me.bad ↔ r ∈ s.me.bad)

/-- Element i of the VTYPE group at v; its exact value; Convert to the VTYPE format (R58, R62, R119). -/
def el (s : State) (v : BitVec 6) (i : Nat) : Nat := s.me.elem v.toNat s.me.grp s.me.ew i
def vl (f : Flow) (x : Nat) : FVal := (efmt f.fmtc).val x
def cv (f : Flow) (x : FVal) : Nat := convert f.fmtc f.rm f.sat x

/-- An element read as an integer of its format: signed or unsigned (R56). -/
def asInt (f : Flow) (x : Nat) : Int :=
  match efmt f.fmtc with
  | .int w true => sgn w x
  | _ => x

/-- VDIV (R127): integers truncate toward zero, wrapped or saturated, a zero divisor gives all ones; other formats take
the converted quotient. -/
def divResult (f : Flow) (x y : Nat) : Nat :=
  match efmt f.fmtc with
  | .int w sg =>
    if asInt f y = 0 then 2 ^ w - 1
    else
      let q := (asInt f x).tdiv (asInt f y)
      codeOf w (if f.sat then min (max q (iMin w sg)) (iMax w sg) else q)
  | _ => cv f ((vl f x).div (vl f y))

/-- The two-source element-wise forms of R125 to R127: type class, and the code at a position from the two there. -/
def elem2Table : List ((Bool → BitVec 6 → BitVec 6 → BitVec 6 → BitVec 4 → Instr) × (Nat → Prop) × (Flow → Nat → Nat → Nat)) :=
  [(.vadd, tyN, fun f x y => cv f ((vl f x).add f.rm (vl f y))),
   (.vsub, tyN, fun f x y => cv f ((vl f x).add f.rm (vl f y).neg)),
   (.vmul, tyN, fun f x y => cv f ((vl f x).mul (vl f y))),
   (.vdiv, tyN, divResult),
   (.vmin, tyN, fun f x y => cv f ((vl f x).pick false (vl f y))),
   (.vmax, tyN, fun f x y => cv f ((vl f x).pick true (vl f y))),
   (.vmulh, tyI, fun f x y => codeOf f.ew (asInt f x * asInt f y / 2 ^ f.ew)),
   (.vabsd, tyN, fun f x y => cv f ((vl f x).add f.rm (vl f y).neg).abs),
   (.vand, tyI, fun _ x y => x &&& y), (.vor, tyI, fun _ x y => x ||| y), (.vxor, tyI, fun _ x y => x ^^^ y),
   (.vsll, tyI, fun f x y => if f.ew ≤ y then 0 else x * 2 ^ y % 2 ^ f.ew),
   (.vsrl, tyI, fun f x y => if f.ew ≤ y then 0 else x / 2 ^ y),
   (.vsra, tyI, fun f x y => codeOf f.ew (sgn f.ew x / 2 ^ min y f.ew))]

/-- The immediate forms of R125. -/
def elemITable : List ((Bool → BitVec 6 → BitVec 6 → BitVec 6 → BitVec 4 → Instr) × (Nat → Prop) × (Flow → Nat → BitVec 6 → Nat)) :=
  [(.vaddi, tyN, fun f x i => cv f ((vl f x).add f.rm (.ofInt i.toInt))),
   (.vslli, tyI, fun f x i => x * 2 ^ i.toNat % 2 ^ f.ew), (.vsrli, tyI, fun _ x i => x / 2 ^ i.toNat),
   (.vsrai, tyI, fun f x i => codeOf f.ew (sgn f.ew x / 2 ^ i.toNat))]

/-- The cross-lane forms of R130, with the identity that `.fi` fills in. -/
def elemXTable : List ((Bool → BitVec 6 → BitVec 6 → BitVec 6 → BitVec 6 → Instr) × (Flow → Nat → Nat → Nat) × (Flow → Nat)) :=
  [(.vaddVx, (fun f x y => cv f ((vl f x).add f.rm (vl f y))), fun _ => 0),
   (.vsubVx, (fun f x y => cv f ((vl f x).add f.rm (vl f y).neg)), fun _ => 0),
   (.vmulVx, (fun f x y => cv f ((vl f x).mul (vl f y))), fun f => cv f (.ofInt 1)),
   (.vminVx, (fun f x y => cv f ((vl f x).pick false (vl f y))), fun f => highestCode f.fmtc),
   (.vmaxVx, (fun f x y => cv f ((vl f x).pick true (vl f y))), fun f => lowestCode f.fmtc)]

/-- The fused forms of R128: one rounding of the exact a × b ± d or its negative. -/
def elem3Table : List ((Bool → BitVec 6 → BitVec 6 → BitVec 6 → BitVec 4 → Instr) × (Flow → FVal → FVal → FVal → FVal)) :=
  [(.vfma, fun f a b d => (a.mul b).add f.rm d), (.vfms, fun f a b d => (a.mul b).add f.rm d.neg),
   (.vfnma, fun f a b d => (a.mul b).neg.add f.rm d.neg), (.vfnms, fun f a b d => (a.mul b).neg.add f.rm d)]

/-- The one-source forms of R129. -/
def elem1Table : List ((Bool → BitVec 6 → BitVec 6 → BitVec 4 → Instr) × (Nat → Prop) × (Flow → Nat → Nat)) :=
  [(.vrec, tyF, fun f x => cv f (vl f x).recip8), (.vrsq, tyF, fun f x => cv f (vl f x).rsqrt8),
   (.vfexp2, tyF, fun f x => cv f (vl f x).exp2), (.vabs, tyN, fun f x => cv f (vl f x).abs),
   (.vneg, tyN, fun f x => cv f (vl f x).neg), (.vnot, tyI, fun f x => 2 ^ f.ew - 1 - x),
   (.vclz, tyI, fun f x => if x = 0 then f.ew else f.ew - 1 - Nat.log2 x),
   (.vpopc, tyI, fun f x => ((List.range f.ew).filter (fun i => x.testBit i)).length)]

/-- The source position at position i under a cross-lane modifier (R17, R78): up, down, reversed, broadcast; none
outside [0, VL). -/
def lanePos (x : BitVec 6) (n i : Nat) : Option Nat :=
  let amt := x.toNat % 8
  if x.toNat / 8 % 4 = 0 then (if amt + 1 ≤ i then some (i - (amt + 1)) else none)
  else if x.toNat / 8 % 4 = 1 then (if i + (amt + 1) < n then some (i + (amt + 1)) else none)
  else if x.toNat / 8 % 4 = 2 then some (n - 1 - i)
  else if amt < n then some amt else none

/-- Element i of a group through a modifier, `z` standing outside. -/
def lane (s : State) (v x : BitVec 6) (z i : Nat) : Nat :=
  match lanePos x s.me.vlN i with
  | some j => el s v j
  | none => z

/-- Registers of a source group of another width (R131): the smallest power of two that holds g × ws / w, at least 1. -/
def srcGrp (s : State) (ws : Nat) : Nat := gsOf s.me.grp ws s.me.ew
def srefs (s : State) (a : BitVec 6) (ws : Nat) : List RegRef := (List.range (srcGrp s ws)).map (fun k => .v (a.toNat + k))

/-- The source group is one of at most 8 aligned registers. -/
def srcOk (s : State) (a : BitVec 6) (ws : Nat) : Prop := srcGrp s ws ≤ 8 ∧ a.toNat % srcGrp s ws = 0

/-- The scale check of R42 passes for a format code. -/
def svpOk (s : State) (c : Nat) : Prop := 15 ≤ c ∧ c ≤ 27 → s.me.svp.getLsbD 6 = true ∧ s.me.svp.toNat % 64 < 48

/-- The conversions of R131 with their rule on the widths of source and destination. -/
def cvtTable : List ((Bool → BitVec 6 → BitVec 6 → BitVec 6 → BitVec 4 → Instr) × (Nat → Nat → Prop)) :=
  [(.vcvt, fun ws w => ws = w), (.vwiden, fun ws w => ws < w), (.vnarrow, fun ws w => w < ws)]

/-- Conditions of R134 on exact values: a NaN is unequal to everything and in no order. -/
def isEq (x y : FVal) : Bool := decide (x ≠ .nan ∧ y ≠ .nan ∧ x.cmp y = .eq)
def isLt (x y : FVal) : Bool := decide (x ≠ .nan ∧ y ≠ .nan ∧ x.cmp y = .lt)

def cmpTable : List ((Bool → BitVec 6 → BitVec 6 → BitVec 6 → BitVec 4 → Instr) × (FVal → FVal → Bool)) :=
  [(.vcmpEq, isEq), (.vcmpNe, fun x y => !isEq x y), (.vcmpLt, isLt), (.vcmpLe, fun x y => isLt x y || isEq x y)]

def cmpiTable : List ((Bool → BitVec 6 → BitVec 6 → BitVec 6 → BitVec 4 → Instr) × (FVal → FVal → Bool)) :=
  [(.vcmpiEq, isEq), (.vcmpiNe, fun x y => !isEq x y), (.vcmpiLt, isLt), (.vcmpiGt, fun x y => isLt y x)]

/-- Bit i of mask register a. -/
def mbit (s : State) (a : BitVec 6) (i : Nat) : Bool := (s.me.m.getD a.toNat 0).getLsbD i

def mlogTable : List ((Bool → BitVec 6 → BitVec 6 → BitVec 6 → Instr) × (Bool → Bool → Bool)) :=
  [(.mand, fun p q => p && q), (.mor, fun p q => p || q), (.mxor, fun p q => p != q), (.mandn, fun p q => p && !q)]

/-- The positions below VL that satisfy p, ascending. -/
def places (s : State) (p : Nat → Bool) : List Nat := (List.range s.me.vlN).filter p

/-- The elements a reduction, scan or fold takes in: the identity where mask or active set is 0 (R145 to R147). -/
def taken (s : State) (a : BitVec 6) (m : BitVec 4) (ident : Nat) (i : Nat) : Nat :=
  if picks s.me m i && active s.me i then el s a i else ident

/-- Value i of level k of the tree of R69 over n values: adjacent pairs combine, an odd last value is carried up. -/
def treeLevel (op : Nat → Nat → Nat) (x : Nat → Nat) (n : Nat) : Nat → Nat → Nat
  | 0, i => x i
  | k + 1, i =>
    if 2 * i + 1 < (n + 2 ^ k - 1) / 2 ^ k then op (treeLevel op x n k (2 * i)) (treeLevel op x n k (2 * i + 1))
    else treeLevel op x n k (2 * i)

/-- Tree of R69: the one value of the first level that holds one; the identity for none. -/
def treeOf (op : Nat → Nat → Nat) (ident : Nat) (x : Nat → Nat) (n : Nat) : Nat :=
  if n = 0 then ident else treeLevel op x n (Nat.log2 (n - 1) + 1) 0

/-- The node operations of R68 and R69 in the VTYPE format, and their identities (R27). -/
def nodeSum (f : Flow) (a b : Nat) : Nat := cv f ((vl f a).add f.rm (vl f b))
def nodeMax (f : Flow) (a b : Nat) : Nat := cv f ((vl f a).pick true (vl f b))
def nodeMin (f : Flow) (a b : Nat) : Nat := cv f ((vl f a).pick false (vl f b))
def idSum (_ : Flow) : Nat := 0
def idMax (f : Flow) : Nat := lowestCode f.fmtc
def idMin (f : Flow) : Nat := highestCode f.fmtc

/-- The reductions of R145. -/
def redTable : List ((Bool → BitVec 6 → BitVec 6 → BitVec 4 → Instr) × (Nat → Prop) × (Flow → Nat → Nat → Nat) × (Flow → Nat)) :=
  [(.vredsum, tyN, nodeSum, idSum), (.vredmax, tyN, nodeMax, idMax), (.vredmin, tyN, nodeMin, idMin),
   (.vredand, tyI, (fun _ x y => x &&& y), fun f => 2 ^ f.ew - 1), (.vredor, tyI, (fun _ x y => x ||| y), fun _ => 0),
   (.vredxor, tyI, (fun _ x y => x ^^^ y), fun _ => 0)]

/-- A scalar result: sign-extended for a signed integer format, else zero-extended (R145). -/
def redWide (f : Flow) (x : Nat) : Word := BitVec.ofInt 64 (asInt f x)

/-- The running value at position i of a scan (R70): inclusive, or exclusive from the identity. -/
def running (op : Nat → Nat → Nat) (x : Nat → Nat) : Nat → Nat
  | 0 => x 0
  | i + 1 => op (running op x i) (x (i + 1))
def runningX (op : Nat → Nat → Nat) (ident : Nat) (x : Nat → Nat) : Nat → Nat
  | 0 => ident
  | i + 1 => op (runningX op ident x i) (x i)

/-- The scans of R146: operation, identity, exclusive or not. -/
def scanTable : List ((Bool → BitVec 6 → BitVec 6 → BitVec 4 → Instr) × (Flow → Nat → Nat → Nat) × (Flow → Nat) × Bool) :=
  [(.vscansum, nodeSum, idSum, false), (.vscanmax, nodeMax, idMax, false), (.vscanmin, nodeMin, idMin, false),
   (.vscansumX, nodeSum, idSum, true), (.vscanmaxX, nodeMax, idMax, true), (.vscanminX, nodeMin, idMin, true)]

/-- Chunks left after k passes of the fold of R71 over n of them. -/
def chunksLeft (n : Nat) : Nat → Nat
  | 0 => n
  | k + 1 => (chunksLeft n k + 1) / 2

/-- Position p of chunk j after k passes of Fold (R71) over x(0 .. n − 1) in chunks of t: the upper half of the chunks is
combined into the lower, where it has that position. -/
def foldPassed (op : Nat → Nat → Nat) (x : Nat → Nat) (n t : Nat) : Nat → Nat → Nat → Nat
  | 0, j, p => x (j * t + p)
  | k + 1, j, p =>
    let h := chunksLeft ((n + t - 1) / t) (k + 1)
    if j + h < chunksLeft ((n + t - 1) / t) k ∧ (j + h) * t + p < n then
      op (foldPassed op x n t k j p) (foldPassed op x n t k (j + h) p)
    else foldPassed op x n t k j p

def foldTable : List ((Bool → BitVec 6 → BitVec 6 → BitVec 6 → Instr) × (Flow → Nat → Nat → Nat) × (Flow → Nat)) :=
  [(.vfoldSum, nodeSum, idSum), (.vfoldMax, nodeMax, idMax), (.vfoldMin, nodeMin, idMin)]

/-- Whether pair (bv, bi) ranks above (av, ai) (R149): the larger value, the smaller index at equal values, a NaN below
every number. -/
def above (bv av : FVal) (bi ai : Nat) : Bool :=
  decide ((av = .nan ∧ bv ≠ .nan) ∨ (av = .nan ∧ bv = .nan ∧ bi < ai)) || (isEq bv av && decide (bi < ai)) || isLt av bv

/-- What VCSX leaves in the group at v (R149): the last of its four writes that names the group. -/
def csxAt (s : State) (d a : BitVec 6) (v i : Nat) : Nat :=
  let e (v : Nat) : Nat := s.me.elem v s.me.grp s.me.ew i
  let d := d.toNat
  let a := a.toNat
  let g := s.me.grp
  let up := above (vl s.me (e a)) (vl s.me (e d)) (e (a + g)) (e (d + g))
  if v = a + g then (if up then e (d + g) else e (a + g))
  else if v = a then (if up then e d else e a)
  else if v = d + g then (if up then e (a + g) else e (d + g))
  else (if up then e a else e d)

/-- A permutation (R130, R139 to R142) may run: class D with its scale register, aligned groups, clean sources. -/
def permMay (s : State) (c : Bool) (gs : List (BitVec 6)) (rs : List RegRef) : Prop :=
  vecMay s c [.p] tyD gs rs ∧ svpOk s s.me.fmtc

/-- The convoys before the one that a vector word starts or joins have ended (R79). -/
def convoysOver (s : State) (c : Bool) : Prop :=
  s.me.vecIdle = true ∧ (if s.me.starts c then s.me.vq = [] else (convoyHead s.me.vq).2 = [])

/-- VQ has drained up to the word that writes mask register m (R175, R184). -/
def maskSettled (s : State) (m : BitVec 4) : Prop :=
  (∀ w ∈ s.me.vq, w.mdst ≠ some m.toNat) ∧ (s.me.vecIdle = true ∨ ∀ c, s.me.cv = some c → ∀ w ∈ c.ws, w.mdst ≠ some m.toNat)

/-- Positions below VL that a mask field and the active set select. -/
def chosen (s : State) (m : BitVec 4) (i : Nat) : Bool := picks s.me m i && active s.me i

/-- The grant of R186 for a request of n elements: as many lane groups as cover it under VTYPE, at most the cap. -/
def lanesFor (s : State) (n : Nat) : Nat :=
  min ((n * s.me.ew + 2048 * s.me.grp - 1) / (2048 * s.me.grp)) (s.grantCap s.me)

/-- A grant of n lane groups, each in the partition of the flow's core and not retired (R185, R450). -/
def isGrant (s : State) (n : Nat) (g : BitVec 8) : Prop :=
  let i := 64 * s.me.loc.die + 4 * s.me.loc.cluster + s.me.loc.core
  ((List.range 8).filter (fun j => g.getLsbD j)).length = n ∧
    ∀ j, j < 8 → g.getLsbD j = true →
      ((s.ten s.me.tenant).part.getD i 0).getLsbD j = true ∧ (s.dev.retlg.getD i 0).getLsbD j = false

/-- The vector registers under a new grant (R50): bits up to the shorter of the two register lengths stay, the rest are
zero; the same grant leaves all. -/
def reformed (f : Flow) (g : BitVec 8) (v : List VReg) : Prop :=
  let n (x : BitVec 8) := ((List.range 8).filter (fun j => x.getLsbD j)).length
  (g = f.vgnt → v = f.v) ∧
  (g ≠ f.vgnt → v.length = f.v.length ∧ ∀ r i, (v.getD r 0).getLsbD i =
    (decide (i < 2048 * min (n f.vgnt) (n g)) && (f.v.getD r 0).getLsbD i))

/-! ### Vector memory and strips -/

/-- Where element i starts, in bits (R153): unit stride from a bit offset, and a byte stride taken modulo 2^64. -/
def unitBit (base o w i : Nat) : Nat := 8 * base + o + i * w
def stridedBit (base : Nat) (stride : Int) (i : Nat) : Nat := 8 * (((base : Int) + (i : Int) * stride) % (2 ^ 64 : Int)).toNat

/-- The w bits at a bit address are readable and hold x: every byte translates, none has an error, and the bytes are those
that a load of the flow reads (R105, R158). -/
def readsBitsBy (s : State) (f : Flow) (ba w x : Nat) : Prop :=
  ∃ xs, s.accessBytes (s.ctx f) (ba / 8) .r ((ba % 8 + w + 7) / 8) = .ok xs ∧ s.badOf xs = none ∧
    x = natLE (s.readXls f xs) / 2 ^ (ba % 8) % 2 ^ w
def readsBits (s : State) (ba w x : Nat) : Prop := readsBitsBy s s.me ba w x

/-- The position a vector memory word starts at (R43, R159). -/
def startAt (f : Flow) : Nat := if f.vprog.getLsbD 31 then min (f.vprog.toNat % 65536) f.vlN else 0

/-- The scale check of R42 as vector memory words make it: under block-scaled and outlier formats (R155). -/
def svpOkMem (s : State) : Prop := 14 ≤ s.me.fmtc ∧ s.me.fmtc ≤ 27 → s.me.svp.getLsbD 6 = true ∧ s.me.svp.toNat % 64 < 48

/-- The checks of R155: element addresses of whole bytes are aligned to the element. -/
def vecAligned (s : State) (w : Nat) (base : Word) (stride : Option Word) : Prop :=
  s.me.vl = 0 ∨ w < 8 ∨ (base.toNat % (w / 8) = 0 ∧ ∀ st, stride = some st → st.toNat % (w / 8) = 0)

/-- The state in which a vector load reads: what the word waits for has performed, and its bytes are in reach (R198 to R200). -/
def inReachAt (s : State) (rd : ElemRead) (sel : Nat) : State :=
  (s.ready true false).reachPlaces (readPositions s s.me rd (s.me.vlN - startAt s.me) (startAt s.me) (sel / 2 ^ startAt s.me)).2.1.flatten
def inReach (s : State) (rd : ElemRead) (m : BitVec 4) : State := inReachAt s rd (s.me.selN m)

/-- A load may read at once: it is not to leave its values for later, and nothing that only later words bring holds it back. -/
def readsNow (s : State) : Prop := s.ahead = false ∧ s.stuck true false = false ∧ nothingAhead s

/-- Of the flow a vector memory word changes, beyond what its statement says, its place in the convoy, VPROG.V, pc and VQ. -/
def memFrame (f g : Flow) (c : Bool) (ps : List Pipe) : Prop :=
  g.pc = f.pc + 4 ∧ g.convoy = { f.convoyAfter c ps false with feed := g.convoy.feed } ∧ g.vprog = f.vprog &&& 0xFFFFFFFF7FFFFFFF ∧
    g.vq.length = f.vq.length + 1 ∧ g.s = f.s ∧ g.busy = f.busy ∧ g.m = f.m ∧ f.sameSpecial { g with vprog := f.vprog }

/-- A vector load completed: the group at d took x from its start position on, no other register changed, and memory stands. -/
def loaded (s t : State) (c : Bool) (ps : List Pipe) (d : BitVec 6) (m : BitVec 4) (x : Nat → Nat) : Prop :=
  flowOnly s t ∧ memFrame s.me t.me c ps ∧ t.me.convoy.feed = (s.me.convoyAfter c ps false).feed ∧
    groupTakesFrom (startAt s.me) s.me t.me d.toNat s.me.ew m x ∧ vOnly s.me t.me d.toNat s.me.grp ∧
    t.me.sb = s.me.sb ∧ t.me.cq = s.me.cq ∧ t.me.vsq = s.me.vsq

/-- The flow reads position i's w bits wherever the word's mask and the active set select it. -/
def readsAll (s : State) (m : BitVec 4) (ba : Nat → Nat) (w : Nat) (x : Nat → Nat) : Prop :=
  ∀ i, startAt s.me ≤ i → i < s.me.vlN → chosen s m i = true → readsBits s (ba i) w (x i)

/-- The source formats of VLDW (R90, R156), plain and scaled. -/
def widenPlain : BitVec 2 → Nat
  | 0 => 13
  | 1 => 14
  | 2 => 4
  | _ => 8
def widenScaled : BitVec 2 → Nat
  | 0 => 24
  | 1 => 15
  | 2 => 16
  | _ => 20

/-- The value VLDW gives for position i of a source format (R66, R156): of a code, or of the pair code in its whole byte. -/
def widenVal (src i byteOf x : Nat) : FVal :=
  if src = 14 ∨ src = 15 then (if i % 2 = 0 then (decodePair (byteOf % 16) (byteOf / 16 % 16)).1 else (decodePair (byteOf % 16) (byteOf / 16 % 16)).2)
  else (efmt src).val x

/-- Every byte a vector store writes translates for writing, and no granule is lost (R158, R427). -/
def writesAll (s : State) (m : BitVec 4) (ba : Nat → Nat) (w : Nat) : Prop :=
  (s.dev.dieLost = 0 ∨ ∀ e ∈ s.coh.dir, e.lost = false) ∧
    ∀ i, startAt s.me ≤ i → i < s.me.vlN → chosen s m i = true →
      ∃ xs, s.accessBytes (s.ctx s.me) (ba i / 8) .w ((ba i % 8 + w + 7) / 8) = .ok xs

/-- Bit p of element i, of w bits, is one that the store selects. -/
def inElem (s : State) (m : BitVec 4) (w i p : Nat) : Prop :=
  p < w ∧ startAt s.me ≤ i ∧ i < s.me.vlN ∧ chosen s m i = true

/-- Bit p of element i is stored to bit q of the byte at physical address b: the element is selected, and b is where the bit's
address translates to. -/
def storesBit (s : State) (m : BitVec 4) (ba : Nat → Nat) (w i p b q : Nat) : Prop :=
  inElem s m w i p ∧ (ba i + p) % 8 = q ∧ ∃ y, s.access (s.ctx s.me) ((ba i + p) / 8) .w = .ok y ∧ y.pa = b

/-- Byte b is of a leaf whose D bit a selected element's store sets (R397): of s itself, whose TLBs may hold it, or as u walks. -/
def leafOfStore (s u : State) (m : BitVec 4) (ba : Nat → Nat) (w b : Nat) : Prop :=
  ∃ i p, inElem s m w i p ∧
    ((∃ y, u.access (u.ctx u.me) ((ba i + p) / 8) .w = .ok y ∧ y.dClear = true ∧ y.pte ≠ 0 ∧ b = y.pte / 8 * 8) ∨
     ∃ e ∈ s.tlb, e.leaf.getLsbD 6 = false ∧ e.pte ≠ 0 ∧ b = e.pte / 8 * 8 ∧ e.tenant = s.me.tenant ∧ e.vbase ≤ (ba i + p) / 8 ∧
       (ba i + p) / 8 < e.vbase + e.size)

/-- Those leaves stand in HBM, and no plan watches a word of theirs. -/
def plainLeaves (s u : State) (m : BitVec 4) (ba : Nat → Nat) (w : Nat) : Prop :=
  ∀ b, leafOfStore s u m ba w b → regionOf b = .hbm ∧ ∀ x ∈ s.watches, x.addr ≠ b

/-- A scalar-class word: charged 6,000 fJ, the open convoy over, one beat; beyond that the flow became f, and nothing else of the
machine moved. -/
def became (s t : State) (f : Flow) : Prop :=
  flowOnly s t ∧ paid s t 6000 ∧ t.me = { f with convoy := Convoy.none, qBeats := s.me.qBeats + 1 }

/-- VL at a strip start with n elements to go (R167). -/
def stripVl (f : Flow) (par : Bool) (n : Nat) : BitVec 16 := BitVec.ofNat 16 (min n (if par then f.vlmax1 else f.vlmax))

/-- The stores that wait for the strip's release, in order, at the positions p selects (R163, R170). -/
def waiting (f : Flow) (p : Nat → Bool) : List Access :=
  ((f.vsq.map (fun w => w.writes)).flatten.filter (fun x => p x.1)).map (fun x => x.2)

/-- The operation of a carried group by its code (R353). -/
def carryOp (f : Flow) (k : Nat) : Nat → Nat → Nat := if k = 0 then nodeSum f else if k = 1 then nodeMax f else nodeMin f
def carryId (f : Flow) (k : Nat) : Nat := if k = 0 then 0 else if k = 1 then lowestCode f.fmtc else highestCode f.fmtc

/-- Position i of the fold of a carried group over the copies of a `.par` loop (R71, R172). -/
def foldedCopies (f : Flow) (v k i : Nat) : Nat :=
  foldPassed (carryOp f k) (fun j => (f.copyElems v (j / f.vlmax1) f.vlmax1).getD (j % f.vlmax1) 0) (f.granted * f.vlmax1) f.vlmax1
    (f.granted + 1) 0 i

/-! ### Engine words -/

/-- An address of the arena window, the TCM or the reserved window, which no engine may touch (R212, R213, R289). -/
def barred (a : Nat) : Prop := (0x1FE000000000000 ≤ a ∧ a < 0x1FF000000000000) ∨ (0x1FFFFFFFFC00000 ≤ a ∧ a < 0x200000000000000)

/-- A completion word that passes R285: its visibility scope is 1 to 6 and its low bits are zero. -/
def compOk (c : Word) : Prop := 1 ≤ c.toNat / 2 ^ 13 % 8 ∧ c.toNat / 2 ^ 13 % 8 ≤ 6 ∧ c.toNat % 2 ^ 13 = 0

/-- The tag holds no recorded fault (R283). -/
def tagOpen (s : State) (t : BitVec 4) : Prop := ∀ sub e, s.me.ctags.getD t.toNat .free ≠ .faulted sub e

/-- The flow after a command of it joined the queue: a Free copy tag is Active, the pc moved on. -/
def queued (s : State) (t : BitVec 4) (c : Cmd) : Flow :=
  { s.me with
    eq := s.me.eq ++ [⟨c, { s.ctx s.me with core := none }, s.me.seq⟩]
    seq := s.me.seq + 1
    ctags := if s.me.ctags.getD t.toNat .free = .free then s.me.ctags.set t.toNat .active else s.me.ctags
    pc := s.me.pc + 4 }

/-- The record of a layout dimension (R290): its extent and its signed stride. -/
def dimOf (s : State) (x : BitVec 6) (d : Nat) : Nat := (s.me.slice x.toNat s.me.view.1 s.me.view.2) / 2 ^ (64 * d) % 2 ^ 64
def extOf (s : State) (x : BitVec 6) (d : Nat) : Nat := dimOf s x d % 2 ^ 24
def strideOf (s : State) (x : BitVec 6) (d : Nat) : Int := sgn 40 (dimOf s x d / 2 ^ 24)

/-- Of the machine, a word that may drop cached bytes of its core changes the flow, the accounts, and those. -/
def cacheOnly (s t : State) : Prop :=
  t = { s with me := t.me, tenants := t.tenants, launches := t.launches, freeCtr := t.freeCtr, l1 := t.l1, peerCopies := t.peerCopies }

/-- As `became`, for a word with an acquire. -/
def becameAcq (s t : State) (f : Flow) : Prop :=
  cacheOnly s t ∧ paid s t 6000 ∧ t.me = { f with convoy := Convoy.none, qBeats := s.me.qBeats + 1 }

/-- EQ is empty, and no FENCE and no acquire before the word holds an engine word back (R200, R201, R204); for a word that moves no
memory, or only stores that the strip's end lets go do. -/
def queueOpen (s : State) : Prop := s.me.eq = [] ∧ s.orderLets s.me s.me.seq = true
def queueFree (s : State) : Prop := s.me.eq = [] ∧ (s.orderLets s.me s.me.seq = true ∨ s.me.held ≠ [])

/-- An engine word that acts at once may go on, and in replay mode the boundary has let it run (R204, R209). -/
def engineMay (s : State) : Prop := queueOpen s ∧ mayGo s

/-- The flow after an engine word that raises nothing any more has joined EQ, with the registers it reads (R183, log 111). -/
def standing (s : State) (i : Instr) : Flow :=
  { s.me with
    eq := s.me.eq ++ [⟨.word i ((List.range 32).map (fun r => s.me.rd (BitVec.ofNat 5 r))), { s.ctx s.me with core := none }, s.me.seq⟩]
    seq := s.me.seq + 1
    pc := s.me.pc + 4
    convoy := Convoy.none
    qBeats := s.me.qBeats + 1 }

/-- The flow with a scalar result under way (R148), or a result written. -/
def gotBusy (s t : State) (d : BitVec 5) (x : Word) (f : Flow) : Prop :=
  wrote s t d x ∧ became s t { f with s := t.me.s, busy := t.me.busy, bad := t.me.bad, pc := s.me.pc + 4 }

/-- A feature is accepted and locked (R455). -/
def feature (s : State) (n : Nat) : Prop := s.dev.featLock = true ∧ (s.dev.featAcc.getD 0 0).getLsbD n = true

/-- The entry a tag holds after a transfer of the VTYPE group at d (R51). -/
def landing (s : State) (d : BitVec 6) (e : Landing) (data : Nat → Nat) : Prop :=
  e.dst = d.toNat ∧ e.grp = s.me.grp ∧ e.width = s.me.ew ∧ e.vl = s.me.vlN ∧ e.mz = s.me.mz ∧ e.complete = true ∧
    ∀ i, i < s.me.vlN → startAt s.me ≤ i → active s.me i = true → aget e.data i 0 = data i

/-- A free tag with room in the landing buffer (R51, R52). -/
def tagFree (s : State) (t : BitVec 4) : Prop :=
  (s.me.tags.getD t.toNat .free).entry = none ∧ t.toNat ∉ s.me.reserved ∧ s.landRoom s.me t.toNat ((s.me.vlN * s.me.ew + 7) / 8) = true ∧
    s.me.landings.length < 16 ∧ (s.me.vlN * s.me.ew + 7) / 8 + sumN (s.me.landings.map Landing.bytes) ≤ 32768

/-- A template that R303 accepts. -/
def templateOk (x : Nat) : Prop :=
  x % 4 = 0 ∧ x / 2 ^ 64 % 2 ^ 32 < 2 ^ 24 ∧ 1 ≤ x / 2 ^ 96 % 256 ∧ x / 2 ^ 96 % 256 ≤ 8 ∧ x / 2 ^ 104 % 256 ≤ 3 ∧
    x / 2 ^ 116 % 16 = 0 ∧ (x / 2 ^ 120 % 256 ≤ 3 ∨ x / 2 ^ 120 % 256 = 255) ∧ x / 2 ^ 224 % 2 ^ 32 = 0

/-- The die a template names: 0xFF for the flow's own. -/
def templateDie (s : State) (x : Nat) : Nat := if x / 2 ^ 120 % 256 = 255 then s.me.loc.die else x / 2 ^ 120 % 256

/-- The word TTSTAT gives for an entry (R324): state, Checked, missed, and the cause and subcode of a failed or deferred one. -/
def ttEntryWord (s : State) (b : Binding) (e : TtEnt) : Nat :=
  e.st + (if e.chk then 16 else 0) + (if e.miss then 32 else 0) +
    2 ^ 8 * (if e.st = 8 then e.cause else if s.ttDeferred s.me b e then 0x0E else 0) + 2 ^ 16 * (if e.st = 8 then e.sub else 0)

/-- What TTSTAT reads for n (R324): 0 with no binding or past the table; the binding's mode, misses and stalls for all ones; 1
for an entry not read yet. -/
def ttStatus (s : State) (n : Word) : Nat :=
  match s.me.tt with
  | none => 0
  | some b =>
    if n.toNat = 2 ^ 64 - 1 then b.mode + 4 + 2 ^ 16 * b.misses + 2 ^ 32 * b.stall
    else if b.count ≤ n.toNat then 0
    else
      match b.ents.find? (fun e => decide (e.idx = n.toNat)) with
      | some e => ttEntryWord s b e
      | none => 1

/-- A held record lies wholly in [a, a + n) by its home side (R325). -/
def recIn (r : TtRec) (a n : Nat) : Bool := decide (n ≠ 0 ∧ a ≤ r.va.toNat ∧ r.va.toNat + r.len ≤ a + n)

/-- The 16-byte records that ROWACK writes (R343): header and destination of each refused row. -/
def refBytes (s : State) : List Byte :=
  (s.me.log.refs.map (fun r => bytesLE 8 r.2.1.toNat ++ bytesLE 8 r.2.2.toNat)).flatten

/-! ### The matrix unit -/

/-- Rows attached (R255). -/
def rowsOf (f : Flow) : Nat := 64 * ((List.range 4).filter (fun q => f.qm.getLsbD q)).length

/-- The slot t names. -/
def slotOf (s : State) (t : BitVec 4) : Slot := s.me.slots.getD t.toNat (Slot.init 0)

/-- A vector-class matrix word meets no exception that is not its own: convoy, the matrix feature, an attachment (R262), VL not 0,
clean registers and slots, and room in VQ. -/
def mxMay (s : State) (c : Bool) (ps : List Pipe) (rs : List RegRef) : Prop :=
  s.me.convoyBad c ps = false ∧ feature s 1 ∧ s.me.vl ≠ 0 ∧ rowsOf s.me ≠ 0 ∧ clean s rs ∧ s.me.vq.length < 32

/-- Such a word issued: the flow became f, with its place in the convoy, VPROG.V consumed, pc, VQ, and its place in the unit's
queue, where an MSTA stands with the number of its last store. -/
def mxDone (s t : State) (c : Bool) (ps : List Pipe) (last : Option Nat) (f : Flow) : Prop :=
  flowOnly s t ∧ t.me.vq.length = s.me.vq.length + 1 ∧
    t.me = { f with pc := s.me.pc + 4, convoy := { s.me.convoyAfter c ps false with feed := t.me.convoy.feed },
                    vprog := s.me.vprog &&& 0xFFFFFFFF7FFFFFFF, vq := t.me.vq, mxq := s.me.mxq ++ [last], bad := t.me.bad }

/-- The format codes of the classes of R265 and the K and step rule of R72: K products a fragment. -/
def kOf (c : Nat) : Nat := if 16 ≤ fwidth c then 1 else if 6 ≤ fwidth c then 2 else 4

/-- One accumulation (R72, R73): i32 sums wrap; f32 sums round once to nearest even. -/
def accumulate (kind acc : Nat) (p : FVal) : Nat :=
  if kind = 1 then codeOf 32 (sgn 32 acc + p.toInt) else convert 0 .rne false (((efmt 0).val acc).add .rne p)

/-- The value of a sum entry after n steps, `p j` the exact sum of step j's products. -/
def accumulated (kind : Nat) (p : Nat → FVal) (acc : Nat) : Nat → Nat
  | 0 => acc
  | n + 1 => accumulate kind (accumulated kind p acc n) (p n)

/-- The exact sum of the products of one step for column c of a row (R72, R267): A from the row's own run of elements, B from row
j of the tile; positions without a B element contribute 0. -/
def stepSum (a : Nat → FVal) (b : Nat → Option FVal) (k tile c j : Nat) : FVal :=
  fragSum ((List.range k).map (fun q => (a (j * k + q), b ((j * tile + c) * k + q))))

/-- An element of a matrix operand before its scale (R48, R267): 0 where it does not lie wholly in the group. -/
def mxElem (f : Flow) (v : BitVec 6) (i : Nat) : FVal :=
  if f.view.2 * f.grp < (i + 1) * f.ew then .zero else elemCode f.fmtc (fun j => f.elem v.toNat f.grp f.ew j) i

/-- The scale of the block of 64 positions that holds position i of an operand whose first scale byte is `scale0` (R65, R267). -/
def mxScale (f : Flow) (scale0 i : Nat) : FVal :=
  if 15 ≤ f.fmtc ∧ f.fmtc ≤ 27 then scaleVal (f.fmtc = 25 ∨ f.fmtc = 26) (f.scaleByte (scale0 + i / 64)) else .one

/-- B of a MOP: the matrix feed where the word takes it over (R157, R330), else the register group below VL. -/
def mxB (s : State) (c : Bool) (v : BitVec 6) (i : Nat) : Option FVal :=
  match s.me.takesFeed c v.toNat with
  | some x => (x.elems.getD i none).map (efmt s.me.fmtc).val
  | none => if s.me.vlN ≤ i then none else some (mxElem s.me v i)

/-- The claims of a MOP: none for X where it takes over a feed (R330). -/
def mopPipes (s : State) (c : Bool) (v : BitVec 6) : List Pipe := if (s.me.takesFeed c v.toNat).isSome then [] else [.x]

/-- Slot t of the flow after a MOP of n steps: each row's first min(tile, 128) columns accumulate, the others stand. A step adds the
exact sum of its products, times the scale of A's fragment and that of B's (R72, R268); `sa` gives the former by row and step. -/
def mopSlot (s t : State) (d : BitVec 4) (n : Nat) (a : Nat → Nat → FVal) (b : Nat → Option FVal) (sa : Nat → Nat → FVal) : Prop :=
  let x := slotOf s d
  let y := slotOf t d
  y.kind = x.kind ∧ y.k = x.k ∧ y.z = false ∧ y.p = x.p ∧ y.rc = 0 ∧ y.link = x.link ∧ y.lists = x.lists ∧
    y.sums.length = x.sums.length ∧
    ∀ r c, r < x.sums.length → c < 128 →
      rowCode (y.sums.getD r 0) c =
        (if c < s.me.tile then accumulated x.kind (fun j =>
             ((stepSum (a r) b (kOf s.me.fmtc) s.me.tile c j).mul (sa r j)).mul (mxScale s.me 0 ((j * s.me.tile + c) * kOf s.me.fmtc))) (rowCode (x.sums.getD r 0) c) n % 2 ^ 32
         else rowCode (x.sums.getD r 0) c)

/-- A bound that prunes (R268, R277): the slot's P is set, or it is linked and the bound's value exceeds no row's threshold. -/
def pruned (s : State) (t : BitVec 4) (b : BitVec 5) : Prop := s.me.prunes t b = true

/-- Row r of a memory image of a slot: where it starts. -/
def rowAt (base : Nat) (stride : Int) (r : Nat) : Nat := (((base : Int) + (r : Int) * stride) % (2 ^ 64 : Int)).toNat

/-- The state in which a word reads its rows: each is in reach of the flow (R198 to R200). -/
def rowsReach (s : State) (base : Nat) (stride : Int) (n : Nat) : State :=
  (List.range (rowsOf s.me)).foldl (fun (s : State) (r : Nat) => s.reachRange (rowAt base stride r) n) s

/-- Every byte of every row of n bytes may be accessed (R278). -/
def rowsMay (s : State) (base : Nat) (stride : Int) (n : Nat) (acc : Acc) : Prop :=
  ∀ r j, r < rowsOf s.me → j < n → ∃ y, s.access (s.ctx s.me) ((rowAt base stride r + j) % 2 ^ 64) acc = .ok y

/-- The bytes of every row, in order. -/
def rowBytesOf (s : State) (base : Nat) (stride : Int) (n : Nat) : List Nat :=
  ((List.range (rowsOf s.me)).map (fun r => (List.range n).map (fun i => (rowAt base stride r + i) % 2 ^ 64))).flatten

/-- Every row of n bytes is readable, and holds bs r (R278). -/
def rowsRead (s : State) (base : Nat) (stride : Int) (n : Nat) (bs : Nat → List Byte) : Prop :=
  ∀ r, r < rowsOf s.me → ∃ xs, s.readRange s.me (rowAt base stride r) n = .ok (bs r, xs)

/-- The ranked list of row r after the entries of a row of memory (R272, R275). -/
def mergedList (k : Nat) (l : List (BitVec 32 × BitVec 32)) : List Nat → List (BitVec 32 × BitVec 32)
  | [] => l
  | w :: ws =>
    mergedList k (if ((efmt 0).val (w % 2 ^ 32)).isNan then l else insertEntry k (w % 2 ^ 32) (w / 2 ^ 32) l) ws

/-- The flow's slots with slot t replaced. -/
def setSlot (s : State) (t : BitVec 4) (x : Slot) : List Slot := s.me.slots.set t.toNat x

/-- A slot cleared by MZERO (R280). -/
def zeroed (s : State) (t : BitVec 4) : Slot :=
  { slotOf s t with sums := List.replicate (rowsOf s.me) 0, lists := List.replicate (rowsOf s.me) [], z := true, p := false, rc := 0 }

/-- A slot whose MOP was pruned (R277): P set, one more drop counted, to all ones at most. -/
def dropped (s : State) (t : BitVec 4) : Slot :=
  { slotOf s t with p := true, dropc := BitVec.ofNat 32 (min ((slotOf s t).dropc.toNat + 1) (2 ^ 32 - 1)) }

/-- A slot linked to ranked slot t (R274). -/
def linked (s : State) (q t : BitVec 4) : Slot := { slotOf s q with link := some t.toNat }

/-- A flow that attached `rows` rows (R257), from f, its quarters as in g. -/
def attached (f g : Flow) (rows : Nat) : Flow :=
  { f with qGo := false, qm := g.qm, slots := List.replicate 16 (Slot.init rows), bad := g.bad, pc := f.pc + 4 }

/-! ### Plans -/

/-- The header of a plan just created, as it stands in the arena (R228): Building, and what its maker gives. -/
def planHeader (t : State) (p : PlanRec) (tbase n e l : Nat) (src : Sources) : Prop :=
  t.planGet p 0 8 = 1 ∧ t.planGet p 8 8 = 0 ∧ t.planGet p 0x10 8 = tbase ∧ t.planGet p 0x18 8 = n + 2 ^ 17 * e + 2 ^ 32 * l ∧
    t.planGet p 0x20 4 = src.kind + (if src.wa = 8 then 2 ^ 8 else 0) + (if src.wb = 8 then 2 ^ 9 else 0) ∧
    t.planGet p 0x24 2 = p.gen % 2 ^ 16 ∧ t.planGet p 0x28 8 = src.a ∧ t.planGet p 0x30 4 = src.na ∧ t.planGet p 0x34 4 = src.nb ∧
    t.planGet p 0x38 8 = src.b ∧ t.planGet p 0x74 4 = p.size % 2 ^ 32

/-- Size(N) of R228. -/
def sizeOf (n : Nat) : Nat := 256 * ((272 + 36 * n + 255) / 256)

/-- From s, a word made the plan that lies at `off`: an object of Size(n), its handle in register x, its build given to the
cluster's builder (with the indices already known, for a derived plan), and the object's bytes alone changed in memory. -/
def planMade (s t : State) (x : BitVec 5) (off n tbase e l : Nat) (src : Sources) (known : Option (List Nat)) : Prop :=
  ∃ (p : PlanRec) (j : Job), t.plans = s.plans ++ [p] ∧ p.tenant = s.me.tenant ∧ p.off = off ∧ p.size = sizeOf n ∧
    p.gen = aget s.planGens (s.me.tenant, off) 1 ∧
    wrote s t x (BitVec.ofNat 64 (p.gen * 2 ^ 40 + off)) ∧
    t.me = { s.me with s := t.me.s, busy := t.me.busy, bad := t.me.bad, qGo := false, pc := s.me.pc + 4, convoy := Convoy.none,
                       qBeats := s.me.qBeats + 1 } ∧
    t.rest = s.rest ∧ paid s t 6000 ∧
    t.jobs = s.jobs ++ [j] ∧ j.die = s.me.loc.die ∧ j.cluster = s.me.loc.cluster ∧ j.tenant = s.me.tenant ∧
    (∃ pre, j.kind = .build ⟨off, false, pre, [], [], [], none⟩ ∧ pre.map (fun q => q.1) = known) ∧
    (src.a < 2 ^ 64 → src.b < 2 ^ 64 → src.na < 2 ^ 32 → src.nb < 2 ^ 32 → tbase < 2 ^ 64 → n < 2 ^ 32 → e < 16 → l < 2 ^ 32 → src.kind < 4 →
      (∀ i, i < 256 → s.homeLost ((s.ten s.me.tenant).arenaPa off + i) = none) →
      planHeader t p tbase n e l src) ∧
    ∀ a key, a < (s.ten s.me.tenant).arenaPa off ∨ (s.ten s.me.tenant).arenaPa off + 256 ≤ a → t.keyByte a key = s.keyByte a key

/-- The arena places n bytes at `off`, the lowest multiple of 256 that is free (R226, R240), and the builder takes the build. -/
def planRoom (s : State) (n off : Nat) : Prop :=
  s.arenaFind s.me.tenant (sizeOf n) = some off ∧ s.builderFree s.me.loc.clusterIdx = true

/-- The words of the body that the positions of `sel` from `start` on need can be read (R444, R448, log 120): their places in the
sequence of ranks, and the indices that those name. -/
def bodyRead (s : State) (p : PlanRec) (off start : Nat) (sel : Nat → Bool) : Prop :=
  ∀ i h, start ≤ i → i < s.me.vlN → sel i = true →
    s.planErr p [(s.planGet p 0x64 4 + 4 * (off + i), 4), (s.planGet p 0x60 4 + 8 * s.pRank p (off + i), 8)] h = none

/-- Prepare (R241) gave the plan p and the state s1, which records the use (R235). -/
def prepared (s : State) (h : Word) (r : Bool) (s1 : State) (p : PlanRec) : Prop :=
  ∃ s0, s.prepare h r = .ok s0 p ∧ s1 = s0.useplan s0.me.loc.clusterIdx p

/-- The active positions of PSCAT from `off` whose rank in the plan is k, ascending (R245). -/
def ranked (s : State) (p : PlanRec) (off : Nat) (m : BitVec 4) (k : Nat) : List Nat :=
  places s (fun i => chosen s m i && decide (s.pRank p (off + i) = k))

/-- The bytes of the elements that the word selects, where each translates. -/
def target (s : State) (p : PlanRec) (off : Nat) (m : BitVec 4) (y : Nat → Nat → Xl) (c : Nat) : Prop :=
  ∃ k j, ranked s p off m k ≠ [] ∧ j < 2 ^ s.pE p ∧ (y k j).pa = c

/-- Byte j of the table element of rank k translates to y k j for writing, its leaf dirty, and the plan reads the same, whatever else
of those elements the word has stored. -/
def steadyAt (s : State) (p : PlanRec) (off : Nat) (m : BitVec 4) (y : Nat → Nat → Xl) (k j : Nat) : Prop :=
  (y k j).dClear = false ∧ (y k j).index = false ∧
    (match regionOf (y k j).pa with | .hbm => True | .spm .. => True | .tcm .. => True | .pool => True | _ => False) ∧
    ∀ u : State, u = { s with me := u.me, mem := u.mem, memKey := u.memKey, tenants := u.tenants, launches := u.launches,
                              freeCtr := u.freeCtr, reg := u.reg, l1 := u.l1, amoRuns := u.amoRuns, bad := u.bad,
                              badCache := u.badCache, coh := u.coh } →
      u.tenants.map (fun (x : Tenant) => { x with spent := 0 }) = s.tenants.map (fun (x : Tenant) => { x with spent := 0 }) →
      (∀ c, ¬target s p off m y c → u.mem.get c = s.mem.get c ∧ u.memKey.get c = s.memKey.get c) → (∀ w ∈ u.bad, w ∈ s.bad) →
      u.access (s.ctx s.me) ((s.pTarget p k + j) % 2 ^ 64) .w = .ok (y k j) ∧ u.pTarget p k = s.pTarget p k ∧ u.pE p = s.pE p

/-- Every table element that a position of the word selects lies in bytes of its own, whose translations are steady. -/
def steadyTargets (s : State) (p : PlanRec) (off : Nat) (m : BitVec 4) (y : Nat → Nat → Xl) : Prop :=
  (∀ k j, ranked s p off m k ≠ [] → j < 2 ^ s.pE p → steadyAt s p off m y k j ∧ s.dataBad (y k j).pa = none) ∧
    ∀ k j k' j', ranked s p off m k ≠ [] → ranked s p off m k' ≠ [] → j < 2 ^ s.pE p → j' < 2 ^ s.pE p →
      (y k j).pa = (y k' j').pa → k = k' ∧ j = j'

/-! ### Events -/

/-- Of the machine the flow of key k changed alone, and is g. -/
def flowTo (s u : State) (k : FlowKey) (g : Flow) : Prop :=
  u = { s with me := u.me, rest := u.rest } ∧ u.flow? k = some g ∧ ∀ l, l ≠ k → u.flow? l = s.flow? l

/-- Of the machine the device's registers changed alone, to d. -/
def deviceTo (s u : State) (d : Device) : Prop := u = { s with dev := d }

/-- Of the machine the record of tenant t changed alone, by g. -/
def tenantTo (s u : State) (t : Nat) (g : Tenant → Tenant) : Prop := u = { s with tenants := s.tenants.modify t g }

/-- What is under way once vector v of function fn is raised: its posted write stands on HQ (R433). -/
def rang (s : State) (fn v : Nat) : List Flight := s.net ++ [s.dev.msi fn v]


/-- What a waiting flow waits for has come (R178): an event or a request, a grant to be had, the release of its barrier instance,
its tag's transfer, its copy's point or fault, its counter. -/
def waitOver (s : State) (f : Flow) : Prop :=
  (f.status = .waiting .wfe ∧ (f.events ≠ [] ∨ f.preq = true)) ∨
    (∃ l, f.status = .waiting (.grant l) ∧ s.grantCap f ≠ 0) ∨
    (∃ g n l, f.status = .waiting (.bar g n) ∧ s.launch? f.key.launch = some l ∧ n < aget l.barDone g 0) ∨
    (∃ t, f.status = .waiting (.commit t) ∧ ∀ e, f.tags.getD t .free ≠ .pending e) ∨
    (∃ t v, f.status = .waiting (.swait t v) ∧
      ((f.eq = [] ∧ (f.ctags.getD t .free = .free ∨ (v = false ∧ f.ctags.getD t .free = .released))) ∨
        ∃ sub e, f.ctags.getD t .free = .faulted sub e)) ∨
    ∃ a e, f.status = .waiting (.arrwait a e) ∧
      ∀ u x c, (s.swapIn f.key).counterOf (BitVec.ofNat 64 a) = some (u, x, c) → counterReady c e = true

/-- The store of word `acc` reached its home: its enabled bits are in memory, and no other byte changed. -/
def stored (s u : State) (acc : Access) : Prop :=
  (∀ j i, j < 8 → i < 8 → (u.keyByte (acc.addr + j) acc.key).getLsbD i =
    (if acc.en.getLsbD (8 * j + i) then acc.data.getLsbD (8 * j + i) else (s.keyByte (acc.addr + j) acc.key).getLsbD i)) ∧
    ∀ a key, (∀ j, j < 8 → a = acc.addr + j → ∀ i, i < 8 → acc.en.getLsbD (8 * j + i) = false) → u.keyByte a key = s.keyByte a key

/-- A place of this device's own memory: HBM, the pool, a TCM or a scratchpad. -/
def ownPlace (a : Nat) : Prop := match regionOf a with | .hbm => True | .pool => True | .tcm .. => True | .spm .. => True | _ => False

/-- The job of an id became j, and of the machine the accounts moved beside it. -/
def jobTo (s u : State) (id : Nat) (j : Job) : Prop :=
  u = { s with jobs := u.jobs, tenants := u.tenants, launches := u.launches, freeCtr := u.freeCtr } ∧ u.job? id = some j

/-- The row of an id stands in a state. -/
def rowAnswered (u : State) (id n : Nat) : Prop := ∀ r ∈ u.rows, r.id = id → r.st = .answered n

/-- The row r, found by its id, may be moved on. -/
def rowHere (s : State) (r : Row) : Prop := s.rows.find? (fun q => q.id == r.id) = some r ∧ s.engineFree r.sender = true

/-- The record word of R310. -/
def recordWord (payload kind tag src : Nat) : Word :=
  BitVec.ofNat 64 (payload % 2 ^ 32 * 2 ^ 32 + kind * 2 ^ 28 + tag * 2 ^ 24 + src % 4096 * 2 ^ 12)

/-- The new value of an AMO under way on w-bit values, none where AMOCAS fails (R107): w, old. -/
def amoNew (q : AmoReq) (w o : Nat) : Option Nat :=
  match q.kind with
  | .swap => some q.opnd
  | .add => some ((o + q.opnd) % 2 ^ w)
  | .and => some (o &&& q.opnd)
  | .or => some (o ||| q.opnd)
  | .max => some (if sgn w o < sgn w q.opnd then q.opnd else o)
  | .min => some (if sgn w q.opnd < sgn w o then q.opnd else o)
  | .cas => if o = q.expect then some q.opnd else none

/-- Every byte of a load can be read: its home is there, and it has no uncorrectable error (R105). -/
def accessMay (s : State) (a : Access) : Prop :=
  ∀ j, j < a.size → s.homeLost (a.addr + j) = none ∧ s.dataBad (a.addr + j) = none

/-- The last bytes of a load reached its flow, which was g and is h (R105, R161): a scalar one's value is in its register; of a
vector one the elements, with what had arrived before, are in the group as its word laid down. -/
def delivered (g h : Flow) (d : Defer) (a : Access) (bs : List Byte) : Prop :=
  (d.vec = none → h = { g with s := h.s, busy := h.busy, bad := h.bad, sb := h.sb, rf := h.rf, fences := h.fences } ∧
    (g.s.length = 32 → ∀ q : BitVec 5, h.rd q = (if q ≠ 0 ∧ q = BitVec.ofNat 5 a.dst then loadValue a.sext bs else g.rd q))) ∧
  (∀ e, d.vec = some e → g.v.length = 48 → g.view = d.before.view → e.elems.length = d.before.vlN - e.start →
    h = { g with v := h.v, bad := h.bad, sb := h.sb, rf := h.rf, fences := h.fences } ∧
    (∀ r, r < e.v ∨ e.v + d.before.grp ≤ r → h.v[r]? = g.v[r]?) ∧
    groupTakesFrom e.start d.before h e.v d.before.ew e.m (fun i =>
      let p := e.elems.getD (i - e.start) (0, [])
      natLE (p.2.map (fun pa => aget (bs.zipIdx.map (fun q => (a.addr + q.2, q.1)) ++ d.got) pa 0)) / 2 ^ p.1))

/-- A core's L1 has room for a block more without one leaving (R428). -/
def l1HasRoom (s : State) (c : Nat) : Prop := (s.l1.filter (fun b => b.core == c && b.cached)).length < 255

/-- No two blocks of an L1 hold the same addresses under one key. -/
def l1Uniq (s : State) : Prop :=
  s.l1.Pairwise (fun x y => ¬(x.core = y.core ∧ x.addr = y.addr ∧ x.key = y.key))


/-! ### The host's commands -/

/-- Nothing is under way in any queue, and no word is watched. -/
def still (s : State) : Prop :=
  s.net = [] ∧ s.watches = [] ∧ ∀ f ∈ s.flows, f.sb = [] ∧ f.cq = [] ∧ f.vsq = []

/-- The scratchpad bytes a launch record asks for, on the dies it names (R355). -/
def inRange (r : LRec) (a : Nat) : Prop :=
  ∃ cl o, regionOf a = .spm cl o ∧ nth0 r.flows (cl / 16) ≠ 0 ∧ 4096 * r.spmOff ≤ o ∧ o < 4096 * (r.spmOff + r.spmLen)

/-- A flow runs or waits. -/
def atWork (f : Flow) : Prop := f.status = .running ∨ ∃ w, f.status = .waiting w

/-- The shares of the live tenants, added up (R362). -/
def shares (ts : List Tenant) : Nat := ts.foldr (fun t n => (if t.live then t.share else 0) + n) 0

/-- Whether a shootdown's range meets [a, a + n) (R400). -/
def shot (c : Shoot) (a n : Nat) : Prop := c.npages = 0 ∨ (a < c.va + 4096 * c.npages ∧ c.va < a + n)

/-- Fields of a tenant record that take a write only while the tenant is not live, with their masks (R348). -/
def recordTable : List (Nat × Nat × (Word → Tenant → Tenant)) :=
  [(0x08, 0x000FFFFFFFE00000, fun v x => { x with wbase := v }), (0x10, 0x000FFFFFFFE00000, fun v x => { x with wlimit := v }),
   (0x18, 0x0FFFFFFFFFFFF000, fun v x => { x with ptroot := v }), (0x28, 0xFFFFFFFFFFE00000, fun v x => { x with arena := v }),
   (0x30, 0xFFFFFFFFFFE00000, fun v x => { x with pool := v })]


/-- The device with measurement n (from 1) extended by bytes (R459). -/
def measured (d : Device) (n : Nat) (bs : List Byte) : Device :=
  { d with meas := d.meas.modify (n - 1) (fun m => sha3 (bytesLE 64 m.toNat ++ bs)) }

/-- What each setting of EN is measured with (R459). -/
def enBytes (d : Device) : List Byte := bytesLE 8 d.domDev.toNat ++ bytesLE 8 d.hdmBase.toNat

/-- A flow of a cluster that v names is asked to save where it runs or waits (R450). -/
def leaves (v : Word) (f g : Flow) : Prop :=
  (v.getLsbD (16 * f.loc.die + f.loc.cluster) = true → atWork f → g = { f with preq := true }) ∧
    (v.getLsbD (16 * f.loc.die + f.loc.cluster) = false ∨ ¬atWork f → g = f)

/-- What a TLB, and a walk cache, keep when a shootdown starts (R401). -/
def tlbLeft (s : State) (t : Nat) (c : Shoot) : List TlbEnt :=
  s.tlb.filter (fun e => !(e.tenant == t && (c.npages == 0 || (decide (e.vbase < c.va + 4096 * c.npages) && decide (c.va < e.vbase + e.size)))))
def walksLeft (s : State) (t : Nat) (c : Shoot) : List WalkPtr :=
  s.walks.filter (fun w => !(w.tenant == t && (c.npages == 0 ||
    (decide (w.vbase < c.va + 4096 * c.npages) && decide (c.va < w.vbase + 2 ^ (21 + 9 * w.level))))))

/-- A cluster that a write of RETCL leaves retired, with no flow and no engine's command in it (R424, R450). -/
def powersDown (s : State) (v : Word) (c : Nat) : Prop :=
  (s.dev.retcl ||| v).getLsbD c = true ∧ (∀ f ∈ s.flows, f.loc.clusterIdx = c → f.status = .free ∨ f.status = .saved) ∧
    ∀ j ∈ s.jobs, j.clusterIdx ≠ c

/-- The cluster of a TLB's entry (R398). -/
def tlbCluster (e : TlbEnt) : Nat := match e.place with | .core c => c / 4 | .cluster c => c

/-! ### The host's accesses and the directory -/

/-- A line of HDM that is served now: the host link is up, the page enabled and not flipping (R421, R422). -/
def served (s : State) (l : Nat) : Prop := s.hostServed l = true ∧ l % 64 = 0 ∧ l + 64 ≤ 0xF000000000

/-- Of the machine the coherence records changed alone. -/
def cohTo (s u : State) (c : Coherence) : Prop := u = { s with coh := c }

/-- A snoop of a line is unanswered (R421, R422): of the flip under way, or before an access; with `inv`, a BISnpInv. -/
def snoopOut (s : State) (l : Nat) (inv : Bool) : Prop :=
  (∃ c rest, s.coh.flips = c :: rest ∧ l ∈ c.waiting) ∨ ∃ p ∈ s.coh.snoops, p.line = l ∧ p.st = 0 ∧ (inv = true → p.inv = true)

/-- The host's answer to the snoop of a line is there: after a BISnpInv it holds the line no more, and a flip waits for it no longer. -/
def snoopAnswered (s u : State) (l : Nat) : Prop :=
  (∀ c rest, s.coh.flips = c :: rest → ∃ ws, u.coh.flips = { c with waiting := ws } :: rest ∧ ∀ m, m ∈ ws ↔ m ∈ c.waiting ∧ m ≠ l) ∧
    (∀ m, m ∈ u.coh.acks ↔ m ∈ s.coh.acks ∧ m ≠ l) ∧
    (snoopOut s l true → u.held l = false ∧ (∀ m, m ≠ l → (m ∈ u.coh.holders ↔ m ∈ s.coh.holders)) ∧
      ∀ p, p ∈ u.coh.snoops ↔ p ∈ s.coh.snoops ∧ p.line ≠ l) ∧
    (¬snoopOut s l true → u.coh.holders = s.coh.holders ∧ u.coh.snoops.length = s.coh.snoops.length ∧
      ∀ p ∈ u.coh.snoops, p.line = l → p.st ≠ 0)

/-- No granule is lost (R427). -/
def noneLost (s : State) : Prop := s.dev.dieLost = 0 ∨ ∀ e ∈ s.coh.dir, e.lost = false

/-- A granule that the directory of its home can hold, in the module's own memory (R410, R411). -/
def isGranule (g : Granule) : Prop :=
  (regionOf g.addr = .hbm ∨ regionOf g.addr = .pool) ∧ g.home = homeDie g.addr ∧
    (g.size = 32 ∨ g.size = 128 ∨ g.size = 512) ∧ g.addr % g.size = 0

/-- The request of a die for a granule opens its transaction (R414, R415). -/
def opens (s : State) (d : Nat) (g : Granule) : Prop :=
  isGranule g ∧ d < 4 ∧ g.home ≠ d ∧ s.dev.dieLost.getLsbD d = false ∧ s.dev.dieLost.getLsbD g.home = false ∧ (∀ t ∈ s.coh.txns, t.g ≠ g ∧ (t.req = .binv → sameBlock t.g g = false)) ∧ s.dirVictim g = none

/-- The directory and messages after a request (R413): the entry, the answers due, the messages sent, and whether the home sends Data
with the last answer. -/
def asked (s u : State) (g : Granule) (d acks : Nat) (req : DirReq) (e : DirEnt) (ms : List CMsg) (owed : Bool := false) : Prop :=
  u.dirOf g = e ∧ u.coh.msgs = s.coh.msgs ++ ms ∧ u.txn? g = some ⟨g, req, d, acks, false, owed⟩

/-- Messages after message k has been taken and others sent. -/
def msgTaken (s u : State) (k : Nat) (ms : List CMsg) : Prop := u.coh.msgs = s.coh.msgs.eraseIdx k ++ ms

/-- A grant under which the holder's data is newer than the home's. -/
def isDirty (st : Option DirSt) : Bool := match st with | some .m => true | some .o => true | _ => false

/-! ### The domain, errors, resets and attestation -/

/-- The device with port i at p. -/
def portTo (d : Device) (i : Nat) (p : VexPort) : Device := { d with ports := d.ports.set i p }

/-- The words that an error at an address makes uncorrectable (R444). -/
def errWords (a : Nat) : List Nat :=
  if regionOf a = .hbm then [a / 32 * 32, a / 32 * 32 + 8, a / 32 * 32 + 16, a / 32 * 32 + 24] else [a / 8 * 8]

/-- Memory after a loss of the module's own volatile state: what lies outside stands, and of the rest what keep holds. -/
def memLeft (s u : State) (keep : Nat → Prop) : Prop :=
  ∀ a, ((∃ h, regionOf a = .host h) ∨ (∃ n o, regionOf a = .peer n o) ∨ keep a → u.mem.get a = s.mem.get a) ∧
    ((∀ h, regionOf a ≠ .host h) → (∀ n o, regionOf a ≠ .peer n o) → ¬keep a → u.mem.get a = 0)

/-- No context stands: as after State.reset in flows, launches, tenants, queues and engines. -/
def noContext (u : State) : Prop :=
  u.me = State.reset.me ∧ u.rest = [] ∧ u.tenants = State.reset.tenants ∧ u.launches = [] ∧ u.tasks = [] ∧ u.net = [] ∧ u.jobs = [] ∧
    u.rows = [] ∧ u.plans = [] ∧ u.saves = [] ∧ u.tlb = [] ∧ u.walks = [] ∧ u.l1 = [] ∧ u.reg = [] ∧ u.peerCopies = []

/-- The signature of a message by a seed's key, over the message's SHA3-512 digest (R5). -/
def overDigest (seed : BitVec 512) (msg : List Byte) : BitVec 512 := Config.mldsaSign seed (bytesLE 64 (sha3 msg).toNat)

/-- The name of an algorithm in an answer, in ASCII, its first letter lowest (log 126). -/
def named (n : String) : BitVec 512 := BitVec.ofNat 512 (n.toList.foldr (fun c x => c.toNat + 256 * x) 0)

/-- The answer to an SPDM request, signed under the alias key, with an IDE key (R459). -/
def answered (s u : State) (key : Option Word) (req : String) (content : List (BitVec 512)) : Prop :=
  u = { s with dev := u.dev, freeCtr := u.freeCtr } ∧ u.dev = { s.dev with mailbox := u.dev.mailbox, ideKey := key } ∧
    u.dev.mailbox = s.dev.mailbox ++
      [⟨req, content, some (overDigest s.dev.aliasSeed ((content.map (fun x => bytesLE 64 x.toNat)).flatten))⟩]

end Sys2Proof.Claims

/-- Every form of the scalar arithmetic, register, immediate (the operation of the same name in R97 with k = SignExt(imm14, 14)), LIH
and AUIPC among them, completes with the result that R97, R99 and R100 give, and changes nothing else; their SI and J words have
the fields that R99 and R100 give. -/
def Obligations.ScalarArithmeticResults : Prop :=
  (∀ s : State, s.me.s.length = 32 → ∀ d a b : BitVec 5,
      (∀ p ∈ Claims.aluTable, Claims.clean s [.s a.toNat, .s b.toNat] →
        ∃ t, exec (p.1 d a b) s = .next t ∧ Claims.wrote s t d (p.2 (s.me.rd a) (s.me.rd b)) ∧ t.me.pc = s.me.pc + 4 ∧ Claims.scalarFrame s t) ∧
      (∀ p ∈ Claims.aluImmTable, ∀ i : BitVec 14, Claims.clean s [.s a.toNat] →
        ∃ t, exec (p.1 d a i) s = .next t ∧ Claims.wrote s t d (p.2 (s.me.rd a) (i.signExtend 64)) ∧ t.me.pc = s.me.pc + 4 ∧ Claims.scalarFrame s t) ∧
      (∀ p ∈ Claims.shiftImmTable, ∀ n : BitVec 6, Claims.clean s [.s a.toNat] →
        ∃ t, exec (p.1 d a n) s = .next t ∧ Claims.wrote s t d (p.2 (s.me.rd a) n.toNat) ∧ t.me.pc = s.me.pc + 4 ∧ Claims.scalarFrame s t) ∧
      (∀ p ∈ Claims.countTable, Claims.clean s [.s a.toNat] →
        ∃ t n, exec (p.1 d a) s = .next t ∧ p.2 (s.me.rd a) n ∧ Claims.wrote s t d (BitVec.ofNat 64 n) ∧ t.me.pc = s.me.pc + 4 ∧ Claims.scalarFrame s t)) ∧
  (∀ (s : State) (d : BitVec 5) (i : BitVec 19), s.me.s.length = 32 →
      (∃ t, exec (.lih d i) s = .next t ∧ Claims.wrote s t d (BitVec.ofInt 64 (i.toInt * 2 ^ 13)) ∧ t.me.pc = s.me.pc + 4 ∧ Claims.scalarFrame s t) ∧
      (∃ t, exec (.auipc d i) s = .next t ∧ Claims.wrote s t d (BitVec.ofInt 64 (s.me.pc.toInt + i.toInt * 2 ^ 13)) ∧
        t.me.pc = s.me.pc + 4 ∧ Claims.scalarFrame s t)) ∧
  (∀ d a : BitVec 5, ∀ i : BitVec 14, ∀ j : BitVec 19,
      (∀ p ∈ [(Instr.addi d a i, 2), (.andi d a i, 3), (.ori d a i, 4), (.xori d a i, 5), (.slti d a i, 6), (.sltiu d a i, 7)],
        encodeNat p.1 = some (p.2 * 2 ^ 24 + d.toNat * 2 ^ 19 + a.toNat * 2 ^ 14 + i.toNat)) ∧
      (∀ p ∈ [(Instr.lih d j, 8), (.auipc d j, 9)], encodeNat p.1 = some (p.2 * 2 ^ 24 + d.toNat * 2 ^ 19 + j.toNat)))

/-- A branch goes to PC + 4 × SignExt(off14, 14) where its condition holds, else to PC + 4, and changes nothing else; JAL and JALR
link and jump; a JALR to an address that is no multiple of 4 raises ALIGN with that address in EVAL and leaves sd. Their words
have the fields that R101 and R102 give. -/
def Obligations.BranchesAndJumps : Prop :=
  (∀ (s : State) (a b : BitVec 5) (o : BitVec 14), Claims.clean s [.s a.toNat, .s b.toNat] →
      let x := s.me.rd a
      let y := s.me.rd b
      let goes (i : Instr) (c : Prop) : Prop := ∃ t, exec i s = .next t ∧
        (c → t.me.pc = s.me.pc + BitVec.ofInt 64 (4 * o.toInt)) ∧ (¬c → t.me.pc = s.me.pc + 4) ∧
        t.me.s = s.me.s ∧ t.me.busy = s.me.busy ∧ t.me.bad = s.me.bad ∧ Claims.scalarFrame s t
      goes (.beq a b o) (x = y) ∧ goes (.bne a b o) (x ≠ y) ∧ goes (.blt a b o) (x.toInt < y.toInt) ∧
        goes (.bge a b o) (y.toInt ≤ x.toInt) ∧ goes (.bltu a b o) (x.toNat < y.toNat) ∧ goes (.bgeu a b o) (y.toNat ≤ x.toNat)) ∧
  (∀ (s : State) (d a : BitVec 5), s.me.s.length = 32 →
      (∀ i : BitVec 19, ∃ t, exec (.jal d i) s = .next t ∧ t.me.pc = s.me.pc + BitVec.ofInt 64 (4 * i.toInt) ∧
        Claims.wrote s t d (s.me.pc + 4) ∧ Claims.scalarFrame s t) ∧
      (∀ i : BitVec 14, Claims.clean s [.s a.toNat] →
        let target := s.me.rd a + i.signExtend 64
        (target.toNat % 4 = 0 → ∃ t, exec (.jalr d a i) s = .next t ∧ t.me.pc = target ∧
          Claims.wrote s t d (s.me.pc + 4) ∧ Claims.scalarFrame s t) ∧
        (target.toNat % 4 ≠ 0 → ∃ t, exec (.jalr d a i) s = .next t ∧ t = s.trap (alignT target) ∧ t.me.s = s.me.s))) ∧
  (∀ a b : BitVec 5, ∀ o : BitVec 14, ∀ p ∈ [(Instr.beq a b o, 0x0A), (.bne a b o, 0x0B), (.blt a b o, 0x0C), (.bge a b o, 0x0D),
        (.bltu a b o, 0x0E), (.bgeu a b o, 0x0F), (.jalr a b o, 0x11)],
      encodeNat p.1 = some (p.2 * 2 ^ 24 + a.toNat * 2 ^ 19 + b.toNat * 2 ^ 14 + o.toNat)) ∧
    (∀ (d : BitVec 5) (i : BitVec 19), encodeNat (.jal d i) = some (0x10 * 2 ^ 24 + d.toNat * 2 ^ 19 + i.toNat))

/-- A scalar load that waits for its value writes it to sd: the bytes that the flow sees at the translated address, once the accesses
that come before have performed and its line is in reach, extended as the instruction says. Nothing else changes; a load stores
nothing. A scalar load issued without waiting for its value leaves its access in the strip buffer, last in program order, and the
flow as it was; the words after it may issue. Rests on R104, R105, R148, R162, R194, R198. Where the spec leaves a point open, it
follows the model's choice of notes/assumptions 14, 77, 83, 85. -/
def Obligations.ScalarLoadResults : Prop :=
  (∀ (s0 : State) (d a : BitVec 5) (i : BitVec 14) (x : Xl), ∀ p ∈ Claims.loadTable,
      s0.ahead = false → s0.stuck true false = false →
      let va := Claims.scalarAddr s0 a i
      let s := s0.beforeLoad va p.2.1
      s.me.s.length = 32 → Claims.clean s [.s a.toNat] → va.toNat % p.2.1 = 0 →
      s.access (s.ctx s.me) va.toNat .r = .ok x → (x.index = true ∨ s.dataBad x.pa = none) →
      ∃ t, exec (p.1 d a i) s0 = .next t ∧
        Claims.wrote s t d (Claims.extended p.2.2 p.2.1 (natLE (s.loadBytes s.me x p.2.1))) ∧
        t.me.pc = s.me.pc + 4 ∧ Claims.flowOnly s t ∧ Claims.scalarFlow s t ∧ Claims.sameBytes s t) ∧
  (∀ (s : State) (d a : BitVec 5) (i : BitVec 14) (x : Xl), ∀ p ∈ Claims.loadTable,
      let va := Claims.scalarAddr s a i
      s.ahead = true → s.replayOf s.me = false → Claims.clean s [.s a.toNat] → va.toNat % p.2.1 = 0 →
      s.access (s.ctx s.me) va.toNat .r = .ok x → x.index = false →
      ∃ t acc, exec (p.1 d a i) s = .next t ∧ t.me.sb = s.me.sb ++ [acc] ∧ acc.load = true ∧ acc.seq = s.me.seq ∧
        acc.addr = x.pa ∧ acc.size = p.2.1 ∧ acc.sext = p.2.2 ∧ acc.dst = d.toNat ∧ acc.key = x.key ∧
        t.me.pc = s.me.pc + 4 ∧ t.me.seq = s.me.seq + 1 ∧ t.me.s = s.me.s ∧
        t.ckpts = ⟨s.me.seq, s.me, none, [], 1, 0, 0⟩ :: s.ckpts ∧
        t.mem = s.mem ∧ t.memKey = s.memKey ∧ t.rest = s.rest ∧ t.net = s.net)

/-- A scalar store leaves one access in the strip buffer, last in program order, that holds exactly its n bytes of S(r) at the
translated address; every other byte reads as before, at its point of service and, where no leaf has its D bit set, through the
flow's own stores; the D bit of the leaf is set. Rests on R104, R198, R203, R397. Where the spec leaves a point open, it follows
the model's choice of notes/assumptions 14. -/
def Obligations.StoreEffects : Prop :=
  ∀ (s0 : State) (r a : BitVec 5) (i : BitVec 14) (x : Xl), ∀ p ∈ Claims.storeTable,
    let va := Claims.scalarAddr s0 a i
    let n := p.2
    let s := s0.fenceFirst va n false
    let u := s.beforeStore (storeTraps r a va n) va
    Claims.clean s [.s a.toNat, .s r.toNat] → va.toNat % n = 0 → x.pa % n = 0 →
    u.access (u.ctx u.me) va.toNat .w = .ok x → u.lostByte ((List.range n).map (fun j => x.pa + j)) = none →
    ∃ t acc, exec (p.1 r a i) s0 = .next t ∧ t.me.pc = s.me.pc + 4 ∧
      t.me = { s.me with sb := s.me.sb ++ [acc], seq := s.me.seq + 1, pc := s.me.pc + 4, convoy := Convoy.none, qBeats := s.me.qBeats + 1 } ∧
      acc.load = false ∧ acc.seq = s.me.seq ∧ acc.key = x.key ∧ acc.addr = x.pa / 8 * 8 ∧
      (∀ j, j < 8 → wbits acc.en (8 * j) 8 = (if x.pa ≤ acc.addr + j ∧ acc.addr + j < x.pa + n then 255 else 0)) ∧
      (∀ j, j < n → wbits acc.data (8 * (x.pa + j - acc.addr)) 8 = wbits (s.me.rd r) (8 * j) 8) ∧
      t.rest = s.rest ∧ t.net = s.net ∧
      (Claims.plainLeaf s va x → ∀ b, ¬Claims.leafByte s va x b → t.mem.get b = s.mem.get b ∧ ∀ key, t.byteAt b key = s.byteAt b key) ∧
      ((∀ b, ¬Claims.leafByte s va x b) → ∀ b key fill, (b < x.pa ∨ x.pa + n ≤ b) →
        t.seenByte t.me t.me.ownStores b key fill = s.seenByte s.me s.me.ownStores b key fill)

/-- The exceptions of a scalar access, an AMO among them (R110), in their order: ALIGN, then what translation or the home refuses (for
an AMO with read, then with write permission), then DATAERR, of the data for a load and an AMO (R105, R110), for a store of a lost
granule that it does not write whole (R427; that a partial store raises it at its word is log 74, DEDUCED); EVAL is the address,
and sd and memory stand. Rests on R105, R110, R427. Where the spec leaves a point open, it follows the model's choice of
notes/assumptions 26, 74. -/
def Obligations.ScalarAccessExceptions : Prop :=
  (∀ (s0 : State) (d a : BitVec 5) (i : BitVec 14), ∀ p ∈ Claims.loadTable, s0.ahead = false → s0.stuck true false = false →
    let va := Claims.scalarAddr s0 a i
    let s := s0.beforeLoad va p.2.1
    Claims.clean s [.s a.toNat] →
    (va.toNat % p.2.1 ≠ 0 → exec (p.1 d a i) s0 = .next (s.trap ⟨5, 0, va, none, 0⟩)) ∧
    (∀ e, va.toNat % p.2.1 = 0 → s.access (s.ctx s.me) va.toNat .r = .error e →
      exec (p.1 d a i) s0 = .next (s.trap ⟨e.1, e.2, va, none, 0⟩)) ∧
    (∀ x sub, va.toNat % p.2.1 = 0 → s.access (s.ctx s.me) va.toNat .r = .ok x → x.index = false →
      s.dataBad x.pa = some sub → exec (p.1 d a i) s0 = .next (s.trap ⟨7, sub, va, none, x.pa⟩))) ∧
  (∀ (s0 : State) (r a : BitVec 5) (i : BitVec 14), ∀ p ∈ Claims.storeTable,
    let va := Claims.scalarAddr s0 a i
    let s := s0.fenceFirst va p.2 false
    let u := s.beforeStore (storeTraps r a va p.2) va
    Claims.clean s [.s a.toNat, .s r.toNat] →
    (va.toNat % p.2 ≠ 0 → exec (p.1 r a i) s0 = .next (s0.trap ⟨5, 0, va, none, 0⟩)) ∧
    (∀ e, va.toNat % p.2 = 0 → u.access (u.ctx u.me) va.toNat .w = .error e →
      exec (p.1 r a i) s0 = .next (u.trap ⟨e.1, e.2, va, none, 0⟩)) ∧
    (∀ x, va.toNat % p.2 = 0 → u.access (u.ctx u.me) va.toNat .w = .ok x →
      u.lostByte ((List.range p.2).map (fun j => x.pa + j)) ≠ none →
      exec (p.1 r a i) s0 = .next (u.trap ⟨7, 1, va, none, x.pa⟩))) ∧
  (∀ (s0 : State) (d a b : BitVec 5) (o : BitVec 2) (sc : BitVec 3) (z : Bool), ∀ p ∈ Claims.amoTable,
    let va := s0.me.rd a
    let n := Claims.amoBytes z
    let s := Claims.amoFirst s0 a z
    Claims.clean s ((Claims.amoRegs d a b p.2.2).map (fun r => .s r.toNat)) →
    (va.toNat % n ≠ 0 → exec (p.1 d a b o sc z) s0 = .next (s0.trap ⟨5, 0, va, none, 0⟩)) ∧
    (∀ e, va.toNat % n = 0 → s.translate (s.ctx s.me) va.toNat .r = .error e →
      exec (p.1 d a b o sc z) s0 = .next (s.trap ⟨e.1, e.2, va, none, 0⟩)) ∧
    (∀ y e, va.toNat % n = 0 → s.translate (s.ctx s.me) va.toNat .r = .ok y → s.access (s.ctx s.me) va.toNat .w = .error e →
      exec (p.1 d a b o sc z) s0 = .next (s.trap ⟨e.1, e.2, va, none, 0⟩)) ∧
    (∀ x y sub, va.toNat % n = 0 → s.access (s.ctx s.me) va.toNat .r = .ok x → s.access (s.ctx s.me) va.toNat .w = .ok y →
      s.ahead = false → x.index = false → s.dataBad x.pa = some sub →
      exec (p.1 d a b o sc z) s0 = .next (s.trap ⟨7, sub, va, none, x.pa⟩)))

/-- Every AMO that meets no exception and has nothing to wait for performs. Where nothing else is under way, sd takes the old value,
sign-extended; the n bytes in memory take the new one, or stay where an AMOCAS finds another value; every other byte of memory
stands, save that the leaf's D bit is set. One that leaves its value for later stands in the strip buffer with its operation, last
in program order, and the words after it may issue. Rests on R106, R107, R108, R109, R110, R198, R201. Where the spec leaves a
point open, it follows the model's choice of notes/assumptions 14, 77, 81, 93. -/
def Obligations.AmoResults : Prop :=
  ∀ (s : State) (d a b : BitVec 5) (o : BitVec 2) (sc : BitVec 3) (z : Bool) (x : Xl), ∀ p ∈ Claims.amoTable,
    Claims.amoMay s d a b z p.2.2 x →
    let n := Claims.amoBytes z
    let va := s.me.rd a
    let u := Claims.amoFirst s a z
    (Claims.amoNow s d a b o z p.2.2 → ∃ t, exec (p.1 d a b o sc z) s = .next t ∧
      (u = s → Claims.calm s → s.me.s.length = 32 → x.pa % n = 0 → x.key < 256 → Claims.plainLeaf s va x →
        (∀ j, j < n → ¬Claims.leafByte s va x (x.pa + j)) →
        (∀ k f, regionOf x.pa ≠ .peer k f) →
        let old := natLE ((List.range n).map (fun j => s.keyByte (x.pa + j) x.key))
        let new := p.2.1 (8 * n) old ((s.me.rd b).toNat % 2 ^ (8 * n)) ((s.me.rd d).toNat % 2 ^ (8 * n))
        Claims.wrote s t d (Claims.extended true n old) ∧ t.me.pc = s.me.pc + 4 ∧
          (∀ j, j < n → t.keyByte (x.pa + j) x.key =
            (match new with | some y => BitVec.ofNat 8 (y / 2 ^ (8 * j)) | none => s.keyByte (x.pa + j) x.key)) ∧
          (∀ c, (c < x.pa ∨ x.pa + n ≤ c) → ¬Claims.leafByte s va x c → t.mem.get c = s.mem.get c))) ∧
    (u.ahead = true → u.replayOf u.me = false → x.index = false → (∃ y, u.access (u.ctx u.me) va.toNat .w = .ok y ∧ y.index = false) →
     ∃ t acc q, exec (p.1 d a b o sc z) s = .next t ∧
      t.me.sb = u.me.sb ++ [acc] ∧ acc.amo = some q ∧ acc.load = true ∧ acc.seq = u.me.seq ∧ acc.addr = x.pa ∧ acc.size = n ∧
      acc.dst = d.toNat ∧ acc.key = x.key ∧ q.rel = o.getLsbD 1 ∧ q.acq = o.getLsbD 0 ∧
      (∀ old, q.kind.op (8 * n) old q.opnd q.expect =
        p.2.1 (8 * n) old ((s.me.rd b).toNat % 2 ^ (8 * n)) ((s.me.rd d).toNat % 2 ^ (8 * n))) ∧
      t.me.pc = u.me.pc + 4 ∧ t.me.seq = u.me.seq + 1 ∧ t.me.s = s.me.s ∧
      (Claims.plainLeaf u va x → ∀ c, ¬Claims.leafByte u va x c → t.mem.get c = u.mem.get c))

/-- A FENCE completes in every state in which EQ is empty or not ordered by it and VQ holds no word that its earlier side selects; it
changes of the flow its pc and the record of FENCEs alone, and of the machine what an acquire drops. In replay mode it orders
nothing; elsewhere its own record stands while something it orders is still under way. With nothing under way it changes nothing.
Elsewhere it waits where it is. Rests on R111, R112, R184, R200. Where the spec leaves a point open, it follows the model's choice
of notes/assumptions 17, 77. -/
def Obligations.FenceCompletes : Prop :=
  ∀ (s : State) (k : BitVec 5) (sc : BitVec 3),
    ((k.getLsbD 4 = false ∨ s.me.eq = []) → s.me.vqHolds k = false →
      ∃ t, exec (.fence k sc) s = .next t ∧ Claims.cacheOnly s t ∧ Claims.paid s t 6000 ∧
        t.me = { s.me with fences := t.me.fences, pc := s.me.pc + 4, convoy := Convoy.none, qBeats := s.me.qBeats + 1 } ∧
        (s.replayOf s.me = true → t.me.fences = s.me.fences ∧ Claims.scalarFrame s t) ∧
        (s.replayOf s.me = false →
          let c : FenceRec := ⟨s.me.seq, k.getLsbD 0, k.getLsbD 1, k.getLsbD 2, k.getLsbD 3, k.getLsbD 4, sc.toNat⟩
          c ∈ t.me.fences ↔ s.fenceWaits s.me c = true) ∧
        (Claims.calm s → s.me.fences = [] → t.me.s = s.me.s ∧ Claims.scalarFrame s t)) ∧
    (k.getLsbD 4 = true → s.me.eq ≠ [] →
      exec (.fence k sc) s = .next { s with me := { s.me with convoy := Convoy.none, qEnd := s.me.qEnd || s.replayOf s.me } }) ∧
    ((k.getLsbD 4 = false ∨ s.me.eq = []) → s.me.vqHolds k = true →
      exec (.fence k sc) s = .next { s with me := { s.me with convoy := Convoy.none } })

/-- CSRRD of every register of R33 that the mode may read gives sd the register's value and changes nothing else; it waits where it is
while the words it drains are there. CSRWR, CSRSET and CSRCLR of every register that the mode may write: sd takes the old value,
the register the new one; a CSRSET or CSRCLR with s0 writes nothing. A write of TVEC changes the whole context's. The exceptions
of the CSR forms: an unlisted number, an access that the mode bars, a write of a read-only register, a VTYPE that R38 refuses;
none of them changes the register or sd. Rests on R33, R34, R35, R38, R39, R113, R114, R184, R369, R370. Where the spec leaves a
point open, it follows the model's choice of notes/assumptions 4, 43. -/
def Obligations.CsrForms : Prop :=
  (∀ (s : State) (d : BitVec 5) (c : BitVec 12), ∀ p ∈ Claims.csrTable, c.toNat = p.1 → s.me.s.length = 32 →
      (Claims.supervisor s ∨ ¬Claims.classSup p.1) →
      (Claims.csrSettled s p.1 →
        ∃ t, exec (.csrrd d c) s = .next t ∧ Claims.wrote s t d (p.2 s) ∧ t.me.pc = s.me.pc + 4 ∧ Claims.scalarFrame s t) ∧
      (¬Claims.csrSettled s p.1 →
        ∃ t, exec (.csrrd d c) s = .next t ∧ t = { s with me := { s.me with convoy := Convoy.none, qEnd := t.me.qEnd } })) ∧
  (∀ (s : State) (d a : BitVec 5) (c : BitVec 12), ∀ p ∈ Claims.csrTable, c.toNat = p.1 → Claims.clean s [.s a.toNat] →
      Claims.csrSettled s p.1 →
      let old := p.2 s
      let done (i : Instr) (x : Word) : Prop := Claims.csrMayWrite s p.1 x → ∃ t, exec i s = .next t ∧
        t.me = Claims.scalarAfter s (fun f => (Claims.csrPut p.1 f x).wr d old) ∧ Claims.flowOnly s t ∧
        (p.1 = 0x064 → t.tenants = (s.tenants.modify s.me.tenant (fun u => { u with spent := u.spent + 6000 })).modify s.me.tenant
          (fun u => { u with tvec := x &&& 0xFFFFFFFFFFFFFFFC })) ∧
        (p.1 ≠ 0x064 → Claims.paid s t 6000)
      done (.csrwr d a c) (s.me.rd a) ∧
        (a ≠ 0 → done (.csrset d a c) (old ||| s.me.rd a) ∧ done (.csrclr d a c) (old &&& ~~~(s.me.rd a))) ∧
        (a = 0 → (Claims.supervisor s ∨ ¬Claims.classSup p.1) → ∀ i ∈ [Instr.csrset d a c, Instr.csrclr d a c],
          ∃ t, exec i s = .next t ∧ t.me = Claims.scalarAfter s (fun f => f.wr d old) ∧ Claims.flowOnly s t ∧ Claims.paid s t 6000)) ∧
  (∀ (s : State) (d a : BitVec 5) (c : BitVec 12), Claims.clean s [.s a.toNat] →
      ((∀ p ∈ Claims.csrTable, p.1 ≠ c.toNat) → ∀ i ∈ [Instr.csrrd d c, .csrwr d a c, .csrset d a c, .csrclr d a c],
        exec i s = .next (s.trap ⟨1, 0x0B, 0, none, 0⟩)) ∧
      (¬Claims.supervisor s → Claims.classSup c.toNat → ∀ i ∈ [Instr.csrrd d c, .csrwr d a c, .csrset d a c, .csrclr d a c],
        exec i s = .next (s.trap ⟨2, 0, 0, none, 0⟩)) ∧
      (¬Claims.supervisor s → Claims.classRs c.toNat → exec (.csrwr d a c) s = .next (s.trap ⟨2, 0, 0, none, 0⟩)) ∧
      (∀ p ∈ Claims.csrTable, p.1 = c.toNat → ¬Claims.classSup p.1 → ¬Claims.classRs p.1 → ¬Claims.classRw p.1 →
        exec (.csrwr d a c) s = .next (s.trap ⟨1, 0x0C, 0, none, 0⟩)) ∧
      (c.toNat = 0x001 → Claims.vtypeReserved (s.me.rd a) → exec (.csrwr d a c) s = .next (s.trap ⟨1, 0x09, 0, none, 0⟩)))

/-- In either mode SYS raises SYSCALL and BRK raises BRK, with the code, zero-extended, in EVAL and PC in EPC; where the trap is
handled the flow stands at the handler in supervisor mode and nothing else has changed. Their words have the fields of R115. What
entry does is R371 and R372 (CAUSE, EPC, EVAL, PSUP, SUP, INTRAP, and the pc from TVEC); that nothing else changes, the words
being charged no price, is log 45 (DEDUCED). Rests on R115, R371, R372. Where the spec leaves a point open, it follows the model's
choice of notes/assumptions 45. -/
def Obligations.SysAndBrkEnterTheHandler : Prop :=
  (∀ (s : State) (c : BitVec 10), Claims.handled s →
      exec (.sys c) s = .next { s with me := Claims.entered s 4 s.me.pc (BitVec.ofNat 64 c.toNat) } ∧
      exec (.brk c) s = .next { s with me := Claims.entered s 3 s.me.pc (BitVec.ofNat 64 c.toNat) }) ∧
  (∀ c : BitVec 10, encodeNat (.sys c) = some (0x1F * 2 ^ 24 + c.toNat * 2 ^ 9 + 1 * 2 ^ 6) ∧
      encodeNat (.brk c) = some (0x1F * 2 ^ 24 + c.toNat * 2 ^ 9 + 3 * 2 ^ 6)) ∧
    (∀ (s : State) (c : BitVec 10), exec (.sys c) s = .next (s.trap ⟨4, 0, BitVec.ofNat 64 c.toNat, none, 0⟩) ∧
      exec (.brk c) s = .next (s.trap ⟨3, 0, BitVec.ofNat 64 c.toNat, none, 0⟩))

/-- Trap entry, for every exception that needs no record in the error log. An unhandled trap fills the tenant's record where V is
clear, counts, raises the tenant's vector 0 and sends the flow to the return sentinel; it writes no register of the flow. ERET in
supervisor mode returns to EPC in the mode before the trap, INTRAP clear, and a convoy starts there whatever the C bit; in user
mode it raises PRIV. Rests on R116, R371, R373, R374. -/
def Obligations.TrapsAndTheirReturn : Prop :=
  (∀ (s : State) (tr : Trap), Claims.handled s → tr.cause ≠ 7 →
      s.trap tr = { s with me := Claims.entered s (BitVec.ofNat 64 (tr.cause + 256 * tr.sub)) (tr.epc.getD s.me.pc) tr.eval }) ∧
  (∀ (s : State) (tr : Trap), ¬Claims.handled s → tr.cause ≠ 7 → s.me.tenant < s.tenants.length →
      let u := s.ten s.me.tenant
      let v := (s.trap tr).ten s.me.tenant
      (s.trap tr).me = { s.me with pc := 0xFFFFFFFFFFFFFFF0, convoy := Convoy.none, rebuilt := false } ∧
        (s.trap tr).net = s.net ++ [s.dev.msi s.me.tenant 0] ∧ v.ucount = min (u.ucount + 1) (2 ^ 32 - 1) ∧
        (u.ucause.getLsbD 63 = true → v.ucause = u.ucause ∧ v.uepc = u.uepc ∧ v.ueval = u.ueval) ∧
        (u.ucause.getLsbD 63 = false →
          v.ucause = BitVec.ofNat 64 (2 ^ 63 + 2 ^ 32 * s.me.key.lflow + (BitVec.ofNat 64 (tr.cause + 256 * tr.sub)).toNat) ∧
          v.uepc = tr.epc.getD s.me.pc ∧ v.ueval = tr.eval) ∧
        (s.trap tr).mem = s.mem ∧ (s.trap tr).rest = s.rest) ∧
  (∀ s : State,
      (Claims.supervisor s → ∃ t, exec .eret s = .next t ∧ Claims.flowOnly s t ∧ Claims.paid s t 6000 ∧
        t.me = { s.me with
          status3 := if s.me.status3.getLsbD 1 then 3 else 0
          ival := s.me.ival + 1
          pc := s.me.epc
          convoy := { Convoy.none with fresh := true }
          qBeats := s.me.qBeats + 1 }) ∧
      (¬Claims.supervisor s → exec .eret s = .next (s.trap ⟨2, 0, 0, none, 0⟩)))

/-- WFE completes where a record or a pre-emption request is there, consuming nothing, and waits elsewhere; in replay mode before its
boundary it only ends the quantum. Rests on R117, R178, R209. Where the spec leaves a point open, it follows the model's choice of
notes/assumptions 14, 25. -/
def Obligations.WfeCompletesOrWaits : Prop :=
  ∀ s : State,
    (Claims.mayGo s → (s.me.events ≠ [] ∨ s.me.preq = true) →
      ∃ t, exec .wfe s = .next t ∧ t.me = { Claims.scalarAfter s id with qGo := false } ∧ Claims.flowOnly s t ∧ Claims.paid s t 6000) ∧
    (Claims.mayGo s → s.me.events = [] → s.me.preq = false →
      exec .wfe s = .next { s with me := { s.me with status := .waiting .wfe, qGo := false, convoy := Convoy.none } }) ∧
    (¬Claims.mayGo s → exec .wfe s = .next { s with me := { s.me with qEnd := true } })

/-- What a flow starts with. Rests on R36, R54. Where the spec leaves a point open, it follows the model's choice of notes/assumptions
4. -/
def Obligations.FlowCreation : Prop :=
  ∀ (k : FlowKey) (l : Loc) (n : Nat),
    let f := Flow.init k l n
    (∀ r, f.rd r = 0) ∧ f.s.length = 32 ∧ f.v = List.replicate 48 0 ∧ f.m = List.replicate 12 0 ∧ f.vl = 0 ∧ f.svp = 0 ∧
      f.vprog = 0 ∧ f.vgnt = 0 ∧ f.vtype = 0x0F20 ∧ f.tags = List.replicate 16 .free

/-- When the bytes at the pc of the flow whose turn it is decode to an instruction that nothing holds back, the step is exec of it,
and then the flow's account of the word; an access that has to wait for the host's answer to a snoop sends that alone. A word that
is held back stays where it is, and changes the open convoy and the end of the quantum alone. Where earlier words have issued
without their values it runs ahead of them or stays. Bytes that are no instruction raise ILLEGAL with the subcode of the first
failing check. Rests on R74, R79, R82, R84, R103, R105, R148, R209. Where the spec leaves a point open, it follows the model's
choice of notes/assumptions 14, 24. -/
def Obligations.StepRunsTheDecodedWord : Prop :=
  ∀ (s0 s : State) (bs : List Byte), Claims.atWord s0 s → Claims.fetches s bs →
    (∀ i rest, decodeBytes bs = .ok (i, rest) →
      (Claims.mayIssue s i → Claims.nothingAhead s →
        step s0 = s.snoopGate (match exec i s with
          | .next t => .next ((s.noteCost t).endWord s.me)
          | .fault r => .fault r
          | .refused r => .refused r)) ∧
      (¬Claims.mayIssue s i → ∃ c q, step s0 = .next { s with me := { s.me with convoy := c, qEnd := q } } ∧
        (s.replayOf s.me = false → q = s.me.qEnd)) ∧
      (Claims.mayIssue s i → ¬Claims.nothingAhead s → ∀ t, exec i s = .next t → ∃ u, step s0 = s.snoopGate (.next u) ∧
        ((∃ ps c, u = State.endWord { t with ckpts := ps } s.me ∨
          u = State.endWord { s with ckpts := ps, me := { s.me with convoy := c } } s.me)))) ∧
    (∀ e, decodeBytes bs = .error e → Claims.nothingAhead s →
      step s0 = s.snoopGate (.next ((s.trap ⟨1, Claims.illegalSub e, 0, none, 0⟩).endWord s.me))) ∧
    (∀ (t : State) (b : Flow), Claims.endsAs t (t.endWord b)) ∧ Claims.gated s ∧
    (∀ t : State, (∃ ps, s.noteCost t = { t with ckpts := ps }) ∧ ((∀ p ∈ t.ckpts, p.before.key ≠ s.me.key) → s.noteCost t = t))

/-- The words that the spec writes out decode to the instructions it says they are, beside the rule that works it out: R91, R110,
R111, R115, R116, R117, R170, R172, R245, R253, R257, R281, R312, R330, R388, and the opening example of
spec/10_program_compaction.md. Rests on R91, R110, R111, R115, R116, R117, R170, R172, R245, R253, R257, R281, R312, R330, R388. -/
def Obligations.WorkedWordsDecode : Prop :=
  ∀ p ∈ Claims.wordTable, decodeTableWord 32 p.1 = some p.2

/-- The encoder's word of every well-formed instruction fits 32 bits, and the decoder reads the instruction back from its bytes,
leaving what follows. Rests on R74, R75, R76, R77, R78, R79, R80, R81, R82, R83, R84, R85, R86, R87, R88, R89, R90, R91. -/
def Obligations.EncodeThenDecode : Prop :=
  ∀ (i : Instr) (w : Nat) (rest : List Byte), i.wf = true → encodeNat i = some w →
    w < 2 ^ 32 ∧ decodeBytes (wordBytes w ++ rest) = .ok (i, rest)

/-- Whatever the decoder reads is well-formed and has an encoding. Rests on R74, R84. -/
def Obligations.DecodedIsWellFormed : Prop :=
  ∀ (bs rest : List Byte) (i : Instr), decodeBytes bs = .ok (i, rest) → i.wf = true ∧ (encodeNat i).isSome = true

/-- The memory (R212 to R220), and the record of the key each byte was written under (R417), keep their canonical form in every step
of the machine, whatever moves. The canonical form is the model's own; what it stands for are bytes at physical addresses. Rests
on R212, R213, R214, R215, R216, R217, R218, R219, R220, R417. Where the spec leaves a point open, it follows the model's choice
of notes/assumptions 1, 2. -/
def Obligations.StepKeepsMemoryCanonical : Prop :=
  ∀ s t : State, s.memWf → step s = .next t → t.memWf

/-- Every step keeps the sizes of every flow's register files and tables: 32 scalar, 48 vector and 12 mask registers, 16 landing tags,
16 accumulator slots, and 16 copy tags with the scopes of their copies. Rests on R30, R31, R32, R51, R259, R283. -/
def Obligations.StepKeepsFlowShape : Prop :=
  ∀ s t : State, Claims.shapes s → step s = .next t → Claims.shapes t

/-- After reset the memory lists nothing, every flow has its shape, no tenant is live, no launch stands and nothing is under way;
power is applied. Where the spec leaves a point open, it follows the model's choice of notes/assumptions 1, 4, 6. -/
def Obligations.ResetState : Prop :=
  State.reset.memWf ∧ Claims.shapes State.reset ∧ (∀ t ∈ State.reset.tenants, t.live = false) ∧ State.reset.tenants.length = 17 ∧
    State.reset.launches = [] ∧ State.reset.tasks = [] ∧ State.reset.net = [] ∧ State.reset.jobs = [] ∧
    State.reset.me.status = .free ∧ State.reset.dev.power = true ∧ (∀ a, State.reset.mem.get a = 0) ∧
    State.reset.me.vtype = 0x0F20 ∧ State.reset.me.vl = 0 ∧ State.reset.me.status3 = 0

/-- When a vector-class word raises CONVOY, and the open convoy after one that does not. The exceptions of a vector word in their
order, by the example of every two-source form: CONVOY, TYPE, GROUP, then DATAERR of the first bad register it reads, in the order
vs1, vs2, mask. Rests on R79, R80, R81, R82, R83, R84, R443. Where the spec leaves a point open, it follows the model's choice of
notes/assumptions 22, 26, 27, 91. -/
def Obligations.ConvoysAndVectorExceptions : Prop :=
  (∀ (f : Flow) (c : Bool) (ps : List Pipe),
      let n (q : Pipe) := ps.count q
      let o := if c = true ∨ f.convoy.fresh = true then Convoy.none else f.convoy
      (f.convoyBad c ps = false ↔ c = true ∨ f.convoy.fresh = true ∨
        (f.convoy.isOpen = true ∧ f.convoy.words < 6 ∧ f.convoy.a + n .a ≤ 2 ∧ f.convoy.l + n .l ≤ 1 ∧ f.convoy.s + n .s ≤ 1 ∧
          f.convoy.p + n .p ≤ 1 ∧ f.convoy.x + n .x ≤ 1)) ∧
      f.convoyAfter c ps true = Convoy.none ∧
      (f.convoyBad c ps = false → f.convoyAfter c ps false =
        ⟨true, false, o.words + 1, o.a + n .a, o.l + n .l, o.s + n .s, o.p + n .p, o.x + n .x, o.feed⟩)) ∧
  (∀ (s : State) (c : Bool) (d a b : BitVec 6) (m : BitVec 4), ∀ p ∈ Claims.elem2Table,
      let i := p.1 c d a b m
      (s.me.convoyBad c [.a] = true → exec i s = .next (s.trap ⟨1, 0x06, 0, none, 0⟩)) ∧
      (s.me.convoyBad c [.a] = false → ¬p.2.1 s.me.fmtc → exec i s = .next (s.trap ⟨1, 0x07, 0, none, 0⟩)) ∧
      (s.me.convoyBad c [.a] = false → p.2.1 s.me.fmtc → (∃ v ∈ [d, a, b], v.toNat % s.me.grp ≠ 0) →
        exec i s = .next (s.trap ⟨1, 0x08, 0, none, 0⟩)) ∧
      (∀ r, s.me.convoyBad c [.a] = false → p.2.1 s.me.fmtc → (∀ v ∈ [d, a, b], v.toNat % s.me.grp = 0) → s.me.vl ≠ 0 →
        (Claims.vrefs s a ++ Claims.vrefs s b ++ Claims.mrefs m).find? (fun r => decide (r ∈ s.me.bad)) = some r →
        exec i s = .next (s.trap ⟨7, 4, BitVec.ofNat 64 r.num, none, 0⟩)))

/-- Every element-wise form completes; the destination group takes its results through mask, policy and active set, and nothing else
changes. Rests on R119, R125, R126, R127, R128, R129, R130. Where the spec leaves a point open, it follows the model's choice of
notes/assumptions 18, 20, 28, 47. -/
def Obligations.ElementwiseResults : Prop :=
  ∀ (s : State) (c : Bool) (d a b : BitVec 6) (m : BitVec 4),
    (∀ p ∈ Claims.elem2Table, Claims.vecMay s c [.a] p.2.1 [d, a, b] (Claims.vrefs s a ++ Claims.vrefs s b ++ Claims.mrefs m) →
      ∃ t, exec (p.1 c d a b m) s = .next t ∧ Claims.vecFrame s t c [.a] false ∧
        Claims.toGroup s t d m (fun i => p.2.2 s.me (Claims.el s a i) (Claims.el s b i))) ∧
    (∀ p ∈ Claims.elemITable, Claims.vecMay s c [.a] p.2.1 [d, a] (Claims.vrefs s a ++ Claims.mrefs m) →
      ∃ t, exec (p.1 c d a b m) s = .next t ∧ Claims.vecFrame s t c [.a] false ∧
        Claims.toGroup s t d m (fun i => p.2.2 s.me (Claims.el s a i) b)) ∧
    (∀ p ∈ Claims.elem1Table, Claims.vecMay s c [.a] p.2.1 [d, a] (Claims.vrefs s a ++ Claims.mrefs m) →
      ∃ t, exec (p.1 c d a m) s = .next t ∧ Claims.vecFrame s t c [.a] false ∧
        Claims.toGroup s t d m (fun i => p.2.2 s.me (Claims.el s a i))) ∧
    (∀ p ∈ Claims.elem3Table,
      Claims.vecMay s c [.a] Claims.tyN [d, a, b] (Claims.vrefs s a ++ Claims.vrefs s b ++ Claims.vrefs s d ++ Claims.mrefs m) →
      ∃ t, exec (p.1 c d a b m) s = .next t ∧ Claims.vecFrame s t c [.a] false ∧
        Claims.toGroup s t d m (fun i => Claims.cv s.me (p.2 s.me (Claims.vl s.me (Claims.el s a i)) (Claims.vl s.me (Claims.el s b i))
          (Claims.vl s.me (Claims.el s d i))))) ∧
    (∀ p ∈ Claims.elemXTable, ∀ x : BitVec 6, Claims.vecMay s c [.a] Claims.tyN [d, a, b] (Claims.vrefs s a ++ Claims.vrefs s b) →
      ∃ t, exec (p.1 c d a b x) s = .next t ∧ Claims.vecFrame s t c [.a] false ∧
        Claims.toGroup s t d 15 (fun i => p.2.1 s.me (Claims.el s a i)
          (Claims.lane s b x (if x.getLsbD 5 then p.2.2 s.me else 0) i)))

/-- In an integer format of w bits the converted sum, difference and product of two codes are the integer results, wrapped to w bits,
or with SAT set the nearest value of the format. In every floating format, plain or block-scaled, converting the exact value of a
finite code gives the code back, whatever the rounding mode: nothing is lost where a value fits. The estimates of 1/a and
1/sqrt(a) hold 8 significant bits, cut toward zero. Rests on R56, R57, R58, R62, R125, R129. Where the spec leaves a point open,
it follows the model's choice of notes/assumptions 20. -/
def Obligations.ArithmeticOfFormats : Prop :=
  (∀ (f : Flow) (w : Nat) (sg : Bool) (x y : Nat), Claims.tyI f.fmtc → efmt f.fmtc = .int w sg → x < 2 ^ w → y < 2 ^ w →
      let a := Claims.asInt f x
      let b := Claims.asInt f y
      let lo : Int := if sg then -2 ^ (w - 1) else 0
      let hi : Int := if sg then 2 ^ (w - 1) - 1 else 2 ^ w - 1
      let fit (n : Int) (r : Nat) : Prop := r < 2 ^ w ∧
        (f.sat = false → ((r : Int) - n) % 2 ^ w = 0) ∧
        (f.sat = true → Claims.asInt f r = min (max n lo) hi)
      f.ew = w ∧ fit (a + b) (Claims.cv f ((Claims.vl f x).add f.rm (Claims.vl f y))) ∧
        fit (a - b) (Claims.cv f ((Claims.vl f x).add f.rm (Claims.vl f y).neg)) ∧
        fit (a * b) (Claims.cv f ((Claims.vl f x).mul (Claims.vl f y))) ∧
        fit (-a) (Claims.cv f (Claims.vl f x).neg)) ∧
  (∀ (c x : Nat) (rm : RMode) (sat : Bool) (f : FFmt), efmt c = .flt f → x < 2 ^ (1 + f.eb + f.mb) →
      (∃ n m e st, f.val (x * 2 ^ f.low) = .fin n m e st) → convert c rm sat (f.val (x * 2 ^ f.low)) = x * 2 ^ f.low) ∧
  (∀ (n st : Bool) (m : Nat) (e : Int), m ≠ 0 →
      (∃ q k, (FVal.fin n m e st).recip8 = .fin n q k false ∧ 128 ≤ q ∧ q < 256 ∧ k + e ≤ 0 ∧
        q * m ≤ 2 ^ (-(k + e)).toNat ∧ 2 ^ (-(k + e)).toNat < (q + 1) * m) ∧
      (∃ q k, (FVal.fin false m e st).rsqrt8 = .fin false q k false ∧ 128 ≤ q ∧ q < 256 ∧ 2 * k + e ≤ 0 ∧
        q ^ 2 * m ≤ 2 ^ (-(2 * k + e)).toNat ∧ 2 ^ (-(2 * k + e)).toNat < (q + 1) ^ 2 * m))

/-- The conversions, VQUANT and VDEQ complete: exact values of the source format, with the block scales that SVP names, converted
once; VQUANT also writes one scale byte per block to SVP's register. Rests on R131, R132, R133. Where the spec leaves a point
open, it follows the model's choice of notes/assumptions 18. -/
def Obligations.ConversionResults : Prop :=
  ∀ (s : State) (c : Bool) (d a y : BitVec 6) (m : BitVec 4),
    let ws := fwidth y.toNat
    (∀ p ∈ Claims.cvtTable, p.2 ws s.me.ew → Claims.srcOk s a ws →
      Claims.vecMay s c [.a] Claims.tyN [d] (Claims.srefs s a ws ++ Claims.mrefs m) →
      ∃ t, exec (p.1 c d a y m) s = .next t ∧ Claims.vecFrame s t c [.a] false ∧
        Claims.toGroup s t d m (fun i => Claims.cv s.me ((efmt y.toNat).val (s.me.elem a.toNat (Claims.srcGrp s ws) ws i)))) ∧
    (∀ p ∈ Claims.cvtTable, s.me.convoyBad c [.a] = false → Claims.tyN s.me.fmtc → d.toNat % s.me.grp = 0 → ¬p.2 ws s.me.ew →
      exec (p.1 c d a y m) s = .next (s.trap ⟨1, 0x03, 0, none, 0⟩)) ∧
    (Claims.srcOk s a ws → Claims.svpOk s y.toNat →
      Claims.vecMay s c [.a] Claims.tyN [d] (Claims.srefs s a ws ++ Claims.mrefs m ++
        (if 15 ≤ y.toNat ∧ y.toNat ≤ 27 then [.v (s.me.svp.toNat % 64)] else [])) →
      ∃ t, exec (.vdeq c d a y m) s = .next t ∧ Claims.vecFrame s t c [.a] false ∧
        Claims.toGroup s t d m (fun i => Claims.cv s.me
          (elemVal y.toNat (fun j => s.me.elem a.toNat (Claims.srcGrp s ws) ws j) s.me.scaleByte i))) ∧
    (Claims.srcOk s a ws → Claims.svpOk s s.me.fmtc → (s.me.fmtc = 14 ∨ s.me.svp.toNat % 64 < d.toNat ∨ d.toNat + s.me.grp ≤ s.me.svp.toNat % 64) →
      Claims.vecMay s c [.a] Claims.tyS [d] (Claims.srefs s a ws) →
      ∃ t, exec (.vquant c d a y) s = .next t ∧ Claims.vecFrame s t c [.a] false ∧ t.me.m = s.me.m ∧ t.me.busy = s.me.busy ∧
        (∀ r, (r < d.toNat ∨ d.toNat + s.me.grp ≤ r) → (r ≠ s.me.svp.toNat % 64 ∨ s.me.fmtc = 14) → t.me.v[r]? = s.me.v[r]?) ∧
        (let val (i : Nat) : FVal := elemVal y.toNat (fun j => s.me.elem a.toNat (Claims.srcGrp s ws) ws j) s.me.scaleByte i
         let block (i : Nat) : List FVal :=
           (List.range (min 64 (s.me.vlN - i / 64 * 64))).map (fun k => val (i / 64 * 64 + k))
         let q (i : Nat) := quantBlock s.me.fmtc s.me.rm s.me.sat (block i)
         Claims.groupTakes s.me t.me d.toNat s.me.ew 15 (fun i => (q i).2.getD (i % 64) 0) ∧
         (s.me.fmtc ≠ 14 → s.me.vl ≠ 0 → s.me.v.length = 48 → s.me.view.1 + s.me.view.2 ≤ 16384 → s.me.vlN * 4 ≤ 8 * s.me.view.2 →
           ∀ i, i < s.me.vlN → t.me.scaleByte (i / 64) = (q i).1)))

/-- Compares and mask logic write the mask register, zero from VL up. MPOP, MFIRST and the reductions give the scalar register their
result: the count and the lowest of the positions below VL set in both the mask and the active set, and the tree over the
elements. Rests on R32, R69, R134, R135, R136, R145, R148, R151. Where the spec leaves a point open, it follows the model's choice
of notes/assumptions 18, 23. -/
def Obligations.MaskAndScalarResults : Prop :=
  (∀ (s : State) (c : Bool) (d a b : BitVec 6) (m : BitVec 4),
      (∀ p ∈ Claims.cmpTable, Claims.vecMay s c [.a] Claims.tyN [a, b] (Claims.vrefs s a ++ Claims.vrefs s b ++ Claims.mrefs m) →
        ∃ t, exec (p.1 c d a b m) s = .next t ∧ Claims.vecFrame s t c [.a] false ∧
          Claims.toMask s t d m (fun i => p.2 (Claims.vl s.me (Claims.el s a i)) (Claims.vl s.me (Claims.el s b i)))) ∧
      (∀ p ∈ Claims.cmpiTable, Claims.vecMay s c [.a] Claims.tyN [a] (Claims.vrefs s a ++ Claims.mrefs m) →
        ∃ t, exec (p.1 c d a b m) s = .next t ∧ Claims.vecFrame s t c [.a] false ∧
          Claims.toMask s t d m (fun i => p.2 (Claims.vl s.me (Claims.el s a i)) (.ofInt b.toInt))) ∧
      (∀ p ∈ Claims.mlogTable, Claims.vecMay s c [.p] Claims.tyAny [] [.m a.toNat, .m b.toNat] →
        ∃ t, exec (p.1 c d a b) s = .next t ∧ Claims.vecFrame s t c [.p] false ∧
          Claims.toMask s t d 15 (fun i => p.2 (Claims.mbit s a i) (Claims.mbit s b i)))) ∧
  (∀ (s : State) (c : Bool) (d a : BitVec 6) (m : BitVec 4),
      let live := Claims.places s (fun i => Claims.mbit s a i && Claims.active s.me i)
      (Claims.vecMay s c [.p] Claims.tyAny [] [.m a.toNat] →
        (∃ t, exec (.mpop c d a) s = .next t ∧ Claims.vecFrame s t c [.p] true ∧ Claims.toScalar s t (s5 d) (BitVec.ofNat 64 live.length)) ∧
        (∃ t, exec (.mfirst c d a) s = .next t ∧ Claims.vecFrame s t c [.p] false ∧
          Claims.toScalar s t (s5 d) (match live with | [] => BitVec.ofNat 64 (2 ^ 64 - 1) | i :: _ => BitVec.ofNat 64 i))) ∧
      (∀ p ∈ Claims.redTable, Claims.vecMay s c [.a] p.2.1 [a] (Claims.vrefs s a ++ Claims.mrefs m) →
        ∃ t, exec (p.1 c d a m) s = .next t ∧ Claims.vecFrame s t c [.a] true ∧
          Claims.toScalar s t (s5 d) (Claims.redWide s.me
            (Claims.treeOf (p.2.2.1 s.me) (p.2.2.2 s.me) (Claims.taken s a m (p.2.2.2 s.me)) s.me.vlN))))

/-- VMERGE, VID, the permutations, VBCAST, VMOV and the exchange of a flow with itself. VXLANE with the flow's own number as partner
copies its group at once, in a `.par` loop the slice of its copy; with another it waits, its convoy open, for the partner's word
of the same count; its wait begins once the convoys before its own have ended. Rests on R17, R79, R130, R137, R138, R139, R140,
R141, R142, R143, R144, R171. Where the spec leaves a point open, it follows the model's choice of notes/assumptions 18, 29. -/
def Obligations.PermutationResults : Prop :=
  (∀ (s : State) (c : Bool) (d a b : BitVec 6) (m : BitVec 4),
      let n := s.me.vlN
      let k := (s.me.rd (s5 b)).toNat
      let sel := Claims.places s (Claims.chosen s m)
      (Claims.vecMay s c [.a] Claims.tyD [d, a, b] (Claims.vrefs s a ++ Claims.vrefs s b ++ Claims.mrefs m) → Claims.svpOk s s.me.fmtc →
        ∃ t, exec (.vmerge c d a b m) s = .next t ∧ Claims.vecFrame s t c [.a] false ∧
          Claims.toGroup s t d 15 (fun i => if Claims.picks s.me m i then Claims.el s a i else Claims.el s b i)) ∧
      (Claims.vecMay s c [.a] Claims.tyI [d] (Claims.mrefs m) →
        ∃ t, exec (.vid c d m) s = .next t ∧ Claims.vecFrame s t c [.a] false ∧
          Claims.toGroup s t d m (fun i => convert s.me.fmtc .rne s.me.sat (.ofInt i))) ∧
      (Claims.vecMay s c [.p] Claims.tyI [d] (.m a.toNat :: Claims.mrefs m) →
        ∃ t, exec (.viota c d a m) s = .next t ∧ Claims.vecFrame s t c [.p] false ∧
          Claims.toGroup s t d m (fun i => convert s.me.fmtc .rne s.me.sat
            (.ofInt ((List.range i).filter (fun j => Claims.mbit s a j)).length))) ∧
      (Claims.permMay s c [d, a] (Claims.vrefs s a ++ Claims.mrefs m) →
        (∃ t, exec (.vcompress c d a b m) s = .next t ∧ Claims.vecFrame s t c [.p] true ∧
          Claims.groupTakes s.me t.me d.toNat s.me.ew 15 (fun i => (sel.map (Claims.el s a)).getD i 0) ∧
          Claims.vOnly s.me t.me d.toNat s.me.grp ∧ t.me.m = s.me.m ∧ Claims.wrote s t (s5 b) (BitVec.ofNat 64 sel.length)) ∧
        (∃ t, exec (.vexpand c d a m) s = .next t ∧ Claims.vecFrame s t c [.p] false ∧
          Claims.toGroup s t d m (fun i => if Claims.chosen s m i then Claims.el s a ((List.range i).filter (Claims.chosen s m)).length else 0)) ∧
        (∃ t, exec (.vmov c d a b m) s = .next t ∧ Claims.vecFrame s t c [.p] false ∧ Claims.toGroup s t d m (Claims.lane s a b 0))) ∧
      (Claims.permMay s c [d, a, b] (Claims.vrefs s a ++ Claims.vrefs s b ++ Claims.mrefs m) →
        ∃ t, exec (.vperm c d a b m) s = .next t ∧ Claims.vecFrame s t c [.p] false ∧
          Claims.toGroup s t d m (fun i => if Claims.el s b i < n then Claims.el s a (Claims.el s b i) else 0)) ∧
      (Claims.permMay s c [d, a] (Claims.vrefs s a ++ [.s (s5 b).toNat] ++ Claims.mrefs m) →
        (∃ t, exec (.vslup c d a b m) s = .next t ∧ Claims.vecFrame s t c [.p] false ∧
          Claims.toGroup s t d m (fun i => if k ≤ i then Claims.el s a (i - k) else 0)) ∧
        (∃ t, exec (.vsldn c d a b m) s = .next t ∧ Claims.vecFrame s t c [.p] false ∧
          Claims.toGroup s t d m (fun i => if i + k < n then Claims.el s a (i + k) else 0))) ∧
      (Claims.permMay s c [d] ([.s (s5 b).toNat] ++ Claims.mrefs m) →
        ∃ t, exec (.vbcast c d b m) s = .next t ∧ Claims.vecFrame s t c [.p] false ∧ Claims.toGroup s t d m (fun _ => k))) ∧
  (∀ (s : State) (c : Bool) (d a r : BitVec 6),
      Claims.permMay s c [d, a] (Claims.vrefs s a ++ [.s (s5 r).toNat]) →
      let p := (s.me.rd (s5 r)).toNat % 4096
      (p = s.me.key.lflow → ∃ t, exec (.vxlane c d a r) s = .next t ∧
        t = { s with me := t.me, launches := t.launches } ∧ t.me.pc = s.me.pc + 4 ∧ t.me.convoy = s.me.convoyAfter c [.p] false ∧
        ((s.me.par = true → s.me.granted ≠ 0) → Claims.toGroup s t d 15 (Claims.el s a))) ∧
      (p ≠ s.me.key.lflow → ¬Claims.convoysOver s c → ∃ cv, exec (.vxlane c d a r) s = .next { s with me := { s.me with convoy := cv } }) ∧
      (p ≠ s.me.key.lflow → Claims.convoysOver s c → ∃ t n, exec (.vxlane c d a r) s = .next t ∧ t = { s with me := t.me, launches := t.launches } ∧
        t.me = { s.me with
          convoy := s.me.convoyAfter c [.p] false
          vprog := s.me.vprog &&& 0xFFFFFFFF7FFFFFFF
          status := .waiting (.vxlane p n d.toNat a.toNat) }))

/-- Scans, folds and the ranking of value-index pairs. Rests on R70, R71, R146, R147, R149. Where the spec leaves a point open, it
follows the model's choice of notes/assumptions 18, 28, 47. -/
def Obligations.ScanFoldAndRankResults : Prop :=
  ∀ (s : State) (c : Bool) (d a : BitVec 6) (m : BitVec 4),
    (∀ p ∈ Claims.scanTable, Claims.vecMay s c [.a] Claims.tyN [d, a] (Claims.vrefs s a ++ Claims.mrefs m) →
      let x := Claims.taken s a m (p.2.2.1 s.me)
      ∃ t, exec (p.1 c d a m) s = .next t ∧ Claims.vecFrame s t c [.a] false ∧
        Claims.toGroup s t d m (if p.2.2.2 then Claims.runningX (p.2.1 s.me) (p.2.2.1 s.me) x else Claims.running (p.2.1 s.me) x)) ∧
    (∀ p ∈ Claims.foldTable, ∀ j : BitVec 6, Claims.vecMay s c [.a] Claims.tyN [d, a] (Claims.vrefs s a) →
      let x := Claims.taken s a 15 (p.2.2 s.me)
      let n := s.me.vlN
      ∃ t, exec (p.1 c d a j) s = .next t ∧ Claims.vecFrame s t c [.a] true ∧
        Claims.toGroup s t d 15 (fun i => if i < 2 ^ j.toNat then Claims.foldPassed (p.2.1 s.me) x n (2 ^ j.toNat) (n + 1) 0 i else 0)) ∧
    (let g := s.me.grp
     let rs := (List.range (2 * g)).map (fun k => RegRef.v (d.toNat + k)) ++ (List.range (2 * g)).map (fun k => RegRef.v (a.toNat + k))
     Claims.vecMay s c [.a] Claims.tyN [d, a] (rs ++ Claims.mrefs m) → d.toNat + 2 * g ≤ 48 → a.toNat + 2 * g ≤ 48 →
      ∃ t, exec (.vcsx c d a m) s = .next t ∧ Claims.vecFrame s t c [.a] false ∧ t.me.m = s.me.m ∧ t.me.busy = s.me.busy ∧
        (∀ r, (r < d.toNat ∨ d.toNat + 2 * g ≤ r) → (r < a.toNat ∨ a.toNat + 2 * g ≤ r) → t.me.v[r]? = s.me.v[r]?) ∧
        ∀ v ∈ [d.toNat, d.toNat + g, a.toNat, a.toNat + g],
          Claims.groupTakes s.me t.me v s.me.ew m (Claims.csxAt s d a v))

/-- SETVL raises ENERGY in overrun with ENTRAP, once a window, whatever VL is (log 107). Else, outside a loop, with a grant to be had,
sets VL to the smaller of its request and VLMAX under the new grant, gives it to sd, and re-forms the registers; with none to be
had it waits; a request of 0 keeps the grant. It takes its place in VQ, and stalls while that is full. SETVT in both forms and
SETSV complete: VTYPE takes the value and VL is lowered to its VLMAX; SVP takes a register number or is switched off. Rests on
R38, R39, R42, R50, R122, R123, R124, R183, R185, R186, R211, R366. Where the spec leaves a point open, it follows the model's
choice of notes/assumptions 25, 77, 107. -/
def Obligations.GrantsAndVectorConfiguration : Prop :=
  (∀ (s : State) (c : Bool) (d a : BitVec 5), s.me.convoyBad c [] = false → (s.me.vl = 0 ∨ Claims.clean s [.s a.toNat]) → s.me.loop = none →
      (s.energyDue = true → exec (.setvl c d a) s =
        .next (State.trap { s with me := { s.me with enTrapped := true } } ⟨0x0E, 1, BitVec.ofNat 64 ((s.ten s.me.tenant).spent / 10 ^ 9), none, 0⟩)) ∧
      (s.energyDue = false → s.me.preemptible = false → s.me.s.length = 32 →
      let n := (s.me.rd a).toNat
      let done (t : State) (f : Flow) : Prop := t = { s with me := t.me } ∧ t.me.vq.length = s.me.vq.length + 1 ∧
        t.me = { f with s := t.me.s, busy := t.me.busy, bad := t.me.bad, vl := t.me.vl, avl := s.me.rd a, skipPoint := false
                        ival := s.me.ival + 1, pc := s.me.pc + 4, convoy := Convoy.none, vprog := s.me.vprog &&& 0xFFFFFFFF7FFFFFFF
                        vq := t.me.vq }
      (n = 0 → s.me.vq.length < 32 → ∃ t, exec (.setvl c d a) s = .next t ∧ done t s.me ∧ t.me.vl = 0 ∧ Claims.wrote s t d 0) ∧
      (n ≠ 0 → s.grantCap s.me ≠ 0 → s.me.vq.length < 32 → ∃ t g, exec (.setvl c d a) s = .next t ∧ done t { s.me with v := t.me.v, vgnt := g } ∧
        Claims.isGrant s (Claims.lanesFor s n) g ∧ Claims.reformed s.me g t.me.v ∧
        t.me.vl.toNat = min n (vlmaxOf (Claims.lanesFor s n) s.me.grp s.me.fmtc) % 65536 ∧
        Claims.wrote s t d (BitVec.ofNat 64 (min n (vlmaxOf (Claims.lanesFor s n) s.me.grp s.me.fmtc)))) ∧
      (n ≠ 0 → s.grantCap s.me = 0 →
        exec (.setvl c d a) s = .next { s with me := { s.me with status := .waiting (.grant false) } }) ∧
      (32 ≤ s.me.vq.length → n = 0 ∨ s.grantCap s.me ≠ 0 → exec (.setvl c d a) s = .next s))) ∧
  (∀ (s : State) (c : Bool), s.me.convoyBad c [.p] = false → s.me.vq.length < 32 →
      let set (x : Word) (i : Instr) : Prop := ¬Claims.vtypeReserved x → (s.me.loop = none ∨ ({ s.me with vtype := x } : Flow).vlmax = s.me.vlmax) →
        ∃ t, exec i s = .next t ∧ t = { s with me := t.me } ∧
          t.me = { Claims.csrPut 0x001 s.me x with pc := s.me.pc + 4, convoy := s.me.convoyAfter c [.p] false
                                                   vprog := s.me.vprog &&& 0xFFFFFFFF7FFFFFFF, vq := t.me.vq }
      (∀ x : BitVec 16, set (x.setWidth 64) (.setvt c x)) ∧
      (∀ a : BitVec 5, (s.me.vl = 0 ∨ Claims.clean s [.s a.toNat]) → set (s.me.rd a) (.setvtReg c a)) ∧
      (∀ v : BitVec 6, ∃ t, exec (.setsv c v) s = .next t ∧ t = { s with me := t.me } ∧
        t.me = { s.me with svp := BitVec.ofNat 64 (64 + v.toNat), pc := s.me.pc + 4, convoy := s.me.convoyAfter c [.p] false
                           vprog := s.me.vprog &&& 0xFFFFFFFF7FFFFFFF, vq := t.me.vq }) ∧
      (∃ t, exec (.setsvOff c) s = .next t ∧ t = { s with me := t.me } ∧
        t.me = { s.me with svp := 0, pc := s.me.pc + 4, convoy := s.me.convoyAfter c [.p] false
                           vprog := s.me.vprog &&& 0xFFFFFFFF7FFFFFFF, vq := t.me.vq }))

/-- The vector loads complete: every selected position from the start position on takes the bits at its address; lower positions and
memory stand. One that leaves its values for later has a load in the strip buffer for every word of its elements, and its
registers as they were. VLDW converts each position's code of a narrower source, times its block's scale byte for a scaled source,
once to VTYPE; without `.mx` the group takes the results, with it the matrix feed does, marked with the register. Rests on R43,
R66, R105, R152, R153, R155, R156, R157, R159, R161, R203, R211. Where the spec leaves a point open, it follows the model's choice
of notes/assumptions 14, 16, 18. -/
def Obligations.VectorLoadResults : Prop :=
  (∀ (s0 : State) (c : Bool) (d : BitVec 6) (b st : BitVec 5) (m : BitVec 4) (o : BitVec 3) (x : Nat → Nat),
      let base := (s0.me.rd b).toNat
      let may (rs : List RegRef) (stride : Option Word) : Prop :=
        Claims.vecMay s0 c [.l] Claims.tyD [d] (rs ++ Claims.mrefs m) ∧ Claims.svpOkMem s0 ∧ Claims.vecAligned s0 s0.me.ew (s0.me.rd b) stride
      let done (i : Instr) (a : VAddr) : Prop :=
        let s := Claims.inReach s0 (plainRead a) m
        Claims.readsNow s0 → Claims.readsAll s m (a.bitAddr s.me.ew) s.me.ew x →
          ∃ t, exec i s0 = .next t ∧ Claims.loaded s t c [.l] d m x
      let later (i : Instr) (a : VAddr) : Prop :=
        s0.ahead = true → s0.stuck true false = false → s0.replayOf s0.me = false →
        Claims.readsAll s0 m (a.bitAddr s0.me.ew) s0.me.ew x →
        (∃ j, Claims.startAt s0.me ≤ j ∧ j < s0.me.vlN ∧ Claims.chosen s0 m j = true) →
        (∀ j y, Claims.startAt s0.me ≤ j → j < s0.me.vlN → Claims.chosen s0 m j = true →
          ∀ k, k < spanBytes (a.bitAddr s0.me.ew j) s0.me.ew →
            s0.access (s0.ctx s0.me) (a.bitAddr s0.me.ew j / 8 + k) .r = .ok y → y.index = false) →
        ∃ t accs e, exec i s0 = .next t ∧ t.me.sb = s0.me.sb ++ accs ∧
          (∀ z ∈ accs, z.load = true ∧ z.vec = true ∧ z.seq = s0.me.seq ∧ z.addr / 8 = (z.addr + z.size - 1) / 8) ∧
          t.ckpts = ⟨s0.me.seq, s0.me, some e, [], accs.length, 0, 0⟩ :: s0.ckpts ∧ t.me.v = s0.me.v ∧ t.me.pc = s0.me.pc + 4 ∧
          t.mem = s0.mem ∧ t.memKey = s0.memKey
      (may [.s b.toNat] none →
        done (.vld c d b m) (.unit base 0) ∧ later (.vld c d b m) (.unit base 0) ∧
          done (.vldb c d b m o) (.unit base o.toNat) ∧ later (.vldb c d b m o) (.unit base o.toNat)) ∧
      (may [.s b.toNat, .s st.toNat] (some (s0.me.rd st)) →
        done (.vlds c d b st m) (.strided base (s0.me.rd st).toInt) ∧ later (.vlds c d b st m) (.strided base (s0.me.rd st).toInt)) ∧
      (∀ w i, (VAddr.unit base o.toNat).bitAddr w i = Claims.unitBit base o.toNat w i ∧
        (VAddr.strided base (s0.me.rd st).toInt).bitAddr w i = Claims.stridedBit base (s0.me.rd st).toInt i)) ∧
  (∀ (s0 : State) (c : Bool) (d : BitVec 6) (b sc : BitVec 5) (m : BitVec 4) (mx : Bool) (r : BitVec 2) (x k h : Nat → Nat),
      let base := (s0.me.rd b).toNat
      let ps : List Pipe := if mx then [.l, .x] else [.l]
      let may (rs : List RegRef) (src : Nat) : Prop :=
        Claims.vecMay s0 c ps Claims.tyN [d] (rs ++ Claims.mrefs m) ∧ fwidth src < s0.me.ew ∧ (mx = true → s0.me.fmtc ≤ 13)
      let took (s t : State) (y : Nat → Nat) : Prop :=
        (mx = false → Claims.loaded s t c ps d m y) ∧
        (mx = true → Claims.flowOnly s t ∧ Claims.memFrame s.me t.me c ps ∧ t.me.v = s.me.v ∧
          ∃ es, t.me.convoy.feed = some ⟨d.toNat, es⟩ ∧ es.length = s.me.vlN ∧
            ∀ i, i < s.me.vlN → es[i]? = some (if Claims.startAt s.me ≤ i ∧ Claims.chosen s m i then some (y i) else none))
      (may [.s b.toNat] (Claims.widenPlain r) → Claims.readsNow s0 →
        let s := Claims.inReach s0 (widenRead (Claims.widenPlain r) base none) m
        Claims.readsAll s m (Claims.unitBit base 0 (fwidth (Claims.widenPlain r))) (fwidth (Claims.widenPlain r)) x →
        Claims.readsAll s m (fun i => (8 * base + i * fwidth (Claims.widenPlain r)) / 8 * 8) 8 h →
        ∃ t, exec (.vldw c d b m mx r) s0 = .next t ∧
          took s t (fun i => Claims.cv s.me (Claims.widenVal (Claims.widenPlain r) i (h i) (x i)))) ∧
      (may [.s b.toNat, .s sc.toNat] (Claims.widenScaled r) → Claims.readsNow s0 →
        let s := Claims.inReach s0 (widenRead (Claims.widenScaled r) base (some (s0.me.rd sc).toNat)) m
        Claims.readsAll s m (Claims.unitBit base 0 (fwidth (Claims.widenScaled r))) (fwidth (Claims.widenScaled r)) x →
        Claims.readsAll s m (fun i => (8 * base + i * fwidth (Claims.widenScaled r)) / 8 * 8) 8 h →
        Claims.readsAll s m (fun i => 8 * (((s0.me.rd sc).toNat + i / 64) % 2 ^ 64)) 8 k →
        ∃ t, exec (.vldwScaled c d b sc m mx r) s0 = .next t ∧
          took s t (fun i => Claims.cv s.me ((Claims.widenVal (Claims.widenScaled r) i (h i) (x i)).mul (scaleVal false (k i))))))

/-- A vector load that faults at position e has written the positions below e, leaves VPROG = V and e, and takes the trap of that
position with its address in EVAL. Rests on R158, R159. Where the spec leaves a point open, it follows the model's choice of
notes/assumptions 16, 92. -/
def Obligations.VectorLoadStopsAtTheFault : Prop :=
  ∀ (s0 : State) (c : Bool) (d : BitVec 6) (b : BitVec 5) (m : BitVec 4) (x : Nat → Nat) (e : Nat) (err : Nat × Nat),
    let base := (s0.me.rd b).toNat
    let s := Claims.inReach s0 (plainRead (.unit base 0)) m
    let w := s.me.ew
    let ba := Claims.unitBit base 0 w
    Claims.readsNow s0 → Claims.vecMay s0 c [.l] Claims.tyD [d] (.s b.toNat :: Claims.mrefs m) → Claims.svpOkMem s0 →
    Claims.vecAligned s0 s0.me.ew (s0.me.rd b) none → Claims.startAt s.me ≤ e → e < s.me.vlN → Claims.chosen s m e = true →
    (∀ i, Claims.startAt s.me ≤ i → i < e → Claims.chosen s m i = true → Claims.readsBits s (ba i) w (x i)) →
    s.accessBytes (s.ctx s.me) (ba e / 8) .r ((ba e % 8 + w + 7) / 8) = .error err →
    ∃ u, exec (.vld c d b m) s0 = .next (u.trap ⟨err.1, err.2, BitVec.ofNat 64 (ba e / 8), none, 0⟩) ∧ Claims.flowOnly s u ∧
      u.me = { s.me with v := u.me.v, vprog := BitVec.ofNat 64 (2 ^ 31 + e) } ∧
      (Claims.room s.me d.toNat s.me.grp w → ∀ i, i < s.me.vlN → u.me.elem d.toNat s.me.grp w i =
        (if i < e ∧ Claims.startAt s.me ≤ i ∧ Claims.active s.me i then
          (if Claims.picks s.me m i then x i % 2 ^ w else if s.me.mz then 0 else s.me.elem d.toNat s.me.grp w i)
         else s.me.elem d.toNat s.me.grp w i))

/-- VST and VSTS complete. They write no register; their stores join the flow's own: outside a loop in the strip buffer, inside one
with the waiting stores of the strip. A bit that a selected element stores, and no later one, reads as that element's; every other
bit of memory stands, save that the leaves' D bits are set, and where none is, reads through the flow's own stores as before.
Rests on R152, R154, R155, R163, R203. Where the spec leaves a point open, it follows the model's choice of notes/assumptions 14. -/
def Obligations.VectorStoreEffects : Prop :=
  ∀ (s : State) (c : Bool) (v : BitVec 6) (b st : BitVec 5) (m : BitVec 4) (strided : Bool),
    let w := s.me.ew
    let base := (s.me.rd b).toNat
    let ba : Nat → Nat := if strided then Claims.stridedBit base (s.me.rd st).toInt else Claims.unitBit base 0 w
    let u := s.orDirtyAll (s.ctx s.me) (storeVas s.me (if strided then .strided base (s.me.rd st).toInt else .unit base 0) m (Claims.startAt s.me) s.me.vlN)
    Claims.vecMay s c [.s] Claims.tyD [v] (Claims.vrefs s v ++ [.s b.toNat] ++ (if strided then [.s st.toNat] else []) ++ Claims.mrefs m) →
    (s.me.loop = none ∨ s.me.vl = 0 ∨ s.me.vsqUsed + s.me.vsqTakes ≤ 8) → Claims.svpOkMem s →
    Claims.vecAligned s w (s.me.rd b) (if strided then some (s.me.rd st) else none) → Claims.writesAll s m ba w → Claims.writesAll u m ba w →
    ∃ t, exec (if strided then .vsts c v b st m else .vst c v b m) s = .next t ∧ Claims.memFrame s.me t.me c [.s] ∧
      t.me.convoy.feed = (s.me.convoyAfter c [.s] false).feed ∧ t.me.v = s.me.v ∧ t.me.cq = s.me.cq ∧
      t = { s with
        me := t.me
        mem := t.mem
        memKey := t.memKey
        tlb := t.tlb
        coh := t.coh
        reg := t.reg
        l1 := t.l1
        amoRuns := t.amoRuns
        jobs := t.jobs
        peerCopies := t.peerCopies } ∧
      ((∀ a, ¬Claims.leafOfStore s u m ba w a) → t = { s with me := t.me }) ∧
      (s.me.loop = none → t.me.vsq = s.me.vsq) ∧ (s.me.loop ≠ none → t.me.sb = s.me.sb) ∧
      ((∀ a ∈ s.me.ownStores, a.seq < s.me.seq) → s.me.v.length = 48 → v.toNat + s.me.grp ≤ 48 → ∀ key a q fill, q < 8 →
        (∀ i p, Claims.storesBit u m ba w i p a q → (∀ i' p', Claims.storesBit u m ba w i' p' a q → i' < i ∨ (i' = i ∧ p' = p)) →
          (t.seenByte t.me t.me.ownStores a key fill).getLsbD q = (Claims.el s v i).testBit p) ∧
        ((∀ i p, ¬Claims.storesBit u m ba w i p a q) → (∀ b, ¬Claims.leafOfStore s u m ba w b) →
          (t.seenByte t.me t.me.ownStores a key fill).getLsbD q = (s.seenByte s.me s.me.ownStores a key fill).getLsbD q) ∧
        (Claims.plainLeaves s u m ba w → ¬Claims.leafOfStore s u m ba w a → t.byteAt a key = s.byteAt a key))

/-- LOOPV outside a loop, with a grant to be had, opens the loop: its record, every carried group at its identity, and the first
strip. With none to be had it waits. ENDV commits the strip's stores; while elements remain it starts the next strip at the body;
else it closes the loop: S(n) 0, every position active, VL back to VLMAX where a group is carried, and the carried groups of a
`.par` loop folded over its copies. Outside a loop ENDV, BRKV, VBR and VJOIN raise LOOP. BRKV in a loop that is not `.par`: with
no position set it commits the strip's stores and goes on; else it commits those before the first position e, leaves S(n) less e
and VL = e (VLMAX where a group is carried), closes the loop and goes past the next ENDV word; it waits until VQ has drained up to
the word that writes its mask. Rests on R151, R163, R165, R166, R167, R168, R169, R170, R172, R175, R184, R353. Where the spec
leaves a point open, it follows the model's choice of notes/assumptions 17, 21, 94, 100. -/
def Obligations.StripLoops : Prop :=
  (∀ (s : State) (n : BitVec 5) (par : Bool), Claims.clean s [.s n.toNat] → s.me.loop = none → s.energyDue = false →
      s.me.preemptible = false →
      let lanes := Claims.lanesFor s (max (s.me.rd n).toNat 1)
      (s.grantCap s.me ≠ 0 → ∃ t g, exec (.loopv n par) s = .next t ∧ Claims.isGrant s lanes g ∧
        Claims.became s t { s.me with v := t.me.v, bad := t.me.bad, vgnt := g, vl := t.me.vl, act := BitVec.allOnes 32768,
                                         vprog := s.me.vprog &&& 0xFFFFFFFF7FFFFFFF, ival := s.me.ival + 1, avl := s.me.rd n,
                                         skipPoint := false, pc := s.me.pc + 4,
                                         strips := s.me.strips + 1,
                                         loop := some ⟨n, s.me.pc + 4, par, 1, s.carriedSet s.me, s.me.grp⟩ } ∧
        t.me.vl = Claims.stripVl { s.me with vgnt := g } par (s.me.rd n).toNat ∧
        (∃ v, Claims.reformed s.me g v ∧ ∀ r : Nat, (∀ p ∈ s.carriedSet s.me, r < p.1 ∨ p.1 + s.me.grp ≤ r) → t.me.v[r]? = v[r]?) ∧
        (s.me.v.length = 48 → ∀ p ∈ s.carriedSet s.me, ∀ i, i < vlmaxOf lanes s.me.grp s.me.fmtc →
          ({ t.me with loop := none } : Flow).elem p.1 s.me.grp s.me.ew i = Claims.carryId s.me p.2 % 2 ^ s.me.ew)) ∧
      (s.grantCap s.me = 0 → exec (.loopv n par) s = .next { s with me := { s.me with status := .waiting (.grant true), convoy := Convoy.none } })) ∧
  (∀ (s : State) (l : LoopRec), s.me.loop = some l → s.me.frags = [] → s.me.s.length = 32 →
      let n := (s.me.rd l.n).toNat
      let out := s.me.sb ++ Claims.waiting s.me (fun _ => true)
      (s.me.vlN < n → Claims.clean s [.s l.n.toNat] → s.energyDue = false → s.me.preemptible = false →
        ∃ t, exec .endv s = .next t ∧
          Claims.became s t { s.me with s := t.me.s, busy := t.me.busy, bad := t.me.bad, vsq := [], sb := out, pc := l.body,
                                           vl := t.me.vl, act := BitVec.allOnes 32768, vprog := s.me.vprog &&& 0xFFFFFFFF7FFFFFFF,
                                           ival := s.me.ival + 1, strips := s.me.strips + 1,
                                           loop := some { l with strip := l.strip + 1 } } ∧
          Claims.wrote s t l.n (BitVec.ofNat 64 (n - s.me.vlN)) ∧ t.me.vl = Claims.stripVl s.me l.par (n - s.me.vlN)) ∧
      (n ≤ s.me.vlN → Claims.clean s (.s l.n.toNat :: (if l.par then (l.carried.map (fun p => (List.range s.me.grp).map (fun k => RegRef.v (p.1 + k)))).flatten else [])) →
        ∃ t, exec .endv s = .next t ∧
          Claims.became s t { s.me with s := t.me.s, busy := t.me.busy, bad := t.me.bad, v := t.me.v, vsq := [], sb := out,
                                           pc := s.me.pc + 4, act := BitVec.allOnes 32768, loop := none,
                                           vl := if l.carried = [] then s.me.vl else BitVec.ofNat 16 (if l.par then s.me.vlmax1 else s.me.vlmax) } ∧
          Claims.wrote s t l.n 0 ∧ (l.par = false → t.me.v = s.me.v) ∧
          (∀ r : Nat, (∀ p ∈ l.carried, r < p.1 ∨ p.1 + s.me.grp ≤ r) → t.me.v[r]? = s.me.v[r]?) ∧
          (l.par = true → s.me.v.length = 48 → (l.carried.map (fun p => p.1)).Nodup → s.me.granted ≠ 0 →
            (∀ p ∈ l.carried, p.1 % s.me.grp = 0 ∧ p.1 + s.me.grp ≤ 48) →
            ∀ p ∈ l.carried, ∀ i, i < s.me.vlmax1 → t.me.elem p.1 s.me.grp s.me.ew i = Claims.foldedCopies s.me p.1 p.2 i % 2 ^ s.me.ew))) ∧
  ((∀ s : State, s.me.loop = none →
      exec .endv s = .next (s.trap ⟨1, 0x10, 0, none, 0⟩) ∧ exec .vjoin s = .next (s.trap ⟨1, 0x10, 0, none, 0⟩) ∧
      ∀ (m : BitVec 4) (o : BitVec 14), Claims.clean s (Claims.mrefs m) →
        exec (.brkv m) s = .next (s.trap ⟨1, 0x10, 0, none, 0⟩) ∧ exec (.vbr m o) s = .next (s.trap ⟨1, 0x10, 0, none, 0⟩)) ∧
    (∀ (s : State) (l : LoopRec) (m : BitVec 4), s.me.loop = some l → l.par = false → s.me.frags = [] → s.me.s.length = 32 →
      Claims.clean s (Claims.mrefs m) →
      (¬Claims.maskSettled s m → exec (.brkv m) s = .next { s with me := { s.me with convoy := Convoy.none } }) ∧
      (Claims.maskSettled s m →
      let set := Claims.places s (Claims.chosen s m)
      (set = [] → ∃ t, exec (.brkv m) s = .next t ∧
        Claims.became s t { s.me with vsq := [], sb := s.me.sb ++ Claims.waiting s.me (fun _ => true), pc := s.me.pc + 4 }) ∧
      (∀ e rest, set = e :: rest → ∃ u : State,
        Claims.became s u { s.me with s := u.me.s, busy := u.me.busy, bad := u.me.bad, vsq := [],
                                         sb := s.me.sb ++ Claims.waiting s.me (fun p => decide (p < e)), loop := none,
                                         act := BitVec.allOnes 32768, vl := if l.carried = [] then BitVec.ofNat 16 e else BitVec.ofNat 16 s.me.vlmax } ∧
        Claims.wrote s u l.n (BitVec.ofNat 64 ((s.me.rd l.n).toNat - e)) ∧
        ∀ k : Nat, k < 2 ^ 55 → (∀ j, j < k → ∃ w, u.fetch u.me (s.me.pc + 4 + BitVec.ofNat 64 (4 * j)) = .ok w ∧ w ≠ 0x4F0000F0) →
          u.fetch u.me (s.me.pc + 4 + BitVec.ofNat 64 (4 * k)) = .ok 0x4F0000F0 →
          exec (.brkv m) s = .next { u with me := { u.me with pc := s.me.pc + 8 + BitVec.ofNat 64 (4 * k) } }))))

/-- VBR in a loop with room in the fragment buffer splits the active positions by the mask: with none left it goes to the label with
all of them, else it parks those that branch and goes on with the rest. VJOIN turns to the parked fragment, or joins the halves
again, or goes on where the buffer is empty. Rests on R151, R173, R174, R175, R184. -/
def Obligations.VectorBranches : Prop :=
  ∀ (s : State) (l : LoopRec), s.me.loop = some l →
    (∀ (m : BitVec 4) (o : BitVec 14), Claims.clean s (Claims.mrefs m) →
      let go := s.me.pc + BitVec.ofInt 64 (4 * o.toInt)
      (¬Claims.maskSettled s m → exec (.vbr m o) s = .next { s with me := { s.me with convoy := Convoy.none } }) ∧
      (Claims.maskSettled s m → 8 ≤ s.me.frags.length → exec (.vbr m o) s = .next (s.trap ⟨0x0D, 0, 0, none, 0⟩)) ∧
      (Claims.maskSettled s m → s.me.frags.length < 8 → s.me.vlN ≤ 32768 →
        ((∀ i, i < s.me.vlN → Claims.active s.me i = true → Claims.picks s.me m i = true) →
          ∃ t, exec (.vbr m o) s = .next t ∧ Claims.became s t { s.me with frags := .join 0 :: s.me.frags, pc := go }) ∧
        ((∃ i, i < s.me.vlN ∧ Claims.active s.me i = true ∧ Claims.picks s.me m i = false) →
          ∃ t taken left, exec (.vbr m o) s = .next t ∧
            Claims.became s t { s.me with frags := .parked taken go :: s.me.frags, act := left, pc := s.me.pc + 4 } ∧
            (∀ i, taken.getLsbD i = (decide (i < s.me.vlN) && Claims.active s.me i && Claims.picks s.me m i)) ∧
            (∀ i, left.getLsbD i = (decide (i < s.me.vlN) && Claims.active s.me i && !Claims.picks s.me m i))))) ∧
    (s.me.frags = [] → ∃ t, exec .vjoin s = .next t ∧ Claims.became s t { s.me with pc := s.me.pc + 4 }) ∧
    (∀ m a rest, s.me.frags = .parked m a :: rest →
      ∃ t, exec .vjoin s = .next t ∧ Claims.became s t { s.me with frags := .join s.me.act :: rest, act := m, pc := a }) ∧
    (∀ m rest, s.me.frags = .join m :: rest →
      ∃ t, exec .vjoin s = .next t ∧ Claims.became s t { s.me with frags := rest, act := s.me.act ||| m, pc := s.me.pc + 4 })

/-- STREAM, SWALK and SCOW that meet no exception join the queue with what their operands say, a Free tag becoming Active; a tag with
a recorded fault raises it and becomes Free. STREAM waits for the vector words before it, whose register it reads. Rests on R184,
R283, R284, R285, R289, R290, R291, R298, R299. Where the spec leaves a point open, it follows the model's choice of
notes/assumptions 25, 48. -/
def Obligations.CopyCommandsJoinTheQueue : Prop :=
  ∀ (s : State) (a n : BitVec 5) (t : BitVec 4) (v r : BitVec 2),
    let dst := s.me.rd n
    let comp := s.me.rd (n + 1)
    let rs : List RegRef := [.s a.toNat, .s n.toNat, .s (n + 1).toNat]
    let may : Prop := Claims.tagOpen s t ∧ Claims.compOk comp ∧ s.me.eq.length < 16
    (∀ x : BitVec 6, Claims.clean s (rs ++ [.v x.toNat]) → 1 ≤ s.me.vlN → s.me.vlN ≤ 6 →
      let ext := (List.range s.me.vlN).map (Claims.extOf s x)
      let str := (List.range (s.me.vlN - 1)).map (fun d => Claims.strideOf s x (d + 1))
      let total := ext.foldl (fun p e => p * e) 1
      (s.me.vqDrained = false → exec (.stream x a n t v r) s = .next { s with me := { s.me with convoy := Convoy.none } }) ∧
      (may → s.me.vqDrained = true → Claims.dimOf s x 0 / 2 ^ 24 = 0 → total ≤ 2 ^ 40 →
        (∀ i, i < total → ¬Claims.barred (srcAddr ext str (s.me.rd a).toNat i) ∧ ¬Claims.barred ((dst.toNat + i) % 2 ^ 64)) →
        ∃ u, exec (.stream x a n t v r) s = .next u ∧
          Claims.became s u (Claims.queued s t (.stream t.toNat ext str (s.me.rd a) dst comp r.toNat v.toNat))) ∧
      (∀ sub e, s.me.vqDrained = true → s.me.ctags.getD t.toNat .free = .faulted sub e →
        exec (.stream x a n t v r) s =
          .next (State.trap { s with me := { s.me with ctags := s.me.ctags.set t.toNat .free } } ⟨0x11, sub, e, none, 0⟩))) ∧
    (∀ x : BitVec 5, Claims.clean s (.s x.toNat :: rs) → may →
      (¬Claims.barred dst.toNat → ∃ u, exec (.swalk x a n t v r) s = .next u ∧
        Claims.became s u (Claims.queued s t (.swalk t.toNat (s.me.rd x) ((s.me.rd a).toNat % 2 ^ 32) ((s.me.rd a).toNat / 2 ^ 32)
          dst comp r.toNat v.toNat))) ∧
      ((∀ i, i < 8 → ¬Claims.barred (dst.toNat + i)) → ∃ u, exec (.scow x a n t v r) s = .next u ∧
        Claims.became s u (Claims.queued s t (.scow t.toNat (s.me.rd x) (s.me.rd a).toNat dst comp r.toNat v.toNat))))

/-- STREAM to a register leaves a complete entry under its tag with the elements VLD would read; COMMIT of a Landed entry writes them:
the recorded elements below the recorded VL, the policy at positions not written, the tail at the VL of the COMMIT. COMMIT of a
Free tag does nothing, of a Pending one waits, of a Lost one raises TAGLOST. Rests on R49, R51, R52, R53, R292, R301. Where the
spec leaves a point open, it follows the model's choice of notes/assumptions 22, 98. -/
def Obligations.TransfersLandAndCommit : Prop :=
  (∀ (s0 : State) (d : BitVec 6) (a : BitVec 5) (t : BitVec 4) (x : Nat → Nat),
    let base := (s0.me.rd a).toNat
    let s := Claims.inReachAt s0 (plainRead (.unit base 0)) (s0.me.act.toNat % 2 ^ s0.me.vlN)
    let w := s0.me.ew
    Claims.tyD s0.me.fmtc → d.toNat % s0.me.grp = 0 → Claims.clean s0 [.s a.toNat] → Claims.svpOkMem s0 → (w < 8 ∨ base % (w / 8) = 0) →
    Claims.tagFree s0 t → Claims.queueFree s0 → s0.stuck true false = false → Claims.nothingAhead s0 →
    (∀ i, Claims.startAt s0.me ≤ i → i < s0.me.vlN → Claims.active s0.me i = true →
      Claims.readsBits s (Claims.unitBit base 0 w i) w (x i)) →
    ∃ u e, exec (.streamReg d a t) s0 = .next u ∧ Claims.landing s0 d e x ∧ Claims.flowOnly s u ∧
      u.me = { s.me with tags := s.me.tags.set t.toNat (.pending e), bad := u.me.bad, pc := s.me.pc + 4, convoy := Convoy.none,
                         qBeats := s.me.qBeats + 1, vprog := s.me.vprog &&& 0xFFFFFFFF7FFFFFFF, rebuilt := false }) ∧
  (∀ (s : State) (t : BitVec 4), Claims.clean s [.land t.toNat] → Claims.queueFree s →
    (s.me.tags.getD t.toNat .free = .free →
      ∃ u, exec (.commit t) s = .next u ∧ Claims.became s u { s.me with pc := s.me.pc + 4 }) ∧
    (s.me.tags.getD t.toNat .free = .lost →
      exec (.commit t) s =
        .next (State.trap { s with me := { s.me with tags := s.me.tags.set t.toNat .free } } ⟨1, 0x0F, 0, none, 0⟩)) ∧
    (∀ e, s.me.tags.getD t.toNat .free = .pending e →
      exec (.commit t) s = .next { s with me := { s.me with status := .waiting (.commit t.toNat), convoy := Convoy.none } }) ∧
    (∀ e, s.me.tags.getD t.toNat .free = .landed e →
      ∃ u, exec (.commit t) s = .next u ∧
        Claims.became s u { s.me with v := u.me.v, bad := u.me.bad, tags := s.me.tags.set t.toNat .free, pc := s.me.pc + 4 } ∧
        (∀ r : Nat, (r < e.dst ∨ e.dst + e.grp ≤ r) → u.me.v[r]? = s.me.v[r]?) ∧
        (e.width ≠ 0 → s.me.v.length = 48 → e.dst + e.grp ≤ 48 → s.me.view.1 + s.me.view.2 ≤ 16384 →
          (∀ i, i < s.me.vlN → (i + 1) * e.width ≤ s.me.view.2 * e.grp → u.me.elem e.dst e.grp e.width i =
            (if i < e.vl ∧ e.act.getLsbD i = true then
               (if e.wrote.getLsbD i then aget e.data i 0 % 2 ^ e.width else if e.mz then 0 else s.me.elem e.dst e.grp e.width i)
             else s.me.elem e.dst e.grp e.width i)) ∧
          (∀ i p, i < s.me.vlN → i < e.vl → e.act.getLsbD i = true → e.wrote.getLsbD i = true → p < e.width →
            i * e.width + p < s.me.view.2 * e.grp → bit (u.me.gstr e.dst e.grp) (i * e.width + p) = bit (aget e.data i 0) p) ∧
          (s.me.isCarried e.dst e.grp = false → ∀ j, s.me.vlN * e.width ≤ j → j < e.grp * s.me.view.2 → bit (u.me.gstr e.dst e.grp) j = false))))

/-- SWAIT of a tag whose copy is done, or Released for the release form, completes; of a faulted one raises its fault and frees the
tag; of any other, or of a copy that the queue still holds, waits. Rests on R205, R283, R289, R300. Where the spec leaves a point
open, it follows the model's choice of notes/assumptions 14, 22. -/
def Obligations.SwaitCompletesFaultsOrWaits : Prop :=
  ∀ (s : State) (t : BitVec 4), Claims.mayGo s →
    let st := s.me.ctags.getD t.toNat .free
    let waits (v : Bool) : State := { s with me := { s.me with qGo := false, status := .waiting (.swait t.toNat v), convoy := Convoy.none } }
    (s.me.eq = [] → st = .free ∨ st = .released →
      ∃ u, exec (.swaitRelease t) s = .next u ∧ Claims.became s u { s.me with qGo := false, pc := s.me.pc + 4 }) ∧
    (s.me.eq = [] → st = .free → ∃ u, exec (.swaitVisible t) s = .next u ∧ Claims.becameAcq s u { s.me with qGo := false, pc := s.me.pc + 4 }) ∧
    (∀ sub e, st = .faulted sub e → ∀ i ∈ [Instr.swaitRelease t, .swaitVisible t],
      exec i s = .next (State.trap { s with me := { s.me with qGo := false, ctags := s.me.ctags.set t.toNat .free } } ⟨0x11, sub, e, none, 0⟩)) ∧
    (st = .active ∨ (s.me.eq ≠ [] ∧ ∀ sub e, st ≠ .faulted sub e) → exec (.swaitRelease t) s = .next (waits false)) ∧
    (st = .active ∨ st = .released ∨ (s.me.eq ≠ [] ∧ ∀ sub e, st ≠ .faulted sub e) → exec (.swaitVisible t) s = .next (waits true))

/-- EVRD takes the oldest record, or gives 0; EVPOST sends a record to a flow of its launch; BAR counts an arrival and waits, and
passes once its instance has been released; CTXYIELD goes on, at a point where a requested pre-emption is taken; ENCHK gives the
budget left and whether it is short. EVRD, EVPOST, TDEC and ENCHK stand in EQ while they cannot act (log 111). Rests on R183,
R309, R311, R312, R387, R388. Where the spec leaves a point open, it follows the model's choice of notes/assumptions 14, 82, 111. -/
def Obligations.RecordsBarriersAndEnergy : Prop :=
  (∀ (s : State) (x : BitVec 5), Claims.engineMay s → s.me.s.length = 32 →
    (s.me.events = [] → ∃ t, exec (.evrd x) s = .next t ∧ Claims.gotBusy s t x 0 { s.me with qGo := false }) ∧
    (∀ w sc rest, s.me.events = (w, sc) :: rest → ∃ t, exec (.evrd x) s = .next t ∧
      Claims.wrote s t x (if s.me.evOvf then w ||| 0x80000000 else w) ∧
      Claims.becameAcq s t { s.me with s := t.me.s, busy := t.me.busy, bad := t.me.bad, events := rest, evOvf := false,
                                       qGo := false, pc := s.me.pc + 4 })) ∧
  (∀ (s : State) (a b : BitVec 5), Claims.engineMay s → s.me.held = [] → Claims.clean s [.s a.toNat, .s b.toNat] →
    ∃ t, exec (.evpost a b) s = .next t ∧
      (Claims.calm s →
        let ek : FlowKey := ⟨s.me.key.launch, (s.me.rd b).toNat % 4096⟩
        let w := BitVec.ofNat 64 (((s.me.rd a).toNat % 2 ^ 32) * 2 ^ 32 + 4 * 2 ^ 28 + s.me.key.lflow % 4096 * 2 ^ 12)
        t.me = { Claims.scalarAfter s id with qGo := false } ∧ Claims.paid s t 6000 ∧ t.mem = s.mem ∧ t.rest = s.rest ∧
        ((∃ f ∈ s.flows, f.key = ek) → t.evFlight = s.evFlight ++ [⟨ek, w, 4⟩]) ∧
        ((∀ f ∈ s.flows, f.key ≠ ek) → t.evFlight = s.evFlight))) ∧
  (∀ (s : State) (g : BitVec 8) (l : Launch), s.launch? s.me.key.launch = some l →
    ((g.toNat, s.me.key.lflow) ∉ l.groups → exec (.bar g) s = .next (s.trap ⟨1, 0x13, BitVec.ofNat 64 g.toNat, none, 0⟩)) ∧
    ((g.toNat, s.me.key.lflow) ∈ l.groups →
      (s.me.barInst = none → Claims.engineMay s →
        let n := aget l.barArr (s.me.key.lflow, g.toNat) 0
        ∃ t, exec (.bar g) s = .next t ∧ t = { s with me := t.me, launches := t.launches } ∧
          t.me = { s.me with qGo := false, barInst := some (g.toNat, n), status := .waiting (.bar g.toNat n), convoy := Convoy.none } ∧
          ∀ m, t.launch? s.me.key.launch = some m → aget m.barArr (s.me.key.lflow, g.toNat) 0 = n + 1) ∧
      (∀ h n, s.me.barInst = some (h, n) → n < aget l.barDone g.toNat 0 →
        ∃ t, exec (.bar g) s = .next t ∧ Claims.becameAcq s t { s.me with barInst := none, pc := s.me.pc + 4 }) ∧
      (∀ h n, s.me.barInst = some (h, n) → aget l.barDone g.toNat 0 ≤ n →
        exec (.bar g) s = .next { s with me := { s.me with status := .waiting (.bar g.toNat n), convoy := Convoy.none } }))) ∧
  (∀ s : State, Claims.queueFree s → ∃ t, exec .ctxyield s = .next t ∧
    Claims.became s t { s.me with point := (if s.me.preemptible then some .yield else s.me.point), pc := s.me.pc + 4 }) ∧
  (∀ (s : State) (x a b : BitVec 5), ¬Claims.queueOpen s → s.replayOf s.me = false → s.me.eq.length < 16 →
    Claims.clean s [.s a.toNat, .s b.toNat] → ∀ i ∈ [Instr.evrd x, .evpost a b, .tdec a b, .enchk x a],
      exec i s = .next { s with me := Claims.standing s i }) ∧
  (∀ (s : State) (x a : BitVec 5), Claims.clean s [.s a.toNat] → Claims.queueOpen s → s.me.s.length = 32 →
    let left := (s.ten s.me.tenant).share - (s.ten s.me.tenant).spent / 10 ^ 9
    ∃ t, exec (.enchk x a) s = .next t ∧
      Claims.gotBusy s t x (BitVec.ofNat 64 (left + if left < (s.me.rd a).toNat then 2 ^ 63 else 0)) s.me)

/-- With nothing under way, TDEF and TSPAWN of a template that R303 accepts make a task in an unused entry of the die named, Ready
where they spawn it or its count is 0, else Defined, and give its handle; a full die gives 0. TDEC lowers the count of a Defined
task of the handle, and makes it Ready at 0. Rests on R302, R303, R305, R306. Where the spec leaves a point open, it follows the
model's choice of notes/assumptions 12. -/
def Obligations.TaskWords : Prop :=
  (∀ (s : State) (x a b : BitVec 5) (spawn : Bool) (bs : List Byte) (xs : List Xl),
    let i : Instr := if spawn then .tspawn x a b else .tdef x a b
    let w := natLE bs
    let die := Claims.templateDie s w
    let used := (s.tasks.filter (fun k => k.die == die)).map (fun k => k.entry)
    let u := s.reachRange (s.me.rd a).toNat 32
    Claims.calm s → s.stuck true false = false → Claims.clean s [.s a.toNat, .s b.toNat] → (s.me.rd a).toNat % 8 = 0 →
    u.readRange u.me (s.me.rd a).toNat 32 = .ok (bs, xs) →
    (¬Claims.templateOk w → Claims.queueOpen s → exec i s = .next (u.trap ⟨1, 0x14, s.me.rd a, none, 0⟩)) ∧
    (Claims.templateOk w → Claims.engineMay s → used.length < 16384 → s.dev.dieLost.getLsbD die = false →
      ∃ t k, exec i s = .next t ∧ t.tasks = s.tasks ++ [k] ∧ k.die = die ∧ k.entry < 16384 ∧ k.entry ∉ used ∧
        k.gen = aget s.taskGens (die, k.entry) 1 ∧ k.pc = BitVec.ofNat 64 (w % 2 ^ 64) ∧ k.arg = s.me.rd b ∧
        k.st = (if spawn = true ∨ w / 2 ^ 64 % 2 ^ 32 = 0 then .ready else .defined) ∧ k.count = w / 2 ^ 64 % 2 ^ 32 ∧
        k.tenant = s.me.tenant ∧ k.launch = s.me.key.launch ∧
        Claims.wrote s t x (BitVec.ofNat 64 (k.gen * 2 ^ 16 + die * 2 ^ 14 + k.entry)) ∧ t.me.pc = s.me.pc + 4 ∧ t.mem = s.mem ∧ t.rest = s.rest) ∧
    (Claims.templateOk w → Claims.engineMay s → (16384 ≤ used.length ∨ s.dev.dieLost.getLsbD die = true) →
      ∃ t, exec i s = .next t ∧ t.tasks = s.tasks ∧ Claims.wrote s t x 0 ∧ t.me.pc = s.me.pc + 4 ∧ t.mem = s.mem ∧ t.rest = s.rest)) ∧
  (∀ (s : State) (a b : BitVec 5), Claims.engineMay s → s.me.held = [] → Claims.clean s [.s a.toNat, .s b.toNat] →
    let h := (s.me.rd a).toNat
    let n := min (s.me.rd b).toNat (2 ^ 24 - 1)
    let mine (k : Task) : Prop := h < 2 ^ 32 ∧ k.entry = h % 2 ^ 14 ∧ k.die = h / 2 ^ 14 % 4 ∧ k.gen = h / 2 ^ 16 % 2 ^ 16 ∧ k.st = .defined
    ∃ t, exec (.tdec a b) s = .next t ∧
      (Claims.calm s → t.me = { Claims.scalarAfter s id with qGo := false } ∧ t.mem = s.mem ∧ t.rest = s.rest ∧
        t.tasks.length = s.tasks.length ∧
        ∀ (j : Nat) (k : Task), s.tasks[j]? = some k →
          (¬mine k → t.tasks[j]? = some k) ∧
          (mine k → n < k.count → t.tasks[j]? = some { k with count := k.count - n }) ∧
          (mine k → k.count ≤ n → ∃ o, t.tasks[j]? = some { k with count := 0, st := .ready, order := o })))

/-- The timetable words. TTSTAT reads the status; TTBIND with no record held and no entry Running binds a table afresh, or only
unbinds, and in a retired cluster waits; MARK without a binding raises TTCUR, with one starts its check; TIERPIN pins and TIERFREE
releases the records that lie wholly in the range. Rests on R317, R321, R322, R324, R325, R450. Where the spec leaves a point
open, it follows the model's choice of notes/assumptions 12, 25. -/
def Obligations.TimetableWords : Prop :=
  ∀ (s : State) (a b : BitVec 5), Claims.feature s 3 → Claims.clean s [.s a.toNat, .s b.toNat] → Claims.queueOpen s → s.me.s.length = 32 →
    (∀ x, ∃ t, exec (.ttstat x a) s = .next t ∧ Claims.gotBusy s t x (BitVec.ofNat 64 (Claims.ttStatus s (s.me.rd a))) s.me) ∧
    (∀ o : BitVec 2, Claims.mayGo s → (∀ x, s.me.tt = some x → x.recs = [] ∧ ∀ e ∈ x.ents, e.st ≠ 4) →
      let at_ := (s.me.rd a)
      let n := (s.me.rd b).toNat
      let others := (s.rest.filter (fun f => f.loc.clusterIdx == s.me.loc.clusterIdx)).filterMap (fun f => f.tt)
      (at_ = 0 → ∃ t, exec (.ttbind a b o) s = .next t ∧
        Claims.became s t { s.me with qGo := false, tt := none, ttcur := 0, ttmiss := 0, pc := s.me.pc + 4 }) ∧
      let retired := s.dev.retcl.getLsbD s.me.loc.clusterIdx
      (at_ ≠ 0 → retired = true → exec (.ttbind a b o) s = .next { s with me := { s.me with qGo := false, convoy := Convoy.none } }) ∧
      (at_ ≠ 0 → retired = false → at_.toNat % 32 = 0 → 1 ≤ n → n ≤ 65535 → others.length < 16 → ∃ t, exec (.ttbind a b o) s = .next t ∧
        Claims.became s t { s.me with qGo := false, ttcur := 0, ttmiss := 0, pc := s.me.pc + 4,
                                      tt := some ⟨at_, n, o.toNat, [], 0, [], 0, 0, none, false, [], false, false, { s.ctx s.me with core := none }⟩ }) ∧
      (at_ ≠ 0 → retired = false → at_.toNat % 32 ≠ 0 → ∃ u : State, u = { s with me := { s.me with qGo := false, tt := none } } ∧
        exec (.ttbind a b o) s = .next (u.trap ⟨5, 0, at_, none, 0⟩))) ∧
    (∀ m : BitVec 16,
      (s.me.tt = none → ∃ t, exec (.mark m) s = .next t ∧
        Claims.became s t { s.me with ttcur := BitVec.ofNat 64 (max (s.me.ttcur.toNat % 65536) m.toNat), pc := s.me.pc + 4 }) ∧
      (∀ x, s.me.tt = some x → x.check = none → Claims.mayGo s → ∃ t, exec (.mark m) s = .next t ∧
        Claims.became s t { s.me with qGo := false, tt := some { x with
          check := some m.toNat
          begun := false
          cset := (x.ents.filter (fun e => decide (5 ≤ e.st))).map (fun e => e.idx) } })) ∧
    (∃ t, exec (.tierpin a b) s = .next t ∧
      Claims.became s t { s.me with
        tt := s.me.tt.map (fun x => { x with recs := x.recs.map (fun (r : TtRec) =>
          if Claims.recIn r (s.me.rd a).toNat (s.me.rd b).toNat then { r with pinned := true } else r) })
        pc := s.me.pc + 4 }) ∧
    (Claims.mayGo s →
      let hit (r : TtRec) : Bool := Claims.recIn r (s.me.rd a).toNat (s.me.rd b).toNat
      (s.me.tt = none → ∃ t, exec (.tierfree a b) s = .next t ∧ Claims.became s t { s.me with qGo := false, pc := s.me.pc + 4 }) ∧
      (∀ x, s.me.tt = some x → (∀ r ∈ x.recs, hit r = true → r.wb = false) → ∃ t y, exec (.tierfree a b) s = .next t ∧
        Claims.became s t { s.me with qGo := false, tt := some y, pc := s.me.pc + 4 } ∧ y.recs = x.recs.filter (fun r => !hit r) ∧
        y.ents.map (fun e => e.idx) = x.ents.map (fun e => e.idx)))

/-- ROWSEND captures a row, with the header's device, die and CRC set, for the queue; ROWACK with every row answered writes the
refused rows and gives their count; ARRWAIT passes, traps or waits by its counter; REPLSEL gives the address of the replica array
of a valid bank, or 0. Rests on R332, R333, R334, R342, R343, R344, R345. Where the spec leaves a point open, it follows the
model's choice of notes/assumptions 12, 34. -/
def Obligations.RoutingWords : Prop :=
  ∀ (s : State) (a b x : BitVec 5), Claims.feature s 4 → Claims.clean s [.s a.toNat, .s b.toNat] → s.me.s.length = 32 →
    (∀ v : BitVec 6, (s.me.fmtc = 0 ∨ s.me.fmtc = 2) → v.toNat % s.me.grp = 0 → (s.me.vl = 0 ∨ Claims.clean s (Claims.vrefs s v)) →
      let d := s.me.rd b
      d.toNat % 8 = 0 → d.toNat / 2 ^ 22 % 8 = 0 → s.me.vqDrained = true → s.me.eq.length < 16 →
      ∃ t hdr data, exec (.rowsend v a b) s = .next t ∧
        Claims.became s t { s.me with eq := s.me.eq ++ [⟨.row hdr d data, { s.ctx s.me with core := none }, s.me.seq⟩]
                                      seq := s.me.seq + 1, pc := s.me.pc + 4 } ∧
        hdr.toNat / 2 ^ 54 = s.dev.domDev.toNat ∧ hdr.toNat / 2 ^ 52 % 4 = s.me.loc.die % 4 ∧
        hdr.toNat / 2 ^ 8 % 2 ^ 44 = (s.me.rd a).toNat / 2 ^ 8 % 2 ^ 44 ∧ hdr.toNat % 256 = rowCrc hdr.toNat ∧
        data.length = 8 * ((s.me.vlN * s.me.ew + 63) / 64) ∧
        natLE data = s.me.gstr v.toNat s.me.grp % 2 ^ (s.me.vlN * s.me.ew)) ∧
    (let va := (s.me.rd a).toNat
     let n := 16 * s.me.log.refs.length
     let u := s.orDirtyAll (s.ctx s.me) ((List.range n).map (fun i => (va + i) % 2 ^ 64))
     va % 8 = 0 → Claims.queueOpen s → s.me.log.pending = 0 →
     (∀ v ∈ [s, u], ∀ j, j < n → ∃ y, v.access (v.ctx v.me) ((va + j) % 2 ^ 64) .w = .ok y) →
     (s.dev.dieLost = 0 ∨ ∀ e ∈ s.coh.dir, e.lost = false) →
     ∃ t accs, exec (.rowack x a) s = .next t ∧ (s.me.log.refs = [] → accs = []) ∧
       t = { s with me := t.me, tenants := t.tenants, launches := t.launches, mem := t.mem, memKey := t.memKey, tlb := t.tlb, l1 := t.l1
                    coh := t.coh, reg := t.reg, amoRuns := t.amoRuns, jobs := t.jobs, peerCopies := t.peerCopies } ∧
       t.me = { s.me with s := t.me.s, busy := t.me.busy, bad := t.me.bad, log := ⟨0, [], 0, false⟩, sb := s.me.sb ++ accs, seq := s.me.seq + 1,
                          pc := s.me.pc + 4, convoy := Convoy.none, qBeats := s.me.qBeats + 1 } ∧
       Claims.wrote s t x (BitVec.ofNat 64 ((if s.me.log.ovf then 2 ^ 63 else 0) + min s.me.log.refN (2 ^ 32 - 1))) ∧
       ((∀ st ∈ s.me.ownStores, st.seq < s.me.seq) → ∀ (j : Nat) (y : Xl) (c : Byte) (fill : Bool), u.access (u.ctx u.me) ((va + j) % 2 ^ 64) .w = .ok y →
         (∀ k z, k < n → u.access (u.ctx u.me) ((va + k) % 2 ^ 64) .w = .ok z → z.pa = y.pa → k = j) →
         (Claims.refBytes s)[j]? = some c → t.seenByte t.me t.me.ownStores y.pa y.key fill = c)) ∧
    (let va := s.me.rd a
     let e := (s.me.rd b).toNat % 2 ^ 32
     va.toNat % 8 = 0 → 0x1FFFFFFFF800000 ≤ va.toNat → va.toNat + 8 ≤ 0x1FFFFFFFFC00000 → Claims.engineMay s →
     s.stuck true false = false → ∀ y, s.access (s.ctx s.me) va.toNat .r = .ok y →
     ∃ u c, State.counterOf { s with me := { s.me with qGo := false } } va = some (u, y, c) ∧
       (Claims.calm s → c = natLE ((List.range 8).map (fun i => s.keyByte (y.pa + i) y.key)) ∧ u.mem = s.mem ∧ u.me.pc = s.me.pc) ∧
       (u.dataBad y.pa = none →
         (c / 2 ^ 56 % 2 = 1 → exec (.arrwait a b) s = .next (u.trap ⟨0x10, 1, va, none, 0⟩)) ∧
         (c / 2 ^ 56 % 2 = 0 → e ≤ c % 2 ^ 32 → ∃ t, exec (.arrwait a b) s = .next t ∧ Claims.becameAcq u t { u.me with pc := u.me.pc + 4 }) ∧
         (c / 2 ^ 56 % 2 = 0 → c % 2 ^ 32 < e → exec (.arrwait a b) s =
           .next { u with me := { u.me with status := .waiting (.arrwait va.toNat e), convoy := Convoy.none } }))) ∧
    (let at_ := s.me.rd a
     let r := (s.me.rd b).toNat % 128
     let u := (s.reachRange at_.toNat 4).reachRange (at_.toNat + 8 + 8 * (r % 2)) 8
     at_.toNat % 64 = 0 → Claims.queueOpen s → s.stuck true false = false → Claims.nothingAhead s → ∀ nb sb xs ys, u.readRange u.me at_.toNat 4 = .ok (nb, xs) →
       u.readRange u.me (at_.toNat + 8 + 8 * (r % 2)) 8 = .ok (sb, ys) →
       let n := natLE nb
       ∃ t, exec (.replsel x a b) s = .next t ∧ Claims.cacheOnly u t ∧ t.me.pc = u.me.pc + 4 ∧ t.mem = u.mem ∧
         Claims.wrote u t x (if 1 ≤ n ∧ n ≤ 2 ^ 20 ∧ natLE sb = 2 ^ 63 + r then at_ + BitVec.ofNat 64 (64 + r % 2 * 8 * n) else 0))

/-- The scalar matrix words. MATTACH takes the lowest free quarters of the cluster, at most n, with cleared slots, and nothing where
quarters are held; MDETACH gives them up; MDECL declares a slot and drops links to it; MWAIT goes on once nothing is outstanding;
MZERO clears a slot, and with VL = 0 changes none. The words on slots complete under their conditions: MRANK, MTHR, MRD, MLDA,
MSTA and MRMERGE. Rests on R211, R255, R256, R257, R258, R259, R260, R261, R262, R263, R264, R265, R274, R275, R276, R277, R278,
R279, R280. Where the spec leaves a point open, it follows the model's choice of notes/assumptions 46, 95. -/
def Obligations.MatrixAttachmentAndSlots : Prop :=
  ∀ s : State, Claims.feature s 1 → s.me.slots.length = 16 →
    (Claims.queueFree s →
      (∀ n : BitVec 4, Claims.mayGo s →
        let taken (q : Nat) : Bool := s.flows.any (fun f => f.loc.clusterIdx == s.me.loc.clusterIdx && f.qm.getLsbD q)
        let got := ((List.range 4).filter (fun q => !taken q)).take n.toNat
        (Claims.rowsOf s.me = 0 → ∃ t, exec (.mattach n) s = .next t ∧
          Claims.became s t (Claims.attached s.me t.me (64 * got.length)) ∧
          ∀ q, q < 4 → (t.me.qm.getLsbD q = true ↔ q ∈ got)) ∧
        (Claims.rowsOf s.me ≠ 0 → ∃ t, exec (.mattach n) s = .next t ∧ Claims.became s t { s.me with qGo := false, pc := s.me.pc + 4 })) ∧
      (s.me.mxq = [] → ∃ t, exec .mdetach s = .next t ∧
        Claims.became s t { s.me with qm := 0, slots := List.replicate 16 (Slot.init 0), bad := t.me.bad, pc := s.me.pc + 4 }) ∧
      (Claims.rowsOf s.me ≠ 0 → s.me.mxq = [] →
        (∃ t, exec .mwait s = .next t ∧ Claims.became s t { s.me with pc := s.me.pc + 4 }) ∧
        ∀ (t : BitVec 4) (k : BitVec 5),
          let declared (u : State) (kind n : Nat) : Prop :=
            Claims.became s u { s.me with slots := u.me.slots, bad := u.me.bad, pc := s.me.pc + 4 } ∧
            Claims.slotOf u t = { Slot.init (Claims.rowsOf s.me) with kind := kind, k := n } ∧
            ∀ q : BitVec 4, q ≠ t → Claims.slotOf u q =
              (if (Claims.slotOf s q).link = some t.toNat then { Claims.slotOf s q with link := none } else Claims.slotOf s q)
          (∃ u, exec (.mdeclF32 t) s = .next u ∧ declared u 0 0) ∧ (∃ u, exec (.mdeclI32 t) s = .next u ∧ declared u 1 0) ∧
          (Claims.clean s [.s k.toNat] → 1 ≤ (s.me.rd k).toNat → (s.me.rd k).toNat ≤ 64 →
            ∃ u, exec (.mdeclRank k t) s = .next u ∧ declared u 2 (s.me.rd k).toNat))) ∧
    (∀ (c : Bool) (a b : BitVec 5) (t q : BitVec 4) (d : BitVec 6), let x := Claims.slotOf s t
      let w := if x.kind = 2 then 8 else 4
      let n := if x.kind = 2 then 8 * x.k else 512
      let at_ := (s.me.rd a).toNat
      let by_ := (s.me.rd b).toInt
      let goes (i : Instr) : Prop := ∃ u, exec i s = .next u ∧ u.me.pc = s.me.pc + 4 ∧ u.me.vq.length = s.me.vq.length + 1
      (x.kind = 2 → (Claims.slotOf s q).kind ≠ 2 → Claims.mxMay s c [.x] [.s a.toNat, .acc q.toNat, .acc t.toNat] → goes (.mrank c a t q)) ∧
      (x.kind = 2 → s.me.mxq = [] → Claims.tyF s.me.fmtc → d.toNat % s.me.grp = 0 → Claims.mxMay s c [.x] [.acc t.toNat] → goes (.mthr c d t)) ∧
      (d.toNat % s.me.grp = 0 → Claims.mxMay s c [.x] [.s a.toNat, .acc q.toNat] → Claims.tagFree s t → at_ < Claims.rowsOf s.me →
        (s.me.fmtc = 0 ∨ ((Claims.slotOf s q).kind ≠ 2 ∧ Claims.tyN s.me.fmtc)) → goes (.mrd c d a t q)) ∧
      (at_ % w = 0 → (s.me.rd b).toNat % w = 0 → Claims.calm s → s.me.fences = [] → s.dev.dieLost = 0 → s.tlb = [] →
        (Claims.rowsMay s at_ by_ n .w → Claims.mxMay s c [.x, .s] [.s a.toNat, .s b.toNat, .acc t.toNat] → goes (.msta c a b t)) ∧
        (s.bad = [] → s.badCache = [] → Claims.nothingAhead s →
          (Claims.rowsMay s at_ by_ n .r → Claims.mxMay s c [.x, .l] [.s a.toNat, .s b.toNat] → goes (.mlda c a b t)) ∧
          (x.kind = 2 → Claims.rowsMay s at_ n n .r → Claims.mxMay s c [.x, .l] [.s a.toNat, .acc t.toNat] → goes (.mrmerge c a t))))) ∧
    (∀ (c : Bool) (t : BitVec 4), s.me.convoyBad c [.x] = false → s.me.vl = 0 → s.me.vq.length < 32 → ∃ u, exec (.mzero c t) s = .next u ∧
      Claims.vecFrame s u c [.x] false ∧ u.me.v = s.me.v ∧ u.me.m = s.me.m) ∧
    (∀ (c : Bool) (t : BitVec 4), Claims.mxMay s c [.x] [] → ∃ u, exec (.mzero c t) s = .next u ∧
      Claims.mxDone s u c [.x] none { s.me with slots := Claims.setSlot s t (Claims.zeroed s t) })

/-- A MOP or MOPA that is not pruned accumulates its steps into the slot, one rounding a step; one that is pruned changes the slot's P
and count of drops alone. Rests on R72, R73, R157, R266, R267, R268, R269, R277, R330. Where the spec leaves a point open, it
follows the model's choice of notes/assumptions 46, 47, 97. -/
def Obligations.OuterProductResults : Prop :=
  ∀ (s : State) (c : Bool) (b : BitVec 6) (t : BitVec 4) (r : BitVec 3) (p : BitVec 5), s.me.slots.length = 16 →
    let n := r.toNat + 1
    let ps := Claims.mopPipes s c b
    let brefs : List RegRef := if (s.me.takesFeed c b.toNat).isSome then [] else Claims.vrefs s b
    let kt := (Claims.slotOf s t).kind
    let ktOk : Prop := kt = 0 ∨ (kt = 1 ∧ 9 ≤ s.me.fmtc ∧ s.me.fmtc ≤ 14)
    let others (u : State) (ex : List (BitVec 4)) : Prop := ∀ q : BitVec 4, q ∉ ex → Claims.slotOf u q = Claims.slotOf s q
    (∀ a : BitVec 6, s.me.fmtc ≤ 27 → a.toNat % s.me.grp = 0 → ((s.me.takesFeed c b.toNat).isSome = true ∨ b.toNat % s.me.grp = 0) → ktOk →
      Claims.mxMay s c ps ((if p = 0 then [] else [.s p.toNat]) ++ s.me.pruneReads t p ++ Claims.vrefs s a ++ brefs ++ [.acc t.toNat] ++
        s.me.scaleRefs) →
      (¬Claims.pruned s t p → Claims.svpOk s s.me.fmtc → ∃ u, exec (.mop c a b t r p) s = .next u ∧
        Claims.mxDone s u c ps none { s.me with slots := u.me.slots } ∧ others u [t] ∧
        Claims.mopSlot s u t n (fun row x => Claims.mxElem s.me a (row * n * Claims.kOf s.me.fmtc + x)) (Claims.mxB s c b)
          (fun row j => Claims.mxScale s.me 128 ((row * n + j) * Claims.kOf s.me.fmtc))) ∧
      (Claims.pruned s t p → ∃ u, exec (.mop c a b t r p) s = .next u ∧
        Claims.mxDone s u c ps none { s.me with slots := Claims.setSlot s t (Claims.dropped s t) })) ∧
    (∀ q : BitVec 4, let x := Claims.slotOf s q
      s.me.fmtc ≤ 13 → ((s.me.takesFeed c b.toNat).isSome = true ∨ b.toNat % s.me.grp = 0) → ktOk →
      (x.kind = 0 → s.me.fmtc ≤ 8) → (x.kind = 1 → 9 ≤ s.me.fmtc) → x.kind ≠ 2 → q ≠ t →
      Claims.mxMay s c ps ((if p = 0 then [] else [.s p.toNat]) ++ s.me.pruneReads t p ++ brefs ++ [.acc t.toNat, .acc q.toNat]) →
      (¬Claims.pruned s t p → ∃ u, exec (.mopa c q b t r p) s = .next u ∧
        Claims.mxDone s u c ps none { s.me with slots := u.me.slots } ∧ others u [t, q] ∧
        Claims.slotOf u q = { x with rc := (x.rc + n * Claims.kOf s.me.fmtc) % 128 } ∧
        Claims.mopSlot s u t n (fun row y => Claims.vl s.me (Claims.cv s.me (x.entryVal row ((x.rc + y) % 128)))) (Claims.mxB s c b)
          (fun _ _ => .one)) ∧
      (Claims.pruned s t p → ∃ u, exec (.mopa c q b t r p) s = .next u ∧
        Claims.mxDone s u c ps none { s.me with slots := Claims.setSlot s t (Claims.dropped s t) }))

/-- The words that rank, merge, read thresholds and move slots, MRANK, MRMERGE, MTHR, MLDA, MSTA and MRD: each completes under its
conditions, with the slot, the registers, the entry of its tag or the stores that it leaves. Rests on R272, R273, R274, R275,
R276, R278, R279. Where the spec leaves a point open, it follows the model's choice of notes/assumptions 14, 46, 95. -/
def Obligations.RankAndMoveResults : Prop :=
  ∀ (s : State) (c : Bool) (a b : BitVec 5) (t q : BitVec 4), s.me.slots.length = 16 →
    let at_ := (s.me.rd a).toNat
    let by_ := (s.me.rd b).toInt
    let x := Claims.slotOf s t
    let y := Claims.slotOf s q
    let w := if x.kind = 2 then 8 else 4
    let n := if x.kind = 2 then 8 * x.k else 512
    let words (bs : List Byte) : List Nat := (List.range x.k).map (fun e => natLE ((bs.drop (8 * e)).take 8))
    (x.kind = 2 → y.kind ≠ 2 → Claims.mxMay s c [.x] [.s a.toNat, .acc q.toNat, .acc t.toNat] →
      (y.p = true → ∃ u, exec (.mrank c a t q) s = .next u ∧
        Claims.mxDone s u c [.x] none { s.me with slots := Claims.setSlot s q { y with p := false } }) ∧
      (y.p = false → ∃ (u : State) (z : Slot), exec (.mrank c a t q) s = .next u ∧
        Claims.mxDone s u c [.x] none { s.me with slots := (Claims.setSlot s t { z with z := false }).set q.toNat (Claims.linked s q t) } ∧
        z.kind = 2 ∧ z.k = x.k ∧ z.sums = x.sums ∧
        ∀ r, r < Claims.rowsOf s.me → r < x.lists.length → z.lists.getD r [] =
          Claims.mergedList x.k (x.lists.getD r [])
            ((List.range (min s.me.vlN 128)).map (fun col =>
              (if y.kind = 1 then convert 0 .rne false (y.entryVal r col) else rowCode (y.sums.getD r 0) col) +
              2 ^ 32 * ((at_ % 2 ^ 32 + col) % 2 ^ 32))))) ∧
    (∀ bs, let v := Claims.rowsReach s at_ n n
      x.kind = 2 → at_ % 8 = 0 → Claims.mxMay s c [.x, .l] [.s a.toNat, .acc t.toNat] → s.stuck true false = false → Claims.nothingAhead s →
      Claims.rowsMay s at_ n n .r → Claims.rowsRead v at_ n n bs →
        ∃ (u : State) (z : Slot), exec (.mrmerge c a t) s = .next u ∧
          Claims.mxDone v u c [.x, .l] none { v.me with slots := Claims.setSlot v t { z with z := false } } ∧ z.kind = 2 ∧ z.k = x.k ∧
          ∀ r, r < Claims.rowsOf s.me → r < x.lists.length → z.lists.getD r [] = Claims.mergedList x.k (x.lists.getD r []) (words (bs r))) ∧
    (∀ d : BitVec 6, x.kind = 2 → s.me.mxq = [] → Claims.tyF s.me.fmtc → d.toNat % s.me.grp = 0 →
      Claims.mxMay s c [.x] [.acc t.toNat] → ∃ u, exec (.mthr c d t) s = .next u ∧
        Claims.mxDone s u c [.x] none { s.me with v := u.me.v } ∧ Claims.vOnly s.me u.me d.toNat s.me.grp ∧
        Claims.groupTakes s.me u.me d.toNat s.me.ew 15 (fun i => if i < Claims.rowsOf s.me then Claims.cv s.me (x.thr i) else 0)) ∧
    (∀ bs, let v := Claims.rowsReach s at_ by_ n
      at_ % w = 0 → (s.me.rd b).toNat % w = 0 → Claims.mxMay s c [.x, .l] [.s a.toNat, .s b.toNat] → s.stuck true false = false →
      Claims.nothingAhead s → Claims.rowsMay s at_ by_ n .r → Claims.rowsRead v at_ by_ n bs →
        ∃ (u : State) (z : Slot), exec (.mlda c a b t) s = .next u ∧
          Claims.mxDone v u c [.x, .l] none { v.me with slots := Claims.setSlot v t z } ∧
          z.kind = x.kind ∧ z.k = x.k ∧ z.z = false ∧ z.p = false ∧ z.rc = 0 ∧ z.link = x.link ∧
          (x.kind ≠ 2 → ∀ r, r < Claims.rowsOf s.me → (z.sums.getD r 0).toNat = natLE (bs r) % 2 ^ 4096) ∧
          (x.kind = 2 → ∀ r, r < Claims.rowsOf s.me → z.lists.getD r [] = Claims.mergedList x.k [] (words (bs r)))) ∧
    (let v := s.orDirtyAll (s.ctx s.me) (Claims.rowBytesOf s at_ by_ n)
     let row (r : Nat) : Nat := if x.kind = 2 then packCodes 64 (x.rowWords r) else (x.sums.getD r 0).toNat
     let place (r j : Nat) (z : Xl) : Prop :=
       r < Claims.rowsOf s.me ∧ j < n ∧ v.access (v.ctx v.me) ((Claims.rowAt at_ by_ r + j) % 2 ^ 64) .w = .ok z
     at_ % w = 0 → (s.me.rd b).toNat % w = 0 → Claims.mxMay s c [.x, .s] [.s a.toNat, .s b.toNat, .acc t.toNat] →
      (s.dev.dieLost = 0 ∨ ∀ e ∈ s.coh.dir, e.lost = false) → Claims.rowsMay s at_ by_ n .w → Claims.rowsMay v at_ by_ n .w →
      ∃ u accs, exec (.msta c a b t) s = .next u ∧
        u = { s with me := u.me, mem := u.mem, memKey := u.memKey, tlb := u.tlb, l1 := u.l1, coh := u.coh, reg := u.reg
                     amoRuns := u.amoRuns, jobs := u.jobs, peerCopies := u.peerCopies } ∧
        u.me.pc = s.me.pc + 4 ∧ u.me.slots = s.me.slots ∧ u.me.v = s.me.v ∧ u.me.s = s.me.s ∧ u.me.sb = s.me.sb ++ accs ∧
        u.me.seq = s.me.seq + Claims.rowsOf s.me ∧ u.me.mxq = s.me.mxq ++ [some (s.me.seq + Claims.rowsOf s.me - 1)] ∧
        (∀ acc ∈ accs, acc.load = false ∧ ∃ r j z, place r j z ∧ acc.seq = s.me.seq + r ∧ acc.addr = z.pa / 8 * 8 ∧ acc.key = z.key) ∧
        ((∀ st ∈ s.me.ownStores, st.seq < s.me.seq) → ∀ r j z fill, place r j z →
          (∀ r' j' z', place r' j' z' → z'.pa = z.pa → r' < r ∨ (r' = r ∧ j' = j)) →
          u.seenByte u.me u.me.ownStores z.pa z.key fill = BitVec.ofNat 8 (row r / 2 ^ (8 * j)))) ∧
    (let row := s.me.rd a
     ∀ d : BitVec 6, d.toNat % s.me.grp = 0 → Claims.mxMay s c [.x] [.s a.toNat, .acc q.toNat] → Claims.tagFree s t →
      (row.toNat = 2 ^ 64 - 1 ∨ row.toNat < Claims.rowsOf s.me) →
      (row.toNat = 2 ^ 64 - 1 ∨ y.kind = 2 → s.me.fmtc = 0 ∨ s.me.fmtc = 32 ∨ s.me.fmtc = 33) →
      (row.toNat ≠ 2 ^ 64 - 1 → y.kind ≠ 2 → Claims.tyN s.me.fmtc) →
      ∃ u e, exec (.mrd c d a t q) s = .next u ∧
        Claims.mxDone s u c [.x] none { s.me with tags := s.me.tags.set t.toNat (.pending e) } ∧
        e.dst = d.toNat ∧ e.grp = s.me.grp ∧ e.width = s.me.ew ∧ e.vl = s.me.vlN ∧ e.complete = true ∧
        ∀ i, i < s.me.vlN → aget e.data i 0 =
          (if row.toNat = 2 ^ 64 - 1 then [y.nanc.toNat, y.dropc.toNat, if y.kind = 2 then y.k else 0, y.kind].getD i 0
           else if y.kind = 2 then
             (let es := (y.lists.getD row.toNat [])
              if i < 2 * y.k then (match es[i / 2]? with
                | some p => if i % 2 = 0 then p.1.toNat else p.2.toNat
                | none => if i % 2 = 0 then 0x7FC00000 else 0xFFFFFFFF) else 0)
           else if i < 128 then Claims.cv s.me (y.entryVal row.toNat i) else 0) % 2 ^ s.me.ew)

/-- Prepare by the state of the plan, where its header can be read (log 120). No valid handle: PLAN_CAP HANDLE. Building: it waits.
Ready with no watched word covered by a store of the core: the plan. Covered: Stale by a write. Watch-lost: the index bytes are
read again and their CRC compared. Stale: PLAN_STALE with its subcode; Failed: its recorded exception; but with `.rebuild` the
plan is built again and the word waits. Rests on R207, R230, R234, R236, R241. Where the spec leaves a point open, it follows the
model's choice of notes/assumptions 52, 120. -/
def Obligations.PrepareByState : Prop :=
  ∀ (s : State) (h : Word) (r : Bool),
    (s.planOf s.me.tenant h = none → s.prepare h r = .trap s ⟨0x0A, 3, h, none, 0⟩) ∧
    ∀ p, s.planOf s.me.tenant h = some p →
      (∀ e, s.planErr p [(0, 0x78)] h = some e → s.prepare h r = .trap s e) ∧
      (s.planErr p [(0, 0x78)] h = none → s.stuck true false = false →
        let u := s.ready true false
        let stale : Trap := ⟨8, u.pSub p, h, none, 0⟩
        let failed : Trap := ⟨u.pCause p, u.pSub p, u.pFaddr p, none, 0⟩
        let src := u.pSources p
        let w := (u.reachHomes src.a src.na src.wa).reachHomes src.b src.nb src.wb
        let rehash := do
          let x ← w.rehash w.me src.a src.wa src.na 0
          let y ← w.rehash w.me src.b src.wb src.nb 0
          pure (x ++ y)
        (u.pCode p = 1 → s.prepare h r = .wait u) ∧
        (u.pCode p = 2 → u.covered u.me p = false → s.prepare h r = .ok u p) ∧
        (u.pCode p = 3 → r = false → s.prepare h r = .trap u stale) ∧
        (u.pCode p = 5 → r = false ∨ u.me.rebuilt = true → s.prepare h r = .trap u failed) ∧
        (u.pCode p = 2 ∨ u.pCode p = 4 → u.covered u.me p = true → r = false →
          ∃ t, s.prepare h r = .trap t ⟨8, 1, h, none, 0⟩ ∧ t.pCode p = 3 ∧ t.me = u.me) ∧
        (u.pCode p = 4 → u.covered u.me p = false →
          (∀ e, rehash = .error e → s.prepare h r = .trap w e) ∧
          (∀ bs, rehash = .ok bs → crc64 bs = w.planGet p 0x40 8 → w.pCode p = 4 → s.prepare h r = .ok w p) ∧
          (∀ bs, rehash = .ok bs → crc64 bs ≠ w.planGet p 0x40 8 → r = false →
            ∃ t, s.prepare h r = .trap t ⟨8, 2, h, none, 0⟩ ∧ t.pCode p = 3 ∧ t.me = w.me)) ∧
        (u.pCode p = 3 ∨ (u.pCode p = 5 ∧ u.me.rebuilt = false) → r = true →
          (u.builderFree u.me.loc.clusterIdx = false → s.prepare h r = .wait u) ∧
          (u.builderFree u.me.loc.clusterIdx = true → Claims.calm s →
            ∃ t j, s.prepare h r = .wait t ∧ t.pCode p = 1 ∧ t.me = { u.me with rebuilt := true } ∧ t.jobs = u.jobs ++ [j] ∧
              j.kind = .build ⟨p.off, false, none, [], [], [], none⟩ ∧ j.tenant = u.me.tenant ∧ j.die = u.me.loc.die ∧
              j.cluster = u.me.loc.cluster)))

/-- With room in the arena and at the builder, PLAN, PINV and PCOMP make a plan in Building and give its handle: over an index range;
of the lowest position of each duplicate group; of the outer plan's indices at the inner plan's. PSTAT reads a plan's state, 0 for
no plan; PFREE frees it, and its handle is then of no plan; PSPILL ends its residency in the cluster and PFILL begins it. Rests on
R225, R228, R240, R246, R247, R249, R250. Where the spec leaves a point open, it follows the model's choice of notes/assumptions
32, 50, 51, 90. -/
def Obligations.PlansAreBuiltAndFreed : Prop :=
  (∀ (s : State) (x a b : BitVec 5) (d : Bool) (off : Nat),
    let ib := (s.me.rd a).toNat
    let tb := (s.me.rd x).toNat
    let shape := (s.me.rd b).toNat
    let n := shape % 2 ^ 17
    let e := shape / 2 ^ 17 % 2 ^ 4
    let w := if d then 8 else 4
    let refs : List RegRef := [.s a.toNat, .s b.toNat, .s x.toNat]
    Claims.feature s 2 → Claims.clean s refs →
    (n = 0 ∨ 65536 < n ∨ 12 < e ∨ shape / 2 ^ 21 % 2 ^ 11 ≠ 0 →
      exec (.plan x a b d) s = .next (s.trap ⟨0x0A, 1, s.me.rd b, none, 0⟩)) ∧
    (1 ≤ n → n ≤ 65536 → e ≤ 12 → shape / 2 ^ 21 % 2 ^ 11 = 0 → ib % w = 0 →
      (∀ i, i < n * w → ¬Claims.barred (ib + i)) → ¬Claims.barred tb → Claims.engineMay s →
      (s.arenaFind s.me.tenant (Claims.sizeOf n) = none →
        exec (.plan x a b d) s =
          .next (State.trap { s with me := { s.me with qGo := false } } ⟨0x0A, 2, BitVec.ofNat 64 (Claims.sizeOf n), none, 0⟩)) ∧
      (Claims.planRoom s n off → ∃ t, exec (.plan x a b d) s = .next t ∧
        (Claims.calm s → s.me.s.length = 32 → Claims.planMade s t x off n tb e (shape / 2 ^ 32) ⟨0, ib, n, w, 0, 0, 4⟩ none)))) ∧
  (∀ (s s1 : State) (x a : BitVec 5) (p : PlanRec) (off : Nat), Claims.feature s 2 → Claims.clean s [.s a.toNat, .s x.toNat] →
    Claims.queueOpen s → Claims.prepared s (s.me.rd a) false s1 p → Claims.mayGo s1 →
    let src := s1.pSources p
    let u := s1.planGet p 0x58 4
    let body := [(s1.planGet p 0x68 4, 4 * s1.pN p), (s1.planGet p 0x6C 4, 4 * u)]
    (src.kind % 2 = 1 → exec (.pinv x a) s = .next (s1.trap ⟨0x0A, 4, s.me.rd a, none, 0⟩)) ∧
    (src.kind % 2 = 0 → s1.planErr p body (s.me.rd a) = none → Claims.planRoom s1 u off → ∃ t, exec (.pinv x a) s = .next t ∧
      (Claims.calm s → s1.me.s.length = 32 →
        Claims.planMade s1 t x off u (s1.me.rd x).toNat (s1.pE p) (s1.pN p) { src with kind := src.kind + 1 }
          (some ((List.range u).map (s1.pFirst p)))))) ∧
  (∀ (s s1 s2 : State) (x a b : BitVec 5) (o i : PlanRec) (off : Nat), Claims.feature s 2 → Claims.clean s [.s a.toNat, .s b.toNat] →
    Claims.queueOpen s → Claims.queueOpen s1 → Claims.prepared s (s.me.rd a) false s1 o → Claims.prepared s1 (s.me.rd b) false s2 i → Claims.mayGo s2 →
    let so := s2.pSources o
    let si := s2.pSources i
    let body (p : PlanRec) := [(s2.planGet p 0x60 4, 8 * s2.planGet p 0x58 4), (s2.planGet p 0x64 4, 4 * s2.pN p)]
    (so.kind ≠ 0 → exec (.pcomp x a b) s = .next (s2.trap ⟨0x0A, 4, s.me.rd a, none, 0⟩)) ∧
    (so.kind = 0 → si.kind ≠ 0 → exec (.pcomp x a b) s = .next (s2.trap ⟨0x0A, 4, s.me.rd b, none, 0⟩)) ∧
    (so.kind = 0 → si.kind = 0 → s2.pN o ≤ s2.planGet i 0x50 8 →
      exec (.pcomp x a b) s = .next (s2.trap ⟨9, 2, BitVec.ofNat 64 (s2.planGet i 0x50 8), none, 0⟩)) ∧
    (so.kind = 0 → si.kind = 0 → s2.planGet i 0x50 8 < s2.pN o → s2.planErr o (body o) (s.me.rd a) = none →
      s2.planErr i (body i) (s.me.rd b) = none → Claims.planRoom s2 (s2.pN i) off →
      ∃ t, exec (.pcomp x a b) s = .next t ∧
        (Claims.calm s → s2.me.s.length = 32 →
          Claims.planMade s2 t x off (s2.pN i) (s2.pTbase o) (s2.pE o) (s2.pL o) ⟨2, so.a, so.na, so.wa, si.a, si.na, si.wa⟩
            (some ((List.range (s2.pN i)).map (fun q => (s2.pIdx o).getD (s2.pUnique i (s2.pRank i q)) 0)))))) ∧
  (∀ (s : State) (x a : BitVec 5), Claims.feature s 2 → Claims.clean s [.s a.toNat] → Claims.queueOpen s →
    let h := s.me.rd a
    let cl := s.me.loc.clusterIdx
    let u := s.ready true false
    (s.planOf s.me.tenant h = none →
      (s.stuck true false = false → ∃ t, exec (.pstat x a) s = .next t ∧ Claims.gotBusy s t x 0 s.me) ∧
      ∀ i ∈ [Instr.pfree a, .pspill a, .pfill a], exec i s = .next (s.trap ⟨0x0A, 3, h, none, 0⟩)) ∧
    (∀ p, s.planOf s.me.tenant h = some p →
      (s.stuck true false = false → ∃ t res, exec (.pstat x a) s = .next t ∧ Claims.gotBusy u t x
          (BitVec.ofNat 64 (u.pCode p + 8 * (if res then 1 else 0) +
            (if u.pCode p = 3 ∨ u.pCode p = 5 then 16 * u.pSub p + 256 * u.pCause p else 0) + 2 ^ 32 * u.pN p)) u.me ∧
          (res = true → (u.me.loc.clusterIdx, p.tenant, p.off) ∈ u.resident)) ∧
      (Claims.mayGo s → ∃ t, exec (.pfree a) s = .next t ∧ Claims.paid s t 6000 ∧ t.rest = s.rest ∧ t.planOf s.me.tenant h = none ∧
        t.me = { Claims.scalarAfter s id with qGo := false } ∧ (∀ q, q ∈ t.plans ↔ q ∈ s.plans ∧ ¬(q.tenant = p.tenant ∧ q.off = p.off)) ∧
        (∀ w ∈ t.watches, ¬(w.tenant = p.tenant ∧ w.off = p.off)) ∧
        aget t.planGens (p.tenant, p.off) 1 = (if p.gen = 65535 then 1 else p.gen + 1)) ∧
      ((∀ j ∈ s.jobs, j.tenant = p.tenant → j.die * 16 + j.cluster = cl → ∀ b, j.kind = .build b → b.off ≠ p.off) →
        ∃ t, exec (.pspill a) s = .next t ∧
          t = { s with me := t.me, tenants := t.tenants, launches := t.launches, resident := s.resident.filter (fun r => r ≠ (cl, p.tenant, p.off)) } ∧
          t.me = Claims.scalarAfter s id ∧ Claims.paid s t 6000) ∧
      ∃ t, exec (.pfill a) s = .next t ∧
        t = { s with me := t.me, tenants := t.tenants, launches := t.launches, resident := t.resident } ∧
        t.me = Claims.scalarAfter s id ∧ Claims.paid s t 6000 ∧ (cl, p.tenant, p.off) ∈ t.resident))

/-- PAPPLY of a prepared plan whose body can be read. To a register: the table elements of the active positions land under its tag.
`.spm`: they are stored to the scratchpad. A position that fails stops it: VPROG names it, and what the positions below gathered
stays. Too many positions raise RANGE; a table element of another width SIZE; neither with VL = 0. Rests on R49, R51, R211, R236,
R242, R243. Where the spec leaves a point open, it follows the model's choice of notes/assumptions 16, 49, 98, 120. -/
def Obligations.PlansAreGathered : Prop :=
  ∀ (s s1 : State) (p : PlanRec) (a b : BitVec 5) (r : Bool) (x : Nat → Nat), Claims.tyD s.me.fmtc → Claims.feature s 2 → Claims.queueOpen s →
    Claims.prepared s (s.me.rd a) r s1 p → Claims.nothingAhead s1 →
    Claims.bodyRead s1 p (s.me.rd b).toNat (Claims.startAt s1.me) (Claims.active s1.me) →
    let off := (s.me.rd b).toNat
    let n := s1.me.vlN
    let start := Claims.startAt s1.me
    let sel := s1.me.act.toNat % 2 ^ n
    let at_ (s2 : State) (i : Nat) := s2.readSpan s2.me (s2.pTarget p (s2.pRank p (off + i))) (2 ^ s2.pE p)
    let done (s2 : State) (g : Flow) : Flow :=
      { g with pc := s2.me.pc + 4, convoy := Convoy.none, qBeats := s2.me.qBeats + 1, vprog := s2.me.vprog &&& 0xFFFFFFFF7FFFFFFF, rebuilt := false }
    (∀ (d : BitVec 6) (t : BitVec 4), d.toNat % s.me.grp = 0 → Claims.clean s [.s a.toNat, .s b.toNat] → Claims.svpOk s s.me.fmtc →
      Claims.tagFree s t →
      let s2 := Claims.inReachAt s1 (planRead p off) sel
      (n ≠ 0 → s1.pN p < off + n → exec (.papply d a b t r) s = .next (s1.trap ⟨9, 3, s.me.rd b, none, 0⟩)) ∧
      (n ≠ 0 → off + n ≤ s1.pN p → s1.me.ew ≠ 8 * 2 ^ s1.pE p →
        exec (.papply d a b t r) s = .next (s1.trap ⟨9, 4, BitVec.ofNat 64 (2 ^ s1.pE p), none, 0⟩)) ∧
      (n = 0 ∨ (off + n ≤ s1.pN p ∧ s1.me.ew = 8 * 2 ^ s1.pE p) → Claims.tagFree s1 t → s1.stuck true false = false →
        ((∀ i, start ≤ i → i < n → Claims.active s1.me i = true → ∃ bs xs, at_ s2 i = .ok (bs, xs) ∧ x i = natLE bs) →
          ∃ u e, exec (.papply d a b t r) s = .next u ∧ Claims.landing s1 d e x ∧ Claims.flowOnly s2 u ∧
            u.me = done s2 { s2.me with tags := s2.me.tags.set t.toNat (.pending e), bad := u.me.bad }) ∧
        (∀ k tr, start ≤ k → k < n → Claims.active s1.me k = true → at_ s2 k = .error tr →
          (∀ i, start ≤ i → i < k → Claims.active s1.me i = true → ∃ bs xs, at_ s2 i = .ok (bs, xs) ∧ x i = natLE bs) →
          ∃ u e, exec (.papply d a b t r) s = .next (State.trap u tr) ∧ Claims.flowOnly s2 u ∧
            u.me = { s2.me with tags := s2.me.tags.set t.toNat (.pending e), bad := u.me.bad, vprog := BitVec.ofNat 64 (2 ^ 31 + k) } ∧
            ∀ i, start ≤ i → i < k → Claims.active s1.me i = true → aget e.data i 0 = x i))) ∧
    (∀ y : BitVec 5,
      let dst := (s.me.rd y).toNat
      let es := 2 ^ s1.pE p
      let s2 := (s1.ready true true).reachPlaces (spmPositions s1 s1.me p off dst (n - start) start (sel / 2 ^ start)).2.1
      let tox (i j : Nat) := s2.access (s2.ctx s2.me) (dst + i * es + j) .w
      let stored (i j : Nat) (q : Xl) : Prop := start ≤ i ∧ i < n ∧ Claims.active s1.me i = true ∧ j < es ∧ tox i j = .ok q
      Claims.clean s [.s a.toNat, .s b.toNat, .s y.toNat] →
      (n ≠ 0 → off + n ≤ s1.pN p ∧ 0x1FFFFFFFF800000 ≤ dst ∧ dst + n * es ≤ 0x1FFFFFFFFC00000 ∧ dst % min es 8 = 0) →
      s1.stuck true true = false → s2.pE p = s1.pE p →
      (∀ i, start ≤ i → i < n → Claims.active s1.me i = true →
        (∃ bs xs, at_ s2 i = .ok (bs, xs) ∧ x i = natLE bs) ∧ ∀ j, j < es → ∃ q, tox i j = .ok q) →
      ∃ u, exec (.papplySpm y a b r) s = .next u ∧ Claims.flowOnly s2 u ∧
        u.me = done s2 { s2.me with sb := u.me.sb, seq := s2.me.seq + n } ∧
        ((∀ c ∈ s2.me.ownStores, c.seq < s2.me.seq) → ∀ fill,
          (∀ i j q, stored i j q → u.seenByte u.me u.me.ownStores q.pa q.key fill = BitVec.ofNat 8 (x i / 2 ^ (8 * j))) ∧
          ∀ c key, (∀ i j q, stored i j q → q.pa ≠ c) →
            u.seenByte u.me u.me.ownStores c key fill = s2.seenByte s2.me s2.me.ownStores c key fill))

/-- PSCAT of a prepared plan completes once every target may be written, and still may where the D bit of its leaf has been set.
Duplicates of one table element combine in ascending position and then with the element; `.ord` stores the element of the highest
position, `.any` one of them; no other byte changes. Rests on R68, R69, R208, R245, R397. Where the spec leaves a point open, it
follows the model's choice of notes/assumptions 14, 47, 98, 120. -/
def Obligations.PlansAreScattered : Prop :=
  ∀ (s s1 : State) (p : PlanRec) (v : BitVec 6) (a b : BitVec 5) (m : BitVec 4) (o : BitVec 3), o.toNat ≤ 4 →
    Claims.tyD s.me.fmtc → (o.toNat ≤ 2 → Claims.tyN s.me.fmtc) → v.toNat % s.me.grp = 0 → Claims.feature s 2 →
    Claims.clean s ([.s a.toNat, .s b.toNat] ++ Claims.vrefs s v ++ Claims.mrefs m) → Claims.svpOk s s.me.fmtc → Claims.queueOpen s →
    Claims.prepared s (s.me.rd a) false s1 p → Claims.bodyRead s1 p (s.me.rd b).toNat 0 (Claims.chosen s1 m) → (o.toNat ≤ 2 → Claims.mayGo s1) →
    s1.stuck (decide (o.toNat ≤ 2)) true = false → s1.me.vqDrained = true →
    let off := (s.me.rd b).toNat
    let es := 2 ^ s1.pE p
    let s2 := s1.ready (decide (o.toNat ≤ 2)) true
    let vas (u : State) := (Claims.places s1 (Claims.chosen s1 m)).map (fun i => u.pTarget p (u.pRank p (off + i)))
    let may (u : State) : Prop := (u.dev.dieLost = 0 ∨ ∀ e ∈ u.coh.dir, e.lost = false) ∧ u.pE p = s1.pE p ∧ ∀ va ∈ vas u, ∀ j, j < es →
      (∃ y, u.access (s1.ctx s1.me) ((va + j) % 2 ^ 64) .w = .ok y) ∧ (o.toNat ≤ 2 → ∃ y, u.access (s1.ctx s1.me) ((va + j) % 2 ^ 64) .r = .ok y)
    off + s1.me.vlN ≤ s1.pN p → s1.me.ew = 8 * es → may s1 → may (s2.orDirtyAll (s1.ctx s1.me) (vas s2)) →
    ∃ t, exec (.pscat v a b m o) s = .next t ∧
      (Claims.calm s → Claims.nothingAhead s1 → ∀ y : Nat → Nat → Xl, Claims.steadyTargets s2 p off m y →
        let node := if o.toNat = 0 then Claims.nodeSum s1.me else if o.toNat = 1 then Claims.nodeMax s1.me else Claims.nodeMin s1.me
        let value (u : State) (k : Nat) : Nat := natLE ((List.range es).map (fun j => u.keyByte (y k j).pa (y k j).key))
        let elem (i : Nat) : Nat := Claims.el s1 v i
        let at_ (k : Nat) : List Nat := Claims.ranked s1 p off m k
        t.me = { Claims.scalarAfter s2 id with sb := t.me.sb, seq := s2.me.seq + 1,
                                               qGo := if o.toNat ≤ 2 then false else s1.me.qGo } ∧ t.rest = s2.rest ∧
        (o.toNat ≤ 2 → t.me.sb = [] ∧
          (∀ k q qs, at_ k = q :: qs →
            value t k = node (value s2 k) (qs.foldl (fun c i => node c (elem i)) (elem q)) % 2 ^ (8 * es)) ∧
          ∀ c key, (∀ k j, at_ k ≠ [] → j < es → (y k j).pa ≠ c) → t.keyByte c key = s2.keyByte c key) ∧
        (3 ≤ o.toNat → t.mem = s2.mem ∧ ∀ fill,
          (∀ k, at_ k ≠ [] → ∃ i, (if o.toNat = 3 then (at_ k).getLast? = some i else i ∈ at_ k) ∧
              ∀ j, j < es → t.seenByte t.me t.me.ownStores (y k j).pa (y k j).key fill = BitVec.ofNat 8 (elem i / 2 ^ (8 * j))) ∧
          ∀ c key, (∀ k j, at_ k ≠ [] → j < es → (y k j).pa ≠ c) →
            t.seenByte t.me t.me.ownStores c key fill = s2.seenByte s2.me s2.me.ownStores c key fill))

/-- What becomes of a flow's words after issue. A whole convoy starts when the one before has ended; the one flow ready on a lane
group advances by an element group; a result under way is written; a pair of VXLANE exchanges; a complete entry lands; a matrix
word completes, an MSTA after its stores have ENTERed; a wait that is over ends. Rests on R51, R79, R143, R148, R178, R187, R263.
Where the spec leaves a point open, it follows the model's choice of notes/assumptions 18, 46, 77, 85. -/
def Obligations.WordsProceedAfterIssue : Prop :=
  ∀ (s : State) (k : FlowKey) (f : Flow), s.flow? k = some f →
    (∀ w ws, f.vq = w :: ws → (∀ c, f.cv = some c → ∀ j, j < 8 → nth0 c.total j ≤ nth0 c.done j) →
      (f.convoy.isOpen = false ∨ f.point ≠ none ∨ f.status = .waiting (.grant false) ∨ ∃ x ∈ ws, x.starts = true) →
      ∃ u c, exec (.evConvoyStart k) s = .next u ∧
        Claims.flowTo s u k { f with vq := ws.dropWhile (fun x => !x.starts), cv := some c } ∧
        c.words = 1 + (ws.takeWhile (fun x => !x.starts)).length ∧ c.gnt = w.gnt ∧ c.strip = w.strip ∧
        (∃ y ∈ w :: ws.takeWhile (fun x => !x.starts), c.vl = y.vl ∧ c.width = y.width) ∧
        (∀ y ∈ w :: ws.takeWhile (fun x => !x.starts), y.vl * y.width ≤ c.vl * c.width) ∧
        c.done = List.replicate 8 0 ∧ (∀ j, j < 8 → w.gnt.getLsbD j = false → nth0 c.total j = 0) ∧
        (c.vl * c.width ≤ 2048 → ∀ j, j < 8 → w.gnt = BitVec.ofNat 8 (2 ^ j) → nth0 c.total j = (c.vl * c.width + 511) / 512)) ∧
    (∀ c core j, f.loc.coreIdx = core → j < 8 → f.cv = some c → nth0 c.done j < nth0 c.total j →
      (s.ckpts = [] ∨ ∀ w ∈ c.ws, w.due = none) →
      (∀ g ∈ s.flows, g.loc.coreIdx = core → g ≠ f → g.vq = [] ∧ ∀ d, g.cv = some d → nth0 d.total j ≤ nth0 d.done j) →
      ∃ u g, exec (.evVseqAdvance core j) s = .next u ∧ u.flow? k = some g ∧
        g = { f with cv := some { c with done := c.done.set j (nth0 c.done j + 1) }, qBeats := f.qBeats + c.words, age := g.age } ∧
        u = { s with me := u.me, rest := u.rest, tenants := u.tenants, launches := u.launches, seqrs := u.seqrs } ∧
        u.tenants = s.tenants.modify f.tenant (fun x => { x with spent := x.spent + (c.aWords * 40000 + (c.words - c.aWords) * 24000) })) ∧
    (∀ (r : BitVec 5) x, r ≠ 0 → (r.toNat, x) ∈ f.busy → f.s.length = 32 →
      ∃ u g, exec (.evScalarResultWrite k r) s = .next u ∧ Claims.flowTo s u k g ∧
        g = { f with s := g.s, busy := g.busy, bad := g.bad } ∧ (∀ p ∈ g.busy, p.1 ≠ r.toNat) ∧ ∀ q, g.rd q = f.rd q) ∧
    (∀ l g n d a e b, s.flow? l = some g → k ≠ l → k.launch = l.launch → f.status = .waiting (.vxlane l.lflow n d a) →
      g.status = .waiting (.vxlane k.lflow n e b) → f.vq.length < 32 → g.vq.length < 32 →
      ∃ u f' g', exec (.evVxlaneExchange k l) s = .next u ∧ u = { s with me := u.me, rest := u.rest } ∧
        u.flow? k = some f' ∧ u.flow? l = some g' ∧ f'.status = .running ∧ g'.status = .running ∧ f'.pc = f.pc + 4 ∧ g'.pc = g.pc + 4 ∧
        (∀ r : Nat, (r < d ∨ d + f.grp ≤ r) → f'.v[r]? = f.v[r]?) ∧ (∀ r : Nat, (r < e ∨ e + g.grp ≤ r) → g'.v[r]? = g.v[r]?) ∧
        (f.par = false → g.par = false → f.vgnt = g.vgnt → f.vtype = g.vtype → f.vl = g.vl → d + f.grp ≤ 48 → a + f.grp ≤ 48 →
          e + f.grp ≤ 48 → b + f.grp ≤ 48 → f.v.length = 48 → g.v.length = 48 → f.vlN * f.ew ≤ f.grp * f.view.2 →
          Claims.groupTakes f f' d f.ew 15 (fun i => g.elem b g.grp g.ew i) ∧
            Claims.groupTakes g g' e g.ew 15 (fun i => f.elem a f.grp f.ew i))) ∧
    (∀ (t : BitVec 4) e, f.tags.getD t.toNat .free = .pending e → e.complete = true →
      ∃ u, exec (.evLandingDelivered k t) s = .next u ∧ Claims.flowTo s u k { f with tags := f.tags.set t.toNat (.landed e) }) ∧
    (∀ m rest, f.mxq = m :: rest → (∀ n, m = some n → ∀ a ∈ f.sb, a.load = true ∨ n < a.seq) →
      ∃ u, exec (.evMatrixWordComplete k) s = .next u ∧ Claims.flowTo s u k { f with mxq := rest }) ∧
    (Claims.waitOver s f → ∃ u, exec (.evWaitSatisfied k) s = .next u ∧ Claims.flowTo s u k { f with status := .running })

/-- The steps of the abstract machine where they are enabled, once the FENCEs that no longer wait are done with. A store ENTERs the
core's queue and its L1; a load TAKEs what the flow sees; a store, a load or an AMO is SENT on its path; an access PASSes from
queue to queue and APPLYs at the last: a store's enabled bits reach memory, a load's value its register, an AMO both; a load that
fails traps at its own word; a byte of an L1 or a clean byte of W_n DROPs; a dirty byte of W_n joins DQ and is written at its
peer, or dropped where that refuses it; a vector's posted write reaches the host (R433); a walk leaves a leaf that serves the
context in the TLBs of its core and cluster. Rests on R105, R107, R161, R196, R197, R198, R199, R200, R201, R395, R398, R433,
R439. Where the spec leaves a point open, it follows the model's choice of notes/assumptions 2, 15, 117. -/
def Obligations.AbstractMachineSteps : Prop :=
  ∀ s : State,
    (∀ (k : FlowKey) (f : Flow), s.flow? k = some f →
      (∀ i a g, f.sb[i]? = some a →
        let t := s.settleFences k a.seq
        t.flow? k = some g →
        (a.load = false → t.mayLeave g a = true → t.replayOf g = false →
          ∃ u, exec (.evEnter k i) s = .next u ∧ (Claims.l1HasRoom t g.loc.coreIdx →
            u = { t with me := u.me, rest := u.rest, l1 := u.l1 } ∧
            u.flow? k = some { g with sb := g.sb.erase a, cq := g.cq ++ [a] } ∧
            (a.addr % 8 = 0 → ∀ j i, j < 8 → i < 8 → (u.coreByte g.loc.coreIdx (a.addr + j) a.key).getLsbD i =
              (if a.en.getLsbD (8 * j + i) then a.data.getLsbD (8 * j + i)
               else (t.coreByte g.loc.coreIdx (a.addr + j) a.key).getLsbD i)))) ∧
        (a.load = true → t.loadMayGo g a = true → t.canTake g a = true → Claims.accessMay t a → ∃ u, exec (.evTake k i) s = .next u ∧
          u = { t with me := u.me, rest := u.rest, ckpts := u.ckpts, l1 := u.l1, peerCopies := u.peerCopies, net := u.net } ∧
          u.net.map (fun fl => fl.acc) = t.net.map (fun fl => fl.acc) ∧
          ∀ d, t.defer? k a.seq = some d → ∃ h, u.flow? k = some h ∧ h.sb = g.sb.erase a ∧
            (d.left = 1 → Claims.delivered g h d a ((List.range a.size).map (fun j =>
              t.seenByte g (g.ownStores.filter (fun b => decide (b.seq < a.seq))) (a.addr + j) a.key a.fill)))) ∧
        (a.load = true → t.loadMayGo g a = true → t.canTake g a = true → k = s.me.key → ∀ tr d, t.accErr a = some tr →
          t.defer? k a.seq = some d → d.vec = none → g.status3.getLsbD 2 = false → (t.ten g.tenant).tvec ≠ 0 →
          ∃ u, exec (.evTake k i) s = .next u ∧ u.me.pc = (t.ten g.tenant).tvec ∧ u.me.epc = d.before.pc ∧
            u.me.cause = BitVec.ofNat 64 (tr.cause + 2 ^ 8 * tr.sub) ∧ u.me.eval = tr.eval ∧ ∀ r, u.me.rd r = d.before.rd r) ∧
        (a.load = true → a.amo = none → t.loadMayGo g a = true → g.coversLoad a = false → ∃ u, exec (.evSend k (some i)) s = .next u ∧
          u = { t with me := u.me, rest := u.rest, net := t.net ++ [⟨t.pathOf g.loc a.addr a.key false, a, .flow k g.loc.coreIdx⟩] } ∧
          u.flow? k = some { g with sb := g.sb.erase a }) ∧
        (∀ q, a.amo = some q → t.amoMayGo g a q = true → ∃ u bs p, exec (.evSend k (some i)) s = .next u ∧
          u.net = t.net ++ bs ++ [⟨p, a, .flow k g.loc.coreIdx⟩] ∧ (∀ fl ∈ bs, fl.isBack = true) ∧
          (Claims.ownPlace a.addr → p = t.pathOf g.loc a.addr a.key false) ∧
          (∀ c ∈ u.peerCopies, c.key = a.key → c.addr / 128 ≠ a.addr / 128) ∧
          u.flow? k = some { g with sb := g.sb.erase a })) ∧
      (∀ a rest, f.cq = a :: rest → ∃ u, exec (.evSend k none) s = .next u ∧
        u = { s with me := u.me, rest := u.rest, net := s.net ++ [⟨s.pathOf f.loc a.addr a.key true, a, .flow k f.loc.coreIdx⟩] } ∧
        u.flow? k = some { f with cq := rest }) ∧
      ∀ j fl c d, s.net[j]? = some fl → s.headsQueue j fl = true → fl.path.length ≤ 1 → fl.origin = .flow k c →
        fl.acc.load = true → s.defer? k fl.acc.seq = some d → d.left = 1 → Claims.accessMay s fl.acc → s.watches = [] →
        Claims.l1HasRoom s c →
        (fl.acc.amo = none → ∃ u h, exec (.evApply j) s = .next u ∧ u.flow? k = some h ∧
          u.net.map (fun x => x.acc) = (s.net.eraseIdx j).map (fun x => x.acc) ∧ u.mem = s.mem ∧
          Claims.delivered f h d fl.acc ((List.range fl.acc.size).map (fun i => s.pointByte (fl.acc.addr + i) fl.acc.key))) ∧
        (∀ q, fl.acc.amo = some q → Claims.ownPlace fl.acc.addr → fl.acc.key < 256 →
          (fl.acc.size = 4 ∨ fl.acc.size = 8) → fl.acc.addr % fl.acc.size = 0 → (∀ p ∈ s.peerCopies, p.addr / 128 ≠ fl.acc.addr / 128) →
          let n := fl.acc.size
          let old := natLE (s.keyBytes fl.acc.addr fl.acc.key n)
          let new := match Claims.amoNew q (8 * n) old with | some x => x | none => old
          ∃ u h, exec (.evApply j) s = .next u ∧ u.flow? k = some h ∧ u.net = s.net.eraseIdx j ∧
            Claims.delivered f h d fl.acc (bytesLE n old) ∧
            (∀ i, i < n → u.keyByte (fl.acc.addr + i) fl.acc.key = BitVec.ofNat 8 (new / 2 ^ (8 * i))) ∧
            ∀ a key, (∀ i, i < n → a ≠ fl.acc.addr + i) → u.keyByte a key = s.keyByte a key)) ∧
    (∀ j fl, s.net[j]? = some fl → s.headsQueue j fl = true →
      (1 < fl.path.length → exec (.evPass j) s = .next { s with net := s.net.eraseIdx j ++ [{ fl with path := fl.path.drop 1 }] }) ∧
      (fl.path.length ≤ 1 → fl.acc.load = false → s.homeLost fl.acc.addr = none → s.watches = [] → fl.acc.key < 256 →
        Claims.ownPlace fl.acc.addr → fl.isBack = false → (∀ fn v, fl.origin ≠ .msi fn v) →
        ∃ u, exec (.evApply j) s = .next u ∧ Claims.stored s u fl.acc ∧ u.net = s.net.eraseIdx j ∧ u.me = s.me ∧ u.rest = s.rest) ∧
      (∀ fn v, fl.path.length ≤ 1 → fl.acc.load = false → s.homeLost fl.acc.addr = none → fl.origin = .msi fn v →
        exec (.evApply j) s = .next { s with net := s.net.eraseIdx j, dev := { s.dev with irqs := s.dev.irqs ++ [(fn, v)] } }) ∧
      ∀ owe tag tn n o, fl.path.length ≤ 1 → fl.acc.load = false → fl.origin = .back owe tag tn → regionOf fl.acc.addr = .peer n o →
        let takes : Prop := s.dev.domEn = true ∧ s.dev.reaches n = true ∧ s.dev.peerServes n tag o = true
        ∃ u, exec (.evApply j) s = .next u ∧
          (takes → s.badCache = [] → u = { s with net := s.net.eraseIdx j, mem := u.mem, memKey := u.memKey } ∧
            u.mem.get fl.acc.addr = BitVec.ofNat 8 fl.acc.data.toNat ∧ ∀ c, c ≠ fl.acc.addr → u.mem.get c = s.mem.get c) ∧
          (¬takes → (∀ c ∈ u.peerCopies, c.addr = fl.acc.addr → c.key = fl.acc.key → c.dirty = true) ∧ (s.dev.elEn = false → u.mem = s.mem))) ∧
    (∀ c a, s.canDrop c a = true → ∃ u, exec (.evDrop (some c) a) s = .next u ∧ u = { s with l1 := u.l1 } ∧
      (∀ key, u.viewByte? c a key = none) ∧
      (Claims.l1Uniq s → ∀ c' b key, c' ≠ c ∨ b ≠ a → u.viewByte? c' b key = s.viewByte? c' b key)) ∧
    (∀ a, ∃ u, exec (.evDrop none a) s = .next u ∧ u = { s with peerCopies := u.peerCopies } ∧
      ∀ p, p ∈ u.peerCopies ↔ p ∈ s.peerCopies ∧ (p.addr ≠ a ∨ p.dirty = true)) ∧
    (∀ a p n o, s.peerCopies.find? (fun p => p.addr == a && p.dirty) = some p → regionOf a = .peer n o →
      ∃ u acc, exec (.evWriteback a) s = .next u ∧
        u = { s with tenants := u.tenants, launches := u.launches, net := s.net ++ [⟨[.peer n], acc, .back p.owe p.tag p.tenant⟩],
                     peerCopies := s.peerCopies.map (fun c => if c = p then { c with dirty := false, owe := [], age := 0 } else c) } ∧
        acc.load = false ∧ acc.addr = a ∧ acc.key = p.key ∧ acc.en = 255 ∧ acc.data = BitVec.ofNat 64 p.val.toNat) ∧
    (∀ t cl k (va : Word), t < 32 → cl < 64 →
      let w := t + 32 * (cl + 64 * k)
      (∀ x, s.walk (cl / 16) t va.toNat = .error x → exec (.evTranslationWalk w va) s = .next s) ∧
      ∀ e a size, s.walk (cl / 16) t va.toNat = .ok (e, a, size) →
        let entry (p : TlbAt) : TlbEnt := ⟨p, t, va.toNat / size * size, size, BitVec.ofNat 64 e, a⟩
        (s.leafServes t e size va.toNat = false → exec (.evTranslationWalk w va) s = .next s) ∧
        (s.leafServes t e size va.toNat = true → ∃ u, exec (.evTranslationWalk w va) s = .next u ∧ u = { s with tlb := u.tlb, walks := u.walks } ∧
          entry (.cluster cl) ∈ u.tlb ∧ (k ≠ 0 → entry (.core (4 * cl + (k - 1))) ∈ u.tlb) ∧
          ∀ x ∈ u.tlb, x ∈ s.tlb ∨ x = entry (.cluster cl) ∨ (k ≠ 0 ∧ x = entry (.core (4 * cl + (k - 1))))))

/-- A copy is accepted into its engine; a lane takes its next chunk with both sides' translations, sends its reads, each of which
brings its bytes, and its writes once their bytes are there; a failure it met ends it; it comes to its release point and its
visibility point with their actions; one with a table takes its lock where that is 0, and one refused the lock tries again. Rests
on R203, R204, R205, R282, R283, R284, R286, R289, R290, R297, R397. Where the spec leaves a point open, it follows the model's
choice of notes/assumptions 54, 55, 56, 101, 102. -/
def Obligations.CopiesProceed : Prop :=
  ∀ s : State,
    (∀ (k : FlowKey) (f : Flow) (e : EqEnt) rest c, s.flow? k = some f → f.eq = e :: rest → s.engineFree k = true →
      s.orderLets f e.seq = true → e.cmd.toCopy = some c → (s.copies f.loc.clusterIdx).length < 64 →
      (∀ sub a, f.ctags.getD c.tag .free ≠ .faulted sub a) → (∀ j ∈ s.jobs, j.flow = k → ∀ d, j.kind = .copy d → d.tag ≠ c.tag) →
      ∃ u j, exec (.evAccept k) s = .next u ∧ u = { s with me := u.me, rest := u.rest, jobs := s.jobs ++ [j], nextId := s.nextId + 1 } ∧
        j.kind = .copy c ∧ j.flow = k ∧ j.ctx = e.ctx ∧ j.id = s.nextId ∧ j.die = f.loc.die ∧ j.cluster = f.loc.cluster ∧
        u.flow? k = some { f with eq := rest, ctags := f.ctags.set c.tag .active, cscope := f.cscope.set c.tag c.scope }) ∧
    ∀ (id : Nat) (j : Job) (c : Copy), s.job? id = some j → j.kind = .copy c → s.engineFree j.flow = true →
      ((∀ x ∈ c.chunks, x.err = none) →
        (c.phase = .move → c.readsLeft = [] → s.laneFree j c = true → c.held = [] → s.dev.dieLost = 0 → c.gaps ≠ [] →
          let o := (State.chunkStart { s with freeCtr := s.freeCtr + 1 } c).1
          let src := c.source o
          let va := src.1.getD 0
          let dva := (c.dst.toNat + o) % 2 ^ 64
          let n := min (min (4096 - va % 4096) (4096 - dva % 4096)) (min src.2 (c.openFrom o))
          let s1 : State := { s with freeCtr := s.freeCtr + 3 }
          let t := s1.orDirty j.ctx dva
          (∃ y, s1.access j.ctx dva .w = .ok y) → (∀ a, src.1 = some a → ∃ z, s1.access j.ctx a .r = .ok z) →
          ∀ y, t.access j.ctx dva .w = .ok y → ∀ x : Option Xl,
            (∀ a, src.1 = some a → ∃ z, x = some z ∧ t.access j.ctx a .r = .ok z) → (src.1 = none → x = none) →
            ∃ u cs k, exec (.evEaccess id false) s = .next u ∧ u.net = s.net ∧ u.me = s.me ∧ u.rest = s.rest ∧ o < c.total ∧
              (∀ r ∈ c.begun, o < r.1 ∨ r.1 + r.2 ≤ o) ∧
              u.job? id = some { j with kind := .copy { c with next := c.next + n, begun := (o, n) :: c.begun, chunks := cs ++ [k] } } ∧
              (∀ q ∈ cs, q ∈ c.chunks) ∧ k.off = o ∧ k.len = n ∧ k.src = x ∧ k.dst = y ∧
              (x = none → k.reads = [] ∧ ∀ i, i < n → aget k.got i 1 = 0)) ∧
        (c.phase = .move → c.readsLeft ≠ [] → s.laneFree j c = false → (∀ q ∈ c.readsLeft, q.1.src ≠ none) →
          ∃ u q y fl, exec (.evEaccess id false) s = .next u ∧ q ∈ c.readsLeft ∧ q.1.src = some y ∧ u.net = s.net ++ [fl] ∧
            fl.origin = .job id ∧ fl.acc.load = true ∧ fl.acc.addr = y.pa + q.2.1 ∧ fl.acc.size = q.2.2 ∧ fl.acc.key = y.key ∧
            fl.acc.seq = q.1.off ∧ fl.acc.dst = q.2.1 ∧ u.mem = s.mem ∧ u.me = s.me ∧ u.rest = s.rest ∧
            u.job? id = some { j with kind := .copy (c.modChunk q.1.off (fun x => { x with reads := x.reads.erase q.2 })) }) ∧
        (c.phase = .move → c.writesLeft ≠ [] → (∀ q ∈ c.writesLeft, s.homeLost (q.1.dst.pa + q.2.1) = none) →
          ∃ u q fl, exec (.evEaccess id true) s = .next u ∧ q ∈ c.writesLeft ∧ u.net = s.net ++ [fl] ∧ fl.origin = .job id ∧
            fl.acc.load = false ∧ fl.acc.addr = (q.1.dst.pa + q.2.1) / 8 * 8 ∧ fl.acc.key = q.1.dst.key ∧
            fl.acc.en = BitVec.ofNat 64 ((2 ^ (8 * q.2.2) - 1) * 2 ^ (8 * ((q.1.dst.pa + q.2.1) % 8))) ∧
            fl.acc.data = BitVec.ofNat 64 (natLE ((List.range q.2.2).map (fun i => aget q.1.got (q.2.1 + i) 0)) *
              2 ^ (8 * ((q.1.dst.pa + q.2.1) % 8))) ∧ u.mem = s.mem ∧ u.me = s.me ∧ u.rest = s.rest ∧
            u.job? id = some { j with kind := .copy (c.modChunk q.1.off (fun x => { x with writes := x.writes.erase q.2 })) }) ∧
        (c.phase = .move → c.next = c.total → (∀ x ∈ c.chunks, x.arrived = true ∧ x.writes = []) →
          (∃ e st b, c.form = .stream e st b) → ∃ u, exec (.evEaccess id true) s = .next u ∧
            Claims.jobTo s u id { j with kind := .copy { c with phase := .done } }) ∧
        (c.phase = .lock → ∀ desc, c.desc = some desc → desc.toNat % 64 = 0 → s.net = [] → s.watches = [] →
          (∀ i ∈ s.jobs, ∀ d, i.kind = .copy d → i.clusterIdx = j.clusterIdx → d.lock = none ∧ (d.locking = true → j.id ≤ i.id)) →
          ∀ ys x xs, s.jobXls j ((desc.toNat + 0x28) % 2 ^ 64) 8 .r = .ok ys →
            s.jobXls j ((desc.toNat + 0x28) % 2 ^ 64) 8 .w = .ok (x :: xs) → (∀ y ∈ x :: xs, y.dClear = false) → x.pa % 8 = 0 →
            x.key < 256 → Claims.ownPlace x.pa →
            (natLE (s.keyBytes x.pa x.key 8) = 0 → ∃ u, exec (.evEaccess id false) s = .next u ∧
              u.job? id = some { j with kind := .copy { c with phase := .table, lock := some x } } ∧
              natLE (u.keyBytes x.pa x.key 8) ≠ 0) ∧
            (natLE (s.keyBytes x.pa x.key 8) ≠ 0 → ∃ u, exec (.evEaccess id false) s = .next u ∧
              u.job? id = some { j with kind := .copy { c with phase := .retry } } ∧ u.mem = s.mem))) ∧
      (∀ i fl, s.net[i]? = some fl → s.headsQueue i fl = true → fl.path.length ≤ 1 → fl.origin = .job id → fl.acc.load = true →
        Claims.accessMay s fl.acc → s.watches = [] ∨ s.coh.hca = [] → ∃ u, exec (.evApply i) s = .next u ∧ u.net = s.net.eraseIdx i ∧ u.mem = s.mem ∧
          u.me = s.me ∧ u.rest = s.rest ∧
          let bs := (List.range fl.acc.size).map (fun q => (fl.acc.dst + q, s.pointByte (fl.acc.addr + q) fl.acc.key))
          u.job? id = some { j with kind := .copy (c.modChunk fl.acc.seq (fun x => { x with got := bs ++ x.got })) }) ∧
      (∀ f, s.flow? j.flow = some f →
        (∀ e w, c.chunks.findSome? (fun x => x.err) = some e → c.lock = none → (∃ e st b, c.form = .stream e st b) →
          ∃ u, exec (.evEaccess id w) s = .next u ∧ u.job? id = none ∧ u.mem = s.mem ∧
            u.flow? j.flow = some { f with ctags := f.ctags.set c.tag (.faulted e.1 (BitVec.ofNat 64 e.2)) } ∧
            u.evFlight = s.evFlight ++ [⟨j.flow, Claims.recordWord e.1 3 c.tag j.flow.lflow, c.scope⟩]) ∧
        (c.phase = .move → c.next = c.total → (∀ x ∈ c.chunks, x.arrived = true) → c.released = false → (c.rel = 2 → s.net = []) →
          ∃ u, exec (.evPoint id false) s = .next u ∧
            u.flow? j.flow = some { f with ctags := f.ctags.set c.tag .released } ∧ u.job? id = some { j with kind := .copy { c with released := true } } ∧
            u.mem = s.mem ∧ u.net = s.net ∧
            (c.rel = 1 → u.evFlight = s.evFlight ++ [⟨j.flow, Claims.recordWord c.evv 1 c.tag j.flow.lflow, c.scope⟩] ∧ u.tasks = s.tasks) ∧
            (c.rel = 2 → u.evFlight = s.evFlight ∧ u.tasks = (s.decTask c.task 1).tasks) ∧
            (c.rel ≠ 1 → c.rel ≠ 2 → u.evFlight = s.evFlight ∧ u.tasks = s.tasks)) ∧
        (c.phase = .done → c.released = true → s.jobPerformed id c.scope = true → (c.vis = 2 → s.net = []) →
          ∃ u, exec (.evPoint id true) s = .next u ∧
            u.flow? j.flow = some { f with ctags := f.ctags.set c.tag .free } ∧ u.job? id = none ∧ u.mem = s.mem ∧ u.net = s.net ∧
            (c.vis = 1 → u.evFlight = s.evFlight ++ [⟨j.flow, Claims.recordWord c.evv 2 c.tag j.flow.lflow, c.scope⟩] ∧ u.tasks = s.tasks) ∧
            (c.vis = 2 → u.evFlight = s.evFlight ∧ u.tasks = (s.decTask c.task 1).tasks) ∧
            (c.vis ≠ 1 → c.vis ≠ 2 → u.evFlight = s.evFlight ∧ u.tasks = s.tasks))) ∧
      (c.phase = .retry → ∃ u, exec (.evTableLockRetry id) s = .next u ∧ Claims.jobTo s u id { j with kind := .copy { c with phase := .lock } })

/-- A build reads an index word, and ends by what it found; the Sluice reads entries of a table, starts a Queued entry, takes a chunk
of it, moves eight of its bytes or ends it, and ends the check of a MARK that misses nothing, or traps; a row is written or
refused as it arrives, counted once its writes have APPLYed, and answered to its sender; a copy refused its table's lock tries
again, and one whose bytes are in comes to its release point. Rests on R230, R233, R240, R286, R297, R314, R316, R317, R322, R335,
R337, R343. Where the spec leaves a point open, it follows the model's choice of notes/assumptions 12, 57, 58, 59, 99. -/
def Obligations.EnginesProceed : Prop :=
  ∀ s : State,
    (∀ (id : Nat) (j : Job) (b : Build) (p : PlanRec), s.job? id = some j → j.kind = .build b → s.engineFree j.flow = true →
      s.builds j b = some p →
      (∀ base w i bound past bs, b.nextRead (s.pSources p) (s.buildBound p) = some (base, w, i, bound, past) → s.net = [] →
        s.watches = [] ∨ s.coh.hca = [] → s.idxBytes j.ctx base w i = .ok bs →
        ∃ u, exec (.evEaccess id false) s = .next u ∧ u.me = s.me ∧ u.rest = s.rest ∧ u.mem = s.mem ∧
          u.job? id = some { j with kind := .build (match bound with
            | some l => if l ≤ natLE bs then { b with err := some (past (natLE bs)) } else b.push (s.pSources p) (natLE bs)
            | none => b.push (s.pSources p) (natLE bs)) }) ∧
      (b.nextRead (s.pSources p) (s.buildBound p) = none → s.objLost p = false → s.homeLost ((s.ten p.tenant).arenaPa p.off) = none →
        ∃ u, exec (.evPlanBuildComplete id) s = .next u ∧ u.me = s.me ∧ u.rest = s.rest ∧ u.job? id = none ∧
          (b.hit = true → u.pCode p = 3 ∧ u.pSub p = 1 ∧ u.pCause p = 8) ∧
          (∀ e, b.hit = false → b.pre = none → b.result (s.pSources p) = .error e → u.pCode p = 5) ∧
          (∀ idx, b.hit = false → b.pre = none → b.result (s.pSources p) = .ok idx →
            (Claims.sizeOf idx.length ≤ s.pSize p → u.pCode p = 2 ∨ u.pCode p = 4) ∧
            (s.pSize p < Claims.sizeOf idx.length → u.pCode p = 5 ∧ u.pSub p = 2 ∧ u.pCause p = 0x0A)))) ∧
    (∀ (k : FlowKey) (f : Flow) (b : Binding), s.flow? k = some f → f.tt = some b → s.engineFree k = true →
      (b.stopping = false → b.next < b.count → b.next < b.lowUnchecked + 65 → s.net = [] → s.watches = [] ∨ s.coh.hca = [] →
        let n := max 1 (min (min (4 - (b.table.toNat + 32 * b.next) / 32 % 4) (b.count - b.next)) (b.lowUnchecked + 65 - b.next))
        ∃ u es, exec (.evTimetableLineRead k) s = .next u ∧ es.length = n ∧ u.mem = s.mem ∧
          u.flow? k = some { f with tt := some { b with ents := b.ents ++ es, next := b.next + n } }) ∧
      (∀ n e, b.ents.find? (fun x => x.idx == n) = some e →
        let put (g : TtEnt → TtEnt) : Flow := { f with tt := some { b with ents := b.ents.map (fun x => if x.idx = n then g x else x) } }
        (s.ttReady f b e = true → s.ttFits f b e = true →
          ∃ u, exec (.evTimetableEntryStart k n) s = .next u ∧ Claims.flowTo s u k (put (fun x => { x with st := 4 }))) ∧
        (e.st = 4 →
          (b.moves e = true → e.moved < e.len → e.lane = none → f.saving = false →
            let va := (e.va.toNat + e.moved) % 2 ^ 64
            let l := s.localPa b.ctx e.tier e.doff + e.moved
            let m := min (min (4096 - va % 4096) (4096 - l % 4096)) (e.len - e.moved)
            let t := if e.inward then s else s.dirtied b.ctx va
            ∀ x, t.access b.ctx va (if e.inward then .r else .w) = .ok x →
              ∃ u, exec (.evTimetableEntryDone k n) s = .next u ∧
                u.flow? k = some (put (fun q => { q with lane := some ⟨e.moved, e.moved + m, x⟩ }))) ∧
          (∀ l, b.moves e = true → e.moved < e.len → e.lane = some l → s.net = [] →
            let m := min 8 (l.hi - e.moved)
            let home := { l.home with pa := l.home.pa + (e.moved - l.lo) }
            (∀ s', s.ttPiece f b.ctx e.tier (e.doff + e.moved) home m e.inward = .ok s' →
              ∃ u, exec (.evTimetableEntryDone k n) s = .next u ∧ u.mem = s'.mem ∧
                u.flow? k = some (put (fun x => { x with moved := e.moved + m, lane := if e.moved + m < l.hi then some l else none }))) ∧
            (∀ sub, s.ttPiece f b.ctx e.tier (e.doff + e.moved) home m e.inward = .error sub →
              ∃ u, exec (.evTimetableEntryDone k n) s = .next u ∧ u.mem = s.mem ∧
                u.flow? k = some (put (fun x => { x with st := 8, cause := 0x11, sub := sub, lane := none })))) ∧
          (b.moves e = false ∨ e.len ≤ e.moved → ∃ u c, exec (.evTimetableEntryDone k n) s = .next u ∧ Claims.flowTo s u k { f with tt := some c } ∧
            (∀ x ∈ c.ents, x.idx = n → x.st = 5) ∧
            (e.inward = true → ∃ h, (⟨n, e.tier, e.doff, e.va, e.len, e.wb, e.act == 3, h⟩ : TtRec) ∈ c.recs)))) ∧
      (∀ m, b.check = some m → b.readFor m = true → b.begun = false →
        ((∀ e ∈ b.checked m, e.st = 5 ∨ e.st = 6) → (b.ents.map (fun e => e.idx)).Nodup →
          ∃ u g c, exec (.evMarkCheckComplete k) s = .next u ∧ u.mem = s.mem ∧ u.flow? k = some g ∧ g = { f with pc := f.pc + 4, ttcur := g.ttcur, tt := some c } ∧
            g.ttcur.toNat = max (f.ttcur.toNat % 2 ^ 16) m % 2 ^ 64 ∧ c.check = none ∧ c.misses = min b.misses 65535 ∧
            ∀ e ∈ c.ents, e.need ≤ m → e.chk = true) ∧
        (b.mode = 0 → (∃ e ∈ b.checked m, e.st ≠ 5 ∧ e.st ≠ 6) → k = s.me.key → Claims.handled s →
          ∃ u, exec (.evMarkCheckComplete k) s = .next u ∧ u.me.cause = 0x10B ∧ u.me.epc = s.me.pc ∧
            u.me.pc = (s.ten s.me.tenant).tvec ∧ u.me.ttcur = s.me.ttcur))) ∧
    (∀ (k : FlowKey) (f : Flow) hdr dst data (x : Ctx) q rest, s.flow? k = some f → f.eq = ⟨.row hdr dst data, x, q⟩ :: rest →
      s.engineFree k = true → s.orderLets f q = true → f.log.pending < 64 →
      ∃ u r, exec (.evAccept k) s = .next u ∧ u = { s with me := u.me, rest := u.rest, rows := s.rows ++ [r], nextId := s.nextId + 1 } ∧
        r.sender = k ∧ r.hdr = hdr ∧ r.dst = dst ∧ r.data = data ∧ r.st = .sent ∧
        u.flow? k = some { f with eq := rest, log := { f.log with pending := f.log.pending + 1 } }) ∧
    (∀ (id : Nat) (j : Job) (c : Copy), s.job? id = some j → j.kind = .copy c → s.engineFree j.flow = true →
      (c.phase = .retry → ∃ u, exec (.evTableLockRetry id) s = .next u ∧ Claims.jobTo s u id { j with kind := .copy { c with phase := .lock } }) ∧
      (∀ f, s.flow? j.flow = some f → c.phase = .move → c.next = c.total → (∀ x ∈ c.chunks, x.arrived = true) → c.released = false → c.rel = 0 →
        ∃ u, exec (.evPoint id false) s = .next u ∧ u.job? id = some { j with kind := .copy { c with released := true } } ∧
          u.flow? j.flow = some { f with ctags := f.ctags.set c.tag .released })) ∧
    ∀ r : Row, Claims.rowHere s r →
      let n := 8 + r.data.length
      let a := dstBase r.dst + dstCtr r.dst
      let ctr := natLE (s.keyBytes a 0 8)
      let round := ctr / 2 ^ 57 % 128
      let hr := r.hdr.toNat / 2 ^ 22 % 128
      let here (o m : Nat) : Prop := s.spmAllocated r.tenant (dstDie r.dst) o m = true
      let good : Prop := here (dstRow r.dst) n ∧ here (dstCtr r.dst) 8
      let clear : Prop := ∀ fl ∈ s.net, fl.path.head? ≠ some (dstBank r.dst (dstCtr r.dst))
      (r.st = .sent → dstDev r.dst = s.dev.domDev.toNat → clear →
        ∃ u, exec (.evRowArrive r.id) s = .next u ∧
          (s.dev.dieLost.getLsbD (dstDie r.dst) = true → Claims.rowAnswered u r.id 4 ∧ u.mem = s.mem) ∧
          (s.dev.dieLost.getLsbD (dstDie r.dst) = false → ¬good → Claims.rowAnswered u r.id 3 ∧ u.mem = s.mem) ∧
          (s.dev.dieLost.getLsbD (dstDie r.dst) = false → good →
            (rowCrc r.hdr.toNat ≠ r.hdr.toNat % 256 → Claims.rowAnswered u r.id 2) ∧
            (rowCrc r.hdr.toNat = r.hdr.toNat % 256 →
              (hr ≠ round → (hr + 1) % 128 ≠ round → Claims.rowAnswered u r.id 1 ∧ u.mem = s.mem) ∧
              (hr = round ∨ (hr + 1) % 128 = round → u.mem = s.mem ∧ (∀ q ∈ u.rows, q.id = r.id → q.st = .written) ∧
                ∃ fs, u.net = s.net ++ fs ∧ fs.length = (n + 7) / 8 ∧ ∀ fl ∈ fs, fl.origin = .row r.id ∧ fl.acc.load = false)))) ∧
      (r.st = .sent → dstDev r.dst ≠ s.dev.domDev.toNat → s.dev.domEn = false ∨ s.dev.reaches (dstDev r.dst) = false →
        ∃ u, exec (.evRowArrive r.id) s = .next u ∧ Claims.rowAnswered u r.id 4 ∧ u.mem = s.mem) ∧
      (r.st = .written → (∀ fl ∈ s.net, fl.origin ≠ .row r.id) → clear → s.watches = [] → ∃ u, exec (.evRowCounterIncrement r.id) s = .next u ∧
        (round = hr ∨ round = (hr + 1) % 128 → Claims.rowAnswered u r.id 0 ∧
          natLE (u.keyBytes a 0 8) = ctr / 2 ^ 32 * 2 ^ 32 + (ctr + 1) % 2 ^ 32) ∧
        (round ≠ hr → round ≠ (hr + 1) % 128 → Claims.rowAnswered u r.id 1 ∧ u.mem = s.mem)) ∧
      (∀ f m, r.st = .answered m → s.flow? r.sender = some f → ∃ u g, exec (.evRowAnswer r.id) s = .next u ∧
        u = { s with me := u.me, rest := u.rest, rows := u.rows } ∧ (∀ q, q ∈ u.rows ↔ q ∈ s.rows ∧ q.id ≠ r.id) ∧
        u.flow? r.sender = some g ∧ g = { f with log := g.log } ∧ g.log.pending = f.log.pending - 1 ∧
        (m = 0 → g.log = { f.log with pending := f.log.pending - 1 }) ∧ (m ≠ 0 → g.log.refN = f.log.refN + 1))

/-- A Ready task is dispatched to its flow; a flow at the return sentinel whose words are done ends its task; a record is received or
lost to a full queue; a full barrier is released; a window and a replay quantum turn over; a flow at a point, or forced, is saved,
and a saved flow resumes from its record. Rests on R54, R179, R180, R209, R308, R310, R311, R312, R364, R376, R377, R378, R379,
R380, R384. Where the spec leaves a point open, it follows the model's choice of notes/assumptions 5, 63, 64, 103. -/
def Obligations.TasksRunEndAndAreSaved : Prop :=
  ∀ s : State,
    (∀ die t f l, s.nextTask die = some (t, f) → s.flow? f.key = some f → s.launch? t.launch = some l →
      ∃ u g, exec (.evTaskDispatch die) s = .next u ∧ u.mem = s.mem ∧ u.flow? f.key = some g ∧ g.status = .running ∧ g.pc = t.pc ∧
        (let sp := BitVec.ofNat 64 (l.stack.toNat + (f.key.lflow + 1) * l.stacksz)
         ∀ q : BitVec 5, g.rd q = (if q = 1 then 0xFFFFFFFFFFFFFFF0 else if q = 2 then sp else if q = 3 then sp else if q = 4 then t.arg
           else if q = 5 then BitVec.ofNat 64 (t.gen * 2 ^ 16 + t.die * 2 ^ 14 + t.entry) else 0)) ∧
        g.v = List.replicate 48 0 ∧ g.m = List.replicate 12 0 ∧ g.vl = 0 ∧ g.svp = 0 ∧ g.vprog = 0 ∧ g.vgnt = 0 ∧ g.vtype = 0x0F20 ∧
        g.status3 = 0 ∧ g.tags = List.replicate 16 .free ∧ g.qm = 0 ∧ g.loop = none ∧ g.ctags = f.ctags ∧ g.log = f.log ∧ g.events = f.events ∧
        u.tasks = s.tasks.map (fun x => if x.die = t.die ∧ x.entry = t.entry then { x with st := .running } else x)) ∧
    (∀ k f t, s.flow? k = some f → f.status = .running → f.pc = 0xFFFFFFFFFFFFFFF0 → f.point = none → s.wordsDone f = true →
      s.engineFree k = true → f.tt = none → s.tasks.find? (fun x => x.st == .running && x.handle == f.task) = some t → t.done = 0 →
      ∃ u g, exec (.evTaskEnd k) s = .next u ∧ u.mem = s.mem ∧ u.flow? k = some g ∧ g.status = .idle ∧ g.loop = none ∧ g.frags = [] ∧
        g.vgnt = 0 ∧ g.qm = 0 ∧ g.tags = List.replicate 16 .free ∧ g.v = f.v ∧ g.s = f.s ∧ g.ctags = f.ctags ∧
        (∀ x, x ∈ u.tasks ↔ x ∈ s.tasks ∧ ¬(x.die = t.die ∧ x.entry = t.entry)) ∧
        aget u.taskGens (t.die, t.entry) 1 = (if t.gen = 65535 then 1 else t.gen + 1)) ∧
    (∀ n e f, s.evFlight[n]? = some e → s.flow? e.dest = some f → ∃ u, exec (.evEventRecordDelivered n) s = .next u ∧
      u = { s with me := u.me, rest := u.rest, evFlight := s.evFlight.eraseIdx n } ∧
      (f.events.length < 32 → u.flow? e.dest = some { f with events := f.events ++ [(e.word, e.scope)] }) ∧
      (32 ≤ f.events.length → u.flow? e.dest = some { f with evOvf := true })) ∧
    (∀ id g l, s.launch? id = some l → (∃ m, (g, m) ∈ l.groups) →
      (∀ m, (g, m) ∈ l.groups → aget l.barDone g 0 < aget l.barArr (m, g) 0) → Claims.calm s →
      ∃ u m, exec (.evBarRelease id g) s = .next u ∧ u.launch? id = some m ∧ aget m.barDone g 0 = aget l.barDone g 0 + 1 ∧ u.me = s.me ∧
        u.rest = s.rest ∧ u.mem = s.mem) ∧
    (∃ u, exec .evWindowBoundary s = .next u ∧
      u = { s with dev := { s.dev with clock := s.dev.clock + 10 ^ 6 }, tenants := u.tenants, me := { s.me with enTrapped := false },
                   rest := s.rest.map (fun f => { f with enTrapped := false }) } ∧
      u.tenants = s.tenants.map (fun x =>
        let e := min (x.spent / 10 ^ 9 - x.share) x.share
        { x with spent := e * 10 ^ 9, capped := x.live && decide (x.share ≤ e) })) ∧
    (∀ t, s.boundaryDue t = true → ∃ ks : List FlowKey, exec (.evReplayBoundary t) s =
        .next { s with replayQ := ks.map (fun k => (k, false)) ++ ks.map (fun k => (k, true)) } ∧
      ∀ f ∈ s.flows, f.tenant = t → f.status ≠ .free → f.key ∈ ks) ∧
    (∀ (f : Flow) p, f.s.length = 32 →
      let bs := s.saveRecord f p
      let at_ (o : Nat) := natLE ((bs.drop o).take 8)
      at_ 8 = f.pc.toNat ∧ at_ 0x10 = f.avl.toNat ∧ at_ 0x28 = f.vl.toNat ∧ at_ 0x30 = f.vtype.toNat ∧ at_ 0x38 = f.svp.toNat ∧
        at_ 0x40 = f.vprog.toNat ∧ at_ 0x48 = f.status3.toNat ∧ at_ 0x50 = f.epc.toNat ∧ at_ 0x58 = f.eval.toNat ∧
        at_ 0x60 = f.cause.toNat ∧ ∀ r : BitVec 5, at_ (0x80 + 8 * r.toNat) = (f.rd r).toNat) ∧
    (∀ k f, s.flow? k = some f → f.preq = true → (f.tt = none ∨ s.net = []) →
      (∀ p, f.pointOf = some p → f.holdsTag = false ∨ f.point = some .forced → s.saveReady f = true →
        (∀ off, s.saveRoom f p = some off → ∃ u g, exec (.evPreemptSave k) s = .next u ∧
          u.saves = s.saves ++ [⟨k, f.tenant, off, (s.saveRecord f p).length,
            (match f.tt with | some b => (b.ents.filter (fun e => e.evNew)).map (fun e => e.idx) | none => [])⟩] ∧ u.flow? k = some g ∧ g.status = .saved ∧
          g.qm = 0 ∧ g.vgnt = 0 ∧ g.tt = none ∧ g.loop = none ∧
          (∀ t, (f.tags.getD t .free).entry ≠ none → g.tags.getD t .free = .lost) ∧
          (f.tt = none → f.cq = [] → s.watches = [] → s.dev.dieLost = 0 →
            u.keyBytes ((s.ten f.tenant).arenaPa off) (s.ten f.tenant).rootKey (s.saveRecord f p).length = s.saveRecord f p)) ∧
        (s.saveRoom f p = none → f.point ≠ none ∨ f.noRoom = false →
          ∃ u g, exec (.evPreemptSave k) s = .next u ∧ Claims.flowTo s u k g ∧ g.point = none ∧ g.noRoom = true ∧
          g.status = f.status ∧ g.tags = f.tags)) ∧
      (f.status = .running → f.point = none → f.noRoom = false → f.fetch = none → f.pc ≠ 0xFFFFFFFFFFFFFFF0 →
        ∃ u, exec (.evForcedPreemption k) s = .next u ∧ Claims.flowTo s u k { f with point := some .forced })) ∧
    ∀ (r : SaveRec) (p : Loc) (f : Flow) (l : Launch), s.nextResume = some (r, p) → s.flow? r.key = some f → s.launch? r.key.launch = some l →
      f.busy = [] → f.tt = none →
      let bs := s.recordOf r
      let at_ (o : Nat) := BitVec.ofNat 64 (natLE ((bs.drop o).take 8))
      (natLE ((bs.drop 0x70).take 8) = 0 ∨ (p.clusterIdx = f.loc.clusterIdx ∧ s.net = [] ∧ s.watches = [])) → vtypeBad (at_ 0x30) = false →
      ∃ u g, exec (.evResume r.key) s = .next u ∧ (∀ q, q ∈ u.saves ↔ q ∈ s.saves ∧ q ≠ r) ∧ u.mem = s.mem ∧ u.flow? r.key = some g ∧
        g.loc = p ∧ g.status = .running ∧ g.pc = at_ 8 ∧ g.avl = at_ 0x10 ∧ g.vtype = at_ 0x30 ∧ g.svp = at_ 0x38 &&& 0x7F ∧ g.epc = at_ 0x50 ∧ g.eval = at_ 0x58 ∧
        g.cause = at_ 0x60 &&& 0xFFFF ∧ ∀ q : BitVec 5, g.rd q = (if q = 0 then 0 else at_ (0x80 + 8 * q.toNat))

/-- A record of 64 bytes joins its tenant's queue, or is dropped with LSTOVF or LSTBAD; the router refuses the head of a level, asks
for flows, or places it: flows, descriptor, zeroed scratchpad and root tasks; a task runs on its flow from dispatch to end, with
records delivered and barriers released; a launch of which nothing is on its way ends. Rests on R350, R351, R352, R353, R354,
R355, R356, R357, R375, R460. Where the spec leaves a point open, it follows the model's choice of notes/assumptions 61, 62. -/
def Obligations.LaunchRecordsAreQueuedPlacedAndEnded : Prop :=
  ∀ s : State,
    (∀ t off bytes, let put (g : Tenant → Tenant) (fs : List Flight) : State := { s with tenants := s.tenants.modify t g, net := fs }
      (t ≠ 0 → s.dev.bootResult ≠ 0 → exec (.evLaunchPortWrite t off bytes) s = .next s) ∧
      (t = 0 ∨ s.dev.bootResult = 0 →
        (off = 0 → bytes.length = 64 → (s.ten t).queue.length < 64 → exec (.evLaunchPortWrite t off bytes) s =
          .next (put (fun x => { x with queue := x.queue ++ [bytes] }) s.net)) ∧
        (off ≠ 0 ∨ bytes.length ≠ 64 → exec (.evLaunchPortWrite t off bytes) s =
          .next (put (fun x => { x with lstBad := true }) (Claims.rang s t 0))) ∧
        (off = 0 → bytes.length = 64 → 64 ≤ (s.ten t).queue.length → exec (.evLaunchPortWrite t off bytes) s =
          .next (put (fun x => { x with lstOvf := true }) (Claims.rang s t 0))))) ∧
    (∀ t prio, let un (f : Flow) : Flow := { f with asked := f.asked.filter (fun x => x != 1 + 4 * t + prio) }
      (s.ten t).live = true → (∀ p, prio < p → p < 4 → (s.routeHead t p).acts = false) →
      (∀ i r k ps ls, s.routeHead t prio = .place i r k ps ls → s.savedFirst prio = false →
        ∃ (u : State) (l : Launch) (ts : List Task), exec (.evLaunchPlace t prio) s = .next u ∧
          (u.ten t).queue = (s.ten t).queue.eraseIdx i ∧ u.me = un s.me ∧
          u.rest = s.rest.map un ++ ls.zipIdx.map (fun p => { Flow.init ⟨s.nextId, p.2⟩ p.1 t with status := .idle }) ∧
          u.launches = s.launches ++ [l] ∧ l.id = s.nextId ∧ l.tenant = t ∧ l.entry = BitVec.ofNat 64 k.entry ∧
          l.arg = BitVec.ofNat 64 r.arg ∧ l.stack = BitVec.ofNat 64 r.stack ∧ l.stacksz = r.stacksz ∧ l.done = BitVec.ofNat 64 r.done ∧
          l.vec = r.vec ∧ l.prio = r.prio ∧ l.lgreq = r.lgreq ∧ l.affin = r.affin ∧ l.spmOff = r.spmOff ∧ l.spmLen = r.spmLen ∧
          l.groups = ps ∧ l.counts = r.flows ∧
          u.tasks = s.tasks ++ ts ∧ (∀ x ∈ ts, x.launch = s.nextId ∧ x.tenant = t ∧ x.st = .ready ∧ x.pc = BitVec.ofNat 64 k.entry ∧
            x.arg = BitVec.ofNat 64 r.arg ∧ x.prio = r.prio ∧ x.lgreq = r.lgreq ∧ x.est = r.est ∧ x.done = 0 ∧
            ∃ n loc, x.bound = some n ∧ ls[n]? = some loc ∧ x.die = loc.die ∧ (r.roots = false → n = 0)) ∧
          (r.roots = false → ∀ loc e, ls[0]? = some loc → s.freeEntry loc.die = some e → ∃ x, ts = [x] ∧ x.entry = e) ∧
          (∀ a, Claims.inRange r a → u.mem.get a = 0) ∧
          (s.watches = [] → ∀ a, ¬Claims.inRange r a → u.mem.get a = s.mem.get a)) ∧
      (∀ i r n, s.routeHead t prio = .refuse i r n → BitVec.ofNat 64 r.done = 0 →
        let v : State := { s with
          me := un s.me, rest := s.rest.map un, tenants := s.tenants.modify t (fun x => { x with queue := x.queue.eraseIdx i }),
          net := if r.vec = 0 then s.net else Claims.rang s t r.vec }
        (r.bad = true → exec (.evLaunchPlace t prio) s = .next v) ∧
        ∃ u, exec (.evLaunchPlace t prio) s = .next u ∧ u.me = v.me ∧ u.rest = v.rest ∧ u.tenants = v.tenants ∧ u.net = v.net ∧
          u.dev = s.dev ∧ u.launches = s.launches ∧ u.tasks = s.tasks ∧ (s.watches = [] → u.mem = s.mem)) ∧
      (∀ r n, s.routeHead t prio = .lacks r n → ∃ u, exec (.evLaunchPlace t prio) s = .next u ∧ u = { s with me := u.me, rest := u.rest } ∧
        ∀ k f, s.flow? k = some f → ∃ b g, u.flow? k = some g ∧ g = { f with preq := f.preq || b, asked := g.asked } ∧
          (b = false → g.asked = f.asked) ∧ ((s.flows.map (·.key)).Nodup → b = true → Claims.atWork f)) ∧
      (s.routeHead t prio = .wait → exec (.evLaunchPlace t prio) s = .next s)) ∧
    (∀ die t f l, s.nextTask die = some (t, f) → s.flow? f.key = some f → s.launch? t.launch = some l →
      ∃ u g, exec (.evTaskDispatch die) s = .next u ∧ u.flow? f.key = some g ∧ g.task = t.handle ∧ g.status = .running ∧ g.pc = t.pc) ∧
    (∀ k f t, s.flow? k = some f → f.status = .running → f.pc = 0xFFFFFFFFFFFFFFF0 → f.point = none → s.wordsDone f = true →
      s.engineFree k = true → f.tt = none → s.tasks.find? (fun x => x.st == .running && x.handle == f.task) = some t → t.done = 0 →
      ∃ u g, exec (.evTaskEnd k) s = .next u ∧ u.flow? k = some g ∧ g.status = .idle) ∧
    (∀ n e, s.evFlight[n]? = some e → ∃ u, exec (.evEventRecordDelivered n) s = .next u ∧ u.evFlight = s.evFlight.eraseIdx n) ∧
    (∀ id g l, s.launch? id = some l → (∃ m, (g, m) ∈ l.groups) →
      (∀ m, (g, m) ∈ l.groups → aget l.barDone g 0 < aget l.barArr (m, g) 0) → Claims.calm s →
      ∃ u m, exec (.evBarRelease id g) s = .next u ∧ u.launch? id = some m ∧ aget m.barDone g 0 = aget l.barDone g 0 + 1) ∧
    ∀ id l, s.launch? id = some l → s.launchBusy l = false → Claims.still s →
      ∃ u, exec (.evLaunchEnd id) s = .next u ∧ u.launches = s.launches.filter (fun m => m.id != id) ∧
        u.rest = s.rest.filter (fun f => f.key.launch != id) ∧ (s.me.key.launch ≠ id → u.me = s.me) ∧
        (s.me.key.launch = id → u.me = Flow.init ⟨0, 0⟩ ⟨0, 0, 0, 0⟩ 0) ∧ u.saves = s.saves.filter (fun r => r.key.launch != id) ∧
        (s.peerCopies = [] → (∀ n, n ≠ l.tenant → u.ten n = s.ten n) ∧
          (l.done = 0 → s.dev.retcl = 0 →
            u.mem = s.mem ∧ u.dev = s.dev ∧ u.net = if l.vec = 0 then s.net else Claims.rang s l.tenant l.vec))

/-- A write of STATE sets a tenant live where R349's conditions hold, ends its context with END, and otherwise writes REPLAY and
ENTRAP; a context that ends leaves nothing; PARTADDR reads the array at once; a SHARE or CAPUJ that would break the cap is ignored
with a status bit; TVECT is kept; PREEMPT asks the flows of the tenants it names; a window and a replay quantum end, and a flow
that is asked is saved, or forced to a point, and resumes where a record waits for a place. Rests on R209, R348, R349, R362, R364,
R370, R375, R376, R377, R380. Where the spec leaves a point open, it follows the model's choice of notes/assumptions 4. -/
def Obligations.ContextsAreSetAndEnded : Prop :=
  ∀ s : State,
    (∀ t (v : Word), t ≤ 16 →
      let modes (x : Tenant) : Tenant := { x with replay := v.getLsbD 1 && s.dev.featLock && (s.dev.featAcc.getD 0 0).getLsbD 5, entrap := v.getLsbD 2 }
      (v.getLsbD 3 = false → v.getLsbD 0 = true → (s.ten t).live = false → s.liveOk t = true → ∃ u, exec (.evTenantSetLive t v) s = .next u ∧
        Claims.tenantTo s u t (fun x => { modes x with live := true, ucount := 0, tvec := x.tvect })) ∧
      (v.getLsbD 3 = false ∨ (s.ten t).live = false → v.getLsbD 0 = false ∨ (s.ten t).live = true ∨ s.liveOk t = false →
        ∃ u, exec (.evTenantSetLive t v) s = .next u ∧ Claims.tenantTo s u t modes) ∧
      (v.getLsbD 3 = true → (s.ten t).live = true →
        exec (.evTenantSetLive t v) s = exec (.evTenantEnd t) { s with tenants := s.tenants.modify t modes })) ∧
    (∀ t, (s.ten t).live = true → Claims.still s → ∃ u, exec (.evTenantEnd t) s = .next u ∧ (u.ten t).live = false ∧ (u.ten t).queue = [] ∧
      (u.ten t).preempt = false ∧ (u.ten t).spent = 0 ∧ (∀ o, aget u.planGens (t, o) 1 = 1) ∧ (s.peerCopies = [] → ∀ n, n ≠ t → u.ten n = s.ten n) ∧ (∀ l ∈ u.launches, l.tenant ≠ t) ∧ (∀ p ∈ u.plans, p.tenant ≠ t) ∧
      (∀ r ∈ u.saves, r.tenant ≠ t) ∧ (∀ e ∈ u.tlb, e.tenant ≠ t) ∧
      (∀ l ∈ s.launches, l.tenant = t → (∀ f ∈ u.rest, f.key.launch ≠ l.id) ∧ ∀ x ∈ u.tasks, x.launch ≠ l.id) ∧
      (s.peerCopies = [] → ∀ l ∈ s.launches, (∀ m ∈ s.launches, m.id = l.id → m.tenant ≠ t) → l ∈ u.launches)) ∧
    (∀ t (v : Word), ∃ u, exec (.evPartaddrWrite t v) s = .next u ∧
      Claims.tenantTo s u t (fun x => { x with partaddr := v, part := (List.range 256).map (fun j => s.keyByte (v.toNat + j) 0) })) ∧
    (∀ t (v : Word), let ts := s.tenants.modify t (fun x => { x with
        share := v.toNat, capped := x.capped || (x.live && decide (x.share ≤ x.spent / 10 ^ 9)) })
      exec (.evShareWrite t v) s = .next (if s.dev.capuj < Claims.shares ts then { s with dev := { s.dev with pfStatus := true } }
        else { s with tenants := ts })) ∧
    (∀ v : Word, exec (.evCapujWrite v) s = .next (if v.toNat < Claims.shares s.tenants then { s with dev := { s.dev with pfStatus := true } }
      else { s with dev := { s.dev with capuj := v.toNat } })) ∧
    (∀ t (v : Word), ∃ u, exec (.evTvectWrite t v) s = .next u ∧
      Claims.tenantTo s u t (fun x => { x with tvec := BitVec.ofNat 64 (v.toNat / 4 * 4), tvect := BitVec.ofNat 64 (v.toNat / 4 * 4) })) ∧
    (∃ u, exec .evWindowBoundary s = .next u ∧ u.dev = { s.dev with clock := s.dev.clock + 10 ^ 6 } ∧ u.mem = s.mem) ∧
    (∀ t, s.boundaryDue t = true → ∃ u, exec (.evReplayBoundary t) s = .next u ∧ u.me = s.me ∧ u.rest = s.rest ∧ u.mem = s.mem ∧
      ∀ f ∈ s.flows, f.tenant = t → f.status ≠ .free → (f.key, true) ∈ u.replayQ) ∧
    (∀ k f, s.flow? k = some f → f.tt = none →
      (∀ p off, f.preq = true → f.pointOf = some p → f.holdsTag = false → s.saveReady f = true → s.saveRoom f p = some off →
        ∃ u g, exec (.evPreemptSave k) s = .next u ∧ u.flow? k = some g ∧ g.status = .saved) ∧
      (f.preq = true → f.noRoom = false → f.fetch = none → f.status = .running → f.point = none → f.pc ≠ 0xFFFFFFFFFFFFFFF0 →
        ∃ u g, exec (.evForcedPreemption k) s = .next u ∧ u.flow? k = some g ∧ g.point = some .forced)) ∧
    (∀ (r : SaveRec) (p : Loc) (f : Flow) (l : Launch), s.nextResume = some (r, p) → s.flow? r.key = some f →
      s.launch? r.key.launch = some l → f.busy = [] → f.tt = none → natLE (((s.recordOf r).drop 0x70).take 8) = 0 →
      vtypeBad (BitVec.ofNat 64 (natLE (((s.recordOf r).drop 0x30).take 8))) = false →
      ∃ u g, exec (.evResume r.key) s = .next u ∧ u.flow? r.key = some g ∧ g.loc = p ∧ g.status = .running) ∧
    ∀ v : Word, ∃ u, exec (.evPreemptWrite v) s = .next u ∧ u = { s with me := u.me, rest := u.rest, tenants := u.tenants } ∧
      (∀ k f, s.flow? k = some f →
        (Claims.atWork f → f.tenant ≤ 16 → v.getLsbD f.tenant = true →
          ∃ g, u.flow? k = some g ∧ g = { f with preq := true, asked := g.asked } ∧ 0 ∈ g.asked) ∧
        (¬Claims.atWork f ∨ 16 < f.tenant ∨ v.getLsbD f.tenant = false → u.flow? k = some f)) ∧
      ∀ (t : Nat) (x : Tenant), s.tenants[t]? = some x → u.tenants[t]? =
        some { x with preempt := x.preempt || (decide (t ≤ 16) && v.getLsbD t && u.flows.any (fun f => f.tenant == t && f.asked.contains 0)) }

/-- A write of a BAR register does what the register's rule says; an offset that no rule lists, a live tenant's record and, after a
failed boot, every register but the physical function's BAR 0 ignore it; reserved bits listed RW hold what is written (log 68).
Rests on R220, R348, R351, R400, R420, R432, R437, R446, R450, R453, R455. Where the spec leaves a point open, it follows the
model's choice of notes/assumptions 68, 69, 70, 105. -/
def Obligations.RegisterWritesReachTheirRegisters : Prop :=
  ∀ (s : State) (v : Word),
    let go (off : Nat) := exec (.evRegisterWrite (.bar2 off) v) s
    let dev (d : Device) : Res := .next { s with dev := d }
    let ten (t : Nat) (g : Tenant → Tenant) : Res := .next { s with tenants := s.tenants.modify t g }
    (s.dev.bootResult ≠ 0 → ∀ off, go off = .next s) ∧
    (s.dev.bootResult = 0 →
      go 0x800 = exec (.evCapujWrite v) s ∧ go 0xA90 = exec (.evPreemptWrite v) s ∧ go 0xC08 = exec (.evHdmctlEnable v) s ∧
      go 0xD90 = exec (.evDomctlEnable v) s ∧ go 0x1C60 = exec (.evRetclWrite v) s ∧
      (v.getLsbD 0 = true → go 0x2050 = exec .evFeatctlLock s) ∧ (v.getLsbD 0 = false → go 0x2050 = .next s) ∧
      (∀ n : BitVec 2, go (0x2030 + 8 * n.toNat) = exec (.evFeataccWrite n v) s) ∧
      go 0x808 = dev { s.dev with pfStatus := s.dev.pfStatus && !v.getLsbD 0 } ∧
      (∀ t, t ≤ 16 → go (0xA00 + 8 * t) = exec (.evTvectWrite t v) s ∧
        go (0xD00 + 8 * t) = (ten t (fun x => { x with
          dtag := if x.live then x.dtag else BitVec.ofNat 16 v.toNat, dtagRsvd := BitVec.ofNat 48 (v.toNat / 2 ^ 16) })) ∧
        go (0x1000 + 128 * t) = exec (.evTenantSetLive t v) s ∧ go (0x1038 + 128 * t) = exec (.evPartaddrWrite t v) s ∧
        go (0x1040 + 128 * t) = exec (.evShareWrite t v) s ∧
        go (0x1020 + 128 * t) = ten t (fun x => { x with
          weight := v.toNat / 2 ^ 32 % 256, keys := if (s.ten t).live then x.keys else BitVec.ofNat 32 v.toNat }) ∧
        (∀ p ∈ Claims.recordTable, go (0x1000 + 128 * t + p.1) =
          if (s.ten t).live then .next s else ten t (p.2.2 (v &&& BitVec.ofNat 64 p.2.1))) ∧
        go (0x3028 + 64 * t) = ten t (fun x => { x with sdOvf := x.sdOvf && !v.getLsbD 0, sdBad := x.sdBad && !v.getLsbD 1 }) ∧
        (∀ o, o < 0x20 → go (0x3000 + 64 * t + o) =
          .next { s with tenants := s.tenants.modify t (fun x => { x with sdBad := true }), net := Claims.rang s t 0 })) ∧
      (s.dev.hdmEn = false → go 0xC00 = dev { s.dev with hdmBase := v } ∧ go 0xC10 = dev { s.dev with biasBase := v &&& 0x000FFFFFFFFFF000 }) ∧
      (s.dev.hdmEn = true → go 0xC10 = .next s ∧
        go 0xC00 = dev { s.dev with hdmBase := (v &&& 0xFFF000003FFFFFFF) ||| (s.dev.hdmBase &&& 0x000FFFFFC0000000) }) ∧
      (∀ o, 0xC20 ≤ o → o < 0xC30 → go o = .next { s with dev := { s.dev with biasBad := true }, net := Claims.rang s 0 0 }) ∧
      go 0xC38 = dev { s.dev with biasOvf := s.dev.biasOvf && !v.getLsbD 0, biasBad := s.dev.biasBad && !v.getLsbD 1 } ∧
      go 0x1C00 = (if s.dev.elEn then .next s else dev { s.dev with elBase := v &&& 0x000FFFFFFFFFF000 }) ∧
      go 0x1C08 = dev { s.dev with elEn := v.getLsbD 63, elSize := if s.dev.elEn then s.dev.elSize else v.toNat % 32 } ∧
      go 0x1C18 = dev { s.dev with elTail := BitVec.ofNat 32 v.toNat } ∧
      go 0x1C20 = dev { s.dev with elOvf := s.dev.elOvf &&& ~~~(BitVec.ofNat 32 v.toNat) } ∧
      (∀ i, i < 4 → go (0x1C40 + 8 * i) = dev { s.dev with salv := s.dev.salv.set i (v &&& 0x000FFFFFFFFFFFFF) }) ∧
      (∀ o, (o < 0x800 ∨ (0x810 ≤ o ∧ o < 0xA00) ∨ (0xA98 ≤ o ∧ o < 0xC00) ∨ (0xC40 ≤ o ∧ o < 0xD00) ∨ (0xD98 ≤ o ∧ o < 0x1000) ∨
        (0x1880 ≤ o ∧ o < 0x1C00) ∨ (0x1E00 ≤ o ∧ o < 0x2030) ∨ (0x2058 ≤ o ∧ o < 0x3000) ∨ 0x3440 ≤ o) → go o = .next s)) ∧
    (∀ t o, t ≠ 0 → s.dev.bootResult ≠ 0 → exec (.evRegisterWrite (.bar0 t o) v) s = .next s) ∧
    (∀ t, t ≤ 16 → t = 0 ∨ s.dev.bootResult = 0 →
      let at0 (off : Nat) := exec (.evRegisterWrite (.bar0 t off) v) s
      (∀ o, o < 0x40 → at0 o = .next { s with tenants := s.tenants.modify t (fun x => { x with lstBad := true }), net := Claims.rang s t 0 }) ∧
      at0 0x40 = ten t (fun x => { x with lstOvf := x.lstOvf && !v.getLsbD 0, lstBad := x.lstBad && !v.getLsbD 1 }) ∧
      at0 0x80 = ten t (fun x => { x with ucause := if v.getLsbD 63 then x.ucause &&& 0x7FFFFFFFFFFFFFFF else x.ucause }) ∧
      (∀ o, 0x200 ≤ o → o < 0x220 → at0 o =
        .next { s with tenants := s.tenants.modify t (fun x => { x with sdBad := true }), net := Claims.rang s t 0 }) ∧
      at0 0x228 = ten t (fun x => { x with sdOvf := x.sdOvf && !v.getLsbD 0, sdBad := x.sdBad && !v.getLsbD 1 }) ∧
      (∀ o, o < 0x40 ∨ (0x200 ≤ o ∧ o < 0x220) → s.readBar0 t o = 0)) ∧
    ((∃ x ∈ s.tenants, x.live = true) ∨ v.toNat ∉ [0, 2, 4, 6, 8] → exec (.evRegisterWrite .poolWays v) s = .next s) ∧
    ((∀ x ∈ s.tenants, x.live = false) → v.toNat ∈ [0, 2, 4, 6, 8] → ∃ u, exec (.evRegisterWrite .poolWays v) s = .next u ∧
      u.dev = { s.dev with poolWays := v.toNat } ∧ u.flows = s.flows ∧
      ∀ a, u.mem.get a = (if regionOf a = .pool then 0 else s.mem.get a))

/-- The host's commands. A shootdown and a bias flip join their queues, or are dropped with a status bit; the first shootdown's cached
translations go when it starts, and it completes once the context's accesses and records of its range have gone; a flip writes its
bias bit; EN of HDM and of the domain take effect where accepted, are measured, and HDM puts every page in host bias; acceptance
is fixed by LOCK; clusters, lane groups and rows are retired and repaired, and a retired cluster without work keeps nothing in its
L1s, TLBs and registrations. Rests on R400, R401, R402, R420, R422, R424, R437, R450, R451, R455, R456, R459. Where the spec
leaves a point open, it follows the model's choice of notes/assumptions 67, 72, 104, 106. -/
def Obligations.HostCommandsTakeEffect : Prop :=
  ∀ s : State,
    (∀ t bytes, let va := recNat bytes 0 8
      let bad := bytes.length ≠ 32 ∨ va % 4096 ≠ 0 ∨ recNat bytes 12 4 / 16 ≠ 0 ∨ recNat bytes 24 8 ≠ 0
      let there := t = 0 ∨ s.dev.bootResult = 0
      (¬there → exec (.evShootdownCommand t bytes) s = .next s) ∧
      (there → bad → exec (.evShootdownCommand t bytes) s =
        .next { s with tenants := s.tenants.modify t (fun x => { x with sdBad := true }), net := Claims.rang s t 0 }) ∧
      (there → ¬bad → 16 ≤ (s.ten t).sdq.length → exec (.evShootdownCommand t bytes) s =
        .next { s with tenants := s.tenants.modify t (fun x => { x with sdOvf := true }), net := Claims.rang s t 0 }) ∧
      let c (run : Bool) : Shoot := ⟨va, recNat bytes 8 4, recNat bytes 12 4 % 16, BitVec.ofNat 64 (recNat bytes 16 8), run⟩
      (there → ¬bad → 0 < (s.ten t).sdq.length → (s.ten t).sdq.length < 16 → exec (.evShootdownCommand t bytes) s =
        .next { s with tenants := s.tenants.modify t (fun x => { x with sdq := x.sdq ++ [c false] }) }) ∧
      (there → ¬bad → (s.ten t).sdq = [] → t < s.tenants.length → exec (.evShootdownCommand t bytes) s =
        .next { s with tenants := s.tenants.modify t (fun x => { x with sdq := [c true] }),
                       tlb := Claims.tlbLeft s t (c true), walks := Claims.walksLeft s t (c true) })) ∧
    (∀ t c rest, (s.ten t).sdq = c :: rest → Claims.calm s → (∀ j ∈ s.jobs, j.tenant ≠ t) →
      (∀ f ∈ s.flows, f.tenant = t → ∀ b, f.tt = some b → ∀ e ∈ b.ents, e.lane = none) →
      let left : List Shoot := match rest with | [] => [] | d :: ds => { d with started := true } :: ds
      ∃ u, exec (.evShootdownComplete t) s = .next u ∧ (u.ten t).sddone = c.seq ∧ (u.ten t).sdq = left ∧
        (rest = [] → u.tlb = s.tlb ∧ u.walks = s.walks) ∧
        (∀ d ds, rest = d :: ds → u.tlb = Claims.tlbLeft s t d ∧ u.walks = Claims.walksLeft s t d) ∧
        (∀ k f b, s.flow? k = some f → f.tenant = t → f.tt = some b → ∃ g d, u.flow? k = some g ∧ g.tt = some d ∧
          ∀ r ∈ d.recs, r ∈ b.recs ∧ ¬Claims.shot c r.va.toNat r.len) ∧
        ((∀ f ∈ s.flows, f.tenant = t → f.tt = none) → u = { s with tlb := u.tlb, walks := u.walks, net := u.net, tenants := u.tenants } ∧
          u.net = (if c.vec = 0 then s.net else Claims.rang s t c.vec) ∧
          u.tenants = s.tenants.modify t (fun x => { x with sdq := left, sddone := c.seq }))) ∧
    (∀ bytes, let p := recNat bytes 0 8
      let page := p % 2 ^ 52 / 4096 * 4096
      let bad := bytes.length ≠ 16 ∨ p ≠ page + p % 2 ∨ s.dev.inHdm page = false
      (bad → exec (.evBiascmd bytes) s = .next { s with dev := { s.dev with biasBad := true }, net := Claims.rang s 0 0 }) ∧
      (¬bad → 16 ≤ s.coh.flips.length → exec (.evBiascmd bytes) s =
        .next { s with dev := { s.dev with biasOvf := true }, net := Claims.rang s 0 0 }) ∧
      (¬bad → s.coh.flips.length < 16 → (∀ c rest, s.coh.flips = c :: rest → c.started = true) → ∃ u c, exec (.evBiascmd bytes) s = .next u ∧
        Claims.cohTo s u { s.coh with flips := s.coh.flips ++ [c] } ∧ c.page = page ∧ c.seq = BitVec.ofNat 64 (recNat bytes 8 8) ∧
        (c.toHost = true ↔ p % 2 = 1) ∧ (c.started = true ↔ s.coh.flips = []) ∧
        ∀ l, l ∈ c.waiting ↔ s.coh.flips = [] ∧ c.toHost = false ∧ (∃ i, i < 64 ∧ l = page + 64 * i) ∧ s.held l = true)) ∧
    (∀ c rest, s.coh.flips = c :: rest → c.started = true → c.waiting = [] → ∃ u, exec .evBiasFlipComplete s = .next u ∧
      u.dev = { s.dev with biasDone := c.seq } ∧ u.coh.flips.length = rest.length ∧
      ∀ a i, i < 8 → (u.mem.get a).getLsbD i = (if (a, i) = s.dev.biasBit c.page then c.toHost else (s.mem.get a).getLsbD i)) ∧
    (∀ v : Word, let d := { s.dev with
        hdmSize := if s.dev.hdmEn then s.dev.hdmSize else v.toNat % 1024, hdmRsvd := BitVec.ofNat 53 (v.toNat / 2 ^ 10) }
      (¬Claims.feature s 6 ∨ s.dev.hostCxl = false → exec (.evHdmctlEnable v) s = .next { s with dev := d }) ∧
      (Claims.feature s 6 → s.dev.hostCxl = true →
        (v.getLsbD 63 = false → exec (.evHdmctlEnable v) s = .next { s with dev := { d with hdmEn := false } }) ∧
        (v.getLsbD 63 = true → s.dev.hdmEn = true → exec (.evHdmctlEnable v) s = .next { s with dev := d }) ∧
        (v.getLsbD 63 = true → s.dev.hdmEn = false → ∃ u, exec (.evHdmctlEnable v) s = .next u ∧
          u.dev = Claims.measured { d with hdmEn := true } 5 (Claims.enBytes s.dev) ∧
          (s.reg = [] → s.amoRuns = [] → s.coh.dir = [] → s.coh.holders = [] → s.coh.allHeld = false → s.watches = [] → u.coh = s.coh) ∧
          (s.dev.dieLost = 0 → s.watches = [] → ∀ a, u.mem.get a = (if s.dev.biasBase.toNat ≤ a ∧ a < s.dev.biasBase.toNat + 32768 * (v.toNat % 1024) then 0xFF else s.mem.get a))))) ∧
    (∀ v : Word, let d := { s.dev with
        domDev := if s.tenants.any (fun t => t.live) then s.dev.domDev else BitVec.ofNat 10 v.toNat
        domRsvd := BitVec.ofNat 53 (v.toNat / 2 ^ 10) }
      let en := Claims.measured { d with domEn := true } 5 (Claims.enBytes d)
      (¬Claims.feature s 7 → exec (.evDomctlEnable v) s = .next { s with dev := d }) ∧
      (Claims.feature s 7 → v.getLsbD 63 = false → exec (.evDomctlEnable v) s = .next { s with dev := { d with domEn := false } }) ∧
      (Claims.feature s 7 → v.getLsbD 63 = true → exec (.evDomctlEnable v) s = .next { s with dev := if s.dev.domEn then d else en })) ∧
    (∀ (n : BitVec 2) (v : Word), exec (.evFeataccWrite n v) s =
      .next (if s.dev.featLock then s else { s with dev := { s.dev with
        featAcc := s.dev.featAcc.set n.toNat ((v &&& s.dev.featOff.getD n.toNat 0) ||| (if n = 0 then 1 else 0)) } })) ∧
    (let d := Claims.measured { s.dev with featLock := true } 4 ((s.dev.featAcc.map (fun w => bytesLE 8 w.toNat)).flatten)
     exec .evFeatctlLock s = .next { s with dev := if s.dev.featLock then s.dev else d }) ∧
    (∀ v : Word, ∃ u, exec (.evRetclWrite v) s = .next u ∧ u.dev.retcl = s.dev.retcl ||| v ∧
      (∀ k f, s.flow? k = some f → ∃ g, u.flow? k = some g ∧ Claims.leaves (v &&& ~~~s.dev.retcl) f g) ∧
      (∀ b, b ∈ u.l1 ↔ b ∈ s.l1 ∧ ¬Claims.powersDown s v (b.core / 4)) ∧ (∀ r, r ∈ u.reg ↔ r ∈ s.reg ∧ ¬Claims.powersDown s v (r.core / 4)) ∧
      (∀ e, e ∈ u.tlb ↔ e ∈ s.tlb ∧ ¬Claims.powersDown s v (Claims.tlbCluster e)) ∧
      (s.dev.elEn = false → let d := { s.dev with retcl := s.dev.retcl ||| v }
        u = { s with me := u.me, rest := u.rest, dev := d, l1 := u.l1, reg := u.reg, coh := u.coh, tlb := u.tlb, amoRuns := u.amoRuns })) ∧
    (∀ i (v : Byte), (256 ≤ i → exec (.evRetlgWrite i v) s = .next s) ∧
      (i < 256 → ∃ u, exec (.evRetlgWrite i v) s = .next u ∧ u.dev.retlg = s.dev.retlg.set i (s.dev.retlg.getD i 0 ||| v) ∧
        u.me = s.me ∧ u.rest = s.rest ∧ (s.dev.elEn = false → u = { s with dev := { s.dev with retlg := u.dev.retlg } }))) ∧
    (∀ row seq : Word, exec (.evRepair row seq) s = .next { s with dev := { s.dev with
      repairs := s.dev.repairs ++ [⟨row.toNat % 2 ^ 52 / 8192 * 8192, row.getLsbD 0, seq⟩] } }) ∧
    ∀ c rest, s.dev.repairs = c :: rest → s.dev.elEn = false →
      let n := (s.dev.spares.filter (fun x => x.1 == hbmBankOf c.row && x.2.1 == c.hard)).length
      let d := { s.dev with repairs := rest, repDone := c.seq }
      let e := { d with spares := d.spares ++ [(hbmBankOf c.row, c.hard, c.row)] }
      exec .evRepairComplete s = .next (if (if c.hard then 1 else 2) ≤ n then { s with dev := d }
        else if c.hard then { s with dev := { e with hardRepairs := d.hardRepairs ++ [c.row] } }
        else { s with dev := { e with softStored := d.softStored ++ [c.row] } })

/-- The host's reads, stores and invalidations of HDM that are served, its answers to BISnpInv, and its snoops of the HCA. A read in
host bias leaves the host a copy, or, past 1,048,576 lines, waits until the oldest has been given up; a store writes its line and
nothing else, and ends the host's copy (log 66); the answer to a snoop brings its data home, after a BISnpInv the host holds the
line no more, and a flip waits no more for it; a conflict is acknowledged; a snoop leaves the HCA's line shared, or takes it away,
or changes nothing. Rests on R421, R422, R423, R444. Where the spec leaves a point open, it follows the model's choice of
notes/assumptions 65, 66. -/
def Obligations.HostReachesDeviceMemory : Prop :=
  ∀ s : State,
    (∀ l, Claims.served s l →
      (s.net = [] → (∀ i, i < 8 → s.dataBad (l + 8 * i) = none) → ∃ u, exec (.evMemrd l) s = .next u ∧
        u = { s with coh := u.coh, reg := u.reg, l1 := u.l1 } ∧
        (s.hostBias l = true →
          (l ∈ s.coh.holders → u.coh.holders = s.coh.holders) ∧
          (l ∉ s.coh.holders → s.coh.holders.length < 1048576 → u.coh.holders = s.coh.holders ++ [l]) ∧
          (l ∉ s.coh.holders → 1048576 ≤ s.coh.holders.length → u.coh.holders = s.coh.holders ∧
            ∀ o rest, s.coh.holders = o :: rest → (o, true) ∈ u.coh.need)) ∧
        (s.hostBias l = false → u.coh.holders = s.coh.holders) ∧
        ∀ e ∈ u.coh.dir, e.g.key = 0 → (e.g.addr ≤ l ∧ l < e.g.addr + e.g.size) ∨ (e.g.addr ≤ l + 32 ∧ l + 32 < e.g.addr + e.g.size) →
          e.st = .i ∨ e.st = .s) ∧
      (∀ data : BitVec 512, s.watches = [] → Claims.noneLost s → ∃ u, exec (.evMemwr l data) s = .next u ∧
        u.coh.holders = s.coh.holders.filter (· != l) ∧ u.me = s.me ∧
        u.rest = s.rest ∧ (∀ j, j < 64 → u.keyByte (l + j) 0 = BitVec.ofNat 8 (data.toNat / 2 ^ (8 * j))) ∧
        ∀ a, a < l ∨ l + 64 ≤ a → u.mem.get a = s.mem.get a) ∧
      exec (.evMeminv l) s = .next { s with coh := { s.coh with holders := s.coh.holders.filter (· != l) } }) ∧
    (∀ pa, s.hostServed (pa / 64 * 64) = false → exec (.evMemrd pa) s = .next s ∧ exec (.evMeminv pa) s = .next s ∧
      ∀ data, exec (.evMemwr pa data) s = .next s) ∧
    (∀ l, l % 64 = 0 → l + 64 ≤ 0xF000000000 →
      (∀ data, ¬Claims.snoopOut s l false → exec (.evBirsp l data) s = .next s) ∧
      (Claims.snoopOut s l false → ∃ u, exec (.evBirsp l none) s = .next u ∧ Claims.cohTo s u u.coh ∧ Claims.snoopAnswered s u l) ∧
      (∀ data : BitVec 512, Claims.snoopOut s l false → s.watches = [] → Claims.noneLost s →
        ∃ u, exec (.evBirsp l (some data)) s = .next u ∧ Claims.snoopAnswered s u l ∧
          (∀ j, j < 64 → u.keyByte (l + j) 0 = BitVec.ofNat 8 (data.toNat / 2 ^ (8 * j))) ∧
          ∀ a, a < l ∨ l + 64 ≤ a → u.mem.get a = s.mem.get a) ∧
      (l ∉ s.coh.acks → Claims.snoopOut s l true →
        exec (.evBiconflict l) s = .next { s with coh := { s.coh with acks := s.coh.acks ++ [l] } }) ∧
      (l ∈ s.coh.acks ∨ ¬Claims.snoopOut s l true → exec (.evBiconflict l) s = .next s)) ∧
    ∀ a, let l := 0x8000000000000 + a / 64 * 64
      (s.dev.hostCxl = false → exec (.evSnpdata a) s = .next s ∧ exec (.evSnpinv a) s = .next s ∧ exec (.evSnpcur a) s = .next s) ∧
      (s.dev.hostCxl = true →
        ((∀ i, i < 8 → s.dataBad (l + 8 * i) = none) → exec (.evSnpdata a) s = .next { s with coh := { s.coh with
          hca := s.coh.hca.map (fun h => if h.addr = l ∧ h.st ≠ .i then { h with st := .s } else h) } }) ∧
        (∃ u, exec (.evSnpinv a) s = .next u ∧ u.coh.hca = s.coh.hca.filter (fun h => h.addr != l) ∧ u.me = s.me ∧ u.rest = s.rest ∧
          (s.watches = [] → (∀ i, i < 8 → s.dataBad (l + 8 * i) = none) → Claims.cohTo s u u.coh)) ∧
        ((∀ i, i < 8 → s.dataBad (l + 8 * i) = none) → exec (.evSnpcur a) s = .next s))

/-- The directory's messages change its own records, registrations and copies in L1s, and no byte of memory: an L1 may drop bytes and
takes none. A request of a die finds the home's state and leaves the one R413 gives, with its messages: for one in I an exclusive
request recalls the home's registrations, and a rival of sharers is owed Data until their last Ack; Fwd, Inv and BInv are answered
by the holder; Data is received and done; a transaction closes with its last answer; an owner that evicts leaves the home current.
Rests on R407, R411, R412, R413, R414, R415. Where the spec leaves a point open, it follows the model's choice of
notes/assumptions 44. -/
def Obligations.DirectoryMovesNoByte : Prop :=
  ∀ s : State,
    (∀ i, (∃ d g, i = .evRds d g ∨ i = .evRdx d g ∨ i = .evUpg d g ∨ i = .evWb d g) ∨
        (∃ k, i = .evFwd k ∨ i = .evInv k ∨ i = .evBinv k ∨ i = .evData k ∨ i = .evAck k ∨ i = .evDone k) →
      ∃ u, exec i s = .next u ∧ u = { s with coh := u.coh, l1 := u.l1, reg := u.reg, amoRuns := u.amoRuns } ∧
        ((∀ d g, i ≠ .evRdx d g ∧ i ≠ .evUpg d g) → u.amoRuns = s.amoRuns) ∧
        ((∃ d g, i = .evRds d g) ∨ (∃ k, i = .evData k ∨ i = .evAck k ∨ i = .evDone k) → u.reg = s.reg) ∧
        (∀ r ∈ u.reg, ∃ q ∈ s.reg, r.line = q.line ∧ r.key = q.key ∧ r.core = q.core ∧ ∀ w ∈ r.words, w ∈ q.words) ∧
        (Claims.l1Uniq s → ∀ c a key b, u.viewByte? c a key = some b → s.viewByte? c a key = some b)) ∧
    (∀ d g, Claims.opens s d g →
      let e := s.dirOf g
      ∃ u x y, exec (.evRds d g) s = .next u ∧ exec (.evRdx d g) s = .next x ∧ exec (.evUpg d g) s = .next y ∧
        (e.st = .i → let st : DirSt := if s.homeReg g then .s else .e
          Claims.asked s u g d 0 .rds { e with st := st, own := d, pres := if s.homeReg g then [d] else [] } [.data g d st] ∧
          Claims.asked s x g d 0 .rdx { e with st := .m, own := d, pres := [] } [.data g d .m] ∧
          Claims.asked s y g d 0 .upg { e with st := .m, own := d, pres := [] } [.data g d .m] ∧
          ((∀ r ∈ s.reg, r.line % 128 = 0) → ∀ v ∈ [x, y], ∀ r ∈ v.reg, r.key = g.key → r.core / 64 = g.home → ∀ w ∈ r.words,
            ¬(g.addr ≤ w ∧ w < g.addr + g.size))) ∧
        (e.st = .s →
          (∃ ps, Claims.asked s u g d 0 .rds { e with pres := ps } [.data g d .s] ∧ ∀ p, p ∈ ps ↔ p ∈ e.pres ∨ p = d) ∧
          let all (hs : List Nat) : List CMsg := if hs = [] then [.data g d .m] else hs.map (fun h => .inv g h)
          Claims.asked s x g d e.pres.length .rdx { e with st := .m, own := d, pres := [] } (all e.pres) (decide (e.pres ≠ [])) ∧
          ∃ hs : List Nat, Claims.asked s y g d hs.length .upg { e with st := .m, own := d, pres := [] } (all hs) (decide (hs ≠ [])) ∧
            ∀ h, h ∈ hs ↔ h ∈ e.pres ∧ h ≠ d) ∧
        (e.st = .e ∨ e.st = .m →
          (∃ st ps, Claims.asked s u g d 1 .rds { e with st := st, pres := ps } [.fwd g e.own d false] ∧
            (e.st = .e → st = .s ∧ ∀ p, p ∈ ps ↔ p = e.own ∨ p = d) ∧ (e.st = .m → st = .o ∧ ps = [d])) ∧
          Claims.asked s x g d 1 .rdx { e with st := .m, own := d, pres := [] } [.fwd g e.own d true] ∧
          Claims.asked s y g d 1 .upg { e with st := .m, own := d, pres := [] } [.fwd g e.own d true]) ∧
        (e.st = .o →
          (∃ ps, Claims.asked s u g d 1 .rds { e with pres := ps } [.fwd g e.own d false] ∧ ∀ p, p ∈ ps ↔ p ∈ e.pres ∨ p = d) ∧
          let ms : List CMsg := .fwd g e.own d true :: e.pres.map (fun h => .inv g h)
          Claims.asked s x g d (1 + e.pres.length) .rdx { e with st := .m, own := d, pres := [] } ms ∧
          Claims.asked s y g d (1 + e.pres.length) .upg { e with st := .m, own := d, pres := [] } ms)) ∧
    (∀ k : Nat,
      (∀ g o d x, s.coh.msgs[k]? = some (.fwd g o d x) → ∃ u, exec (.evFwd k) s = .next u ∧
        (s.copyOf o g = none → Claims.msgTaken s u k [.ack g o true false false] ∧ u.copyOf o g = none) ∧
        ∀ st, s.copyOf o g = some st → Claims.msgTaken s u k [.data g d (if x then .m else .s), .ack g o true (Claims.isDirty (some st)) true] ∧
          u.copyOf o g = (if x then none else some (if st = .m ∨ st = .o then .o else .s))) ∧
      (∀ g h, s.coh.msgs[k]? = some (.inv g h) → ∃ u, exec (.evInv k) s = .next u ∧ u.copyOf h g = none ∧
        Claims.msgTaken s u k [.ack g h false (Claims.isDirty (s.copyOf h g)) (s.copyOf h g).isSome]) ∧
      (∀ g h, s.coh.msgs[k]? = some (.binv g h) → ∃ u, exec (.evBinv k) s = .next u ∧
        (∀ c ∈ u.coh.copies, ¬(c.1 = h ∧ sameBlock c.2.1 g = true)) ∧
        ∃ dt fd, Claims.msgTaken s u k [.ack g h false dt fd] ∧ (fd = true ↔ ∃ c ∈ s.coh.copies, c.1 = h ∧ sameBlock c.2.1 g = true)) ∧
      (∀ g d st, s.coh.msgs[k]? = some (.data g d st) → ∃ u, exec (.evData k) s = .next u ∧ u.copyOf d g = some st ∧ Claims.msgTaken s u k [.done g d]) ∧
      (∀ g h fw dt fd t, s.coh.msgs[k]? = some (.ack g h fw dt fd) → s.txn? g = some t → ∃ u, exec (.evAck k) s = .next u ∧
        Claims.msgTaken s u k ((if fw && !fd then [CMsg.data g t.die (if t.req = .rds then .s else .m)] else []) ++
          if t.owed = true ∧ t.acks ≤ 1 then [.data g t.die .m] else []) ∧
        u.txn? g = (if t.done = true ∧ t.acks ≤ 1 then none else some { t with acks := t.acks - 1, owed := t.owed && decide (1 < t.acks) })) ∧
      ∀ g d t, s.coh.msgs[k]? = some (.done g d) → s.txn? g = some t → ∃ u, exec (.evDone k) s = .next u ∧ Claims.msgTaken s u k [] ∧
        u.txn? g = (if t.acks = 0 then none else some { t with done := true })) ∧
    ∀ d g st, s.copyOf d g = some st → ∃ u, exec (.evWb d g) s = .next u ∧ u.copyOf d g = none ∧ u.coh.msgs = s.coh.msgs ∧
      ((s.dirOf g).own ≠ d → ∀ e, e ∈ u.coh.dir ↔ e ∈ s.coh.dir) ∧
      ((s.dirOf g).own = d →
        ((s.dirOf g).st = .e ∨ (s.dirOf g).st = .m ∨ ((s.dirOf g).st = .o ∧ (s.dirOf g).pres = []) → (u.dirOf g).st = .i) ∧
        ((s.dirOf g).st = .o → (s.dirOf g).pres ≠ [] → (u.dirOf g).st = .s ∧ (u.dirOf g).pres = (s.dirOf g).pres))

/-- The links, the domain and errors. A port takes a flit in order and once, and is down after eight replays that fail; a peer's
request is served under its tenant's key, or refused; the host link comes up as trained, and without CXL leaves host memory no
watch; an uncorrectable error marks its register or its words, or costs an entry that is fetched again; what is corrected, by the
scrubber too, is counted and changes no byte of data. Rests on R430, R431, R435, R438, R442, R444. Where the spec leaves a point
open, it follows the model's choice of notes/assumptions 12, 37, 76, 79, 80, 116, 125. -/
def Obligations.LinksPeersAndErrors : Prop :=
  ∀ s : State,
    (∀ i p (f : Flit), s.dev.ports[i]? = some p →
      (∃ q, exec (.evVexconFlitReceive i f) s = .next { s with dev := Claims.portTo s.dev i q } ∧
        (p.up = false → q = p) ∧
        (p.up = true → f.crcOk = false → q = { p with fails := p.fails + 1, up := decide (p.fails < 8) }) ∧
        (p.up = true → f.crcOk = true → f.seq = p.nextSeq → q = ⟨true, (p.nextSeq + 1) % 4096, f.seq, 0⟩) ∧
        (p.up = true → f.crcOk = true → f.seq ≠ p.nextSeq → q = p)) ∧
      exec (.evVexconPortDown i) s = .next { s with dev := Claims.portTo s.dev i { p with up := false } }) ∧
    (∀ q : PeerReq, (s.dev.domEn = false ∨ s.peerTenant q = none → exec (.evPeerRequest q) s = .next s) ∧
      (∀ t, s.dev.domEn = true → s.peerTenant q = some t → s.dataBad q.off = none →
        let key := (s.ten t).keys.toNat % 256
        (q.op = .load → 0 < q.size → q.off + q.size ≤ 0xF000000000 → ∃ u, exec (.evPeerRequest q) s = .next u ∧
          u = { s with coh := u.coh, amoRuns := u.amoRuns, reg := u.reg, l1 := u.l1 } ∧
          ∀ a e, q.off ≤ a → a < q.off + q.size → e ∈ u.coh.dir → e.g.key = key →
            e.g.addr ≤ a / 8 * 8 → a / 8 * 8 < e.g.addr + e.g.size → e.st = .i ∨ e.st = .s) ∧
        (∀ bs, q.op = .store bs → bs.length = q.size → 0 < q.size → q.off + q.size ≤ 0xF000000000 → s.watches = [] →
          ∃ u, exec (.evPeerRequest q) s = .next u ∧ u.me = s.me ∧ u.rest = s.rest ∧ u.keyBytes q.off key q.size = bs ∧
            ∀ a, a < q.off ∨ q.off + q.size ≤ a → u.mem.get a = s.mem.get a) ∧
        (∀ n x e, q.op = .amo n x e → (q.size = 4 ∨ q.size = 8) → q.off % q.size = 0 → q.off + q.size ≤ 0xF000000000 → Claims.calm s →
          let old := natLE (s.keyBytes q.off key q.size)
          let m := 2 ^ (8 * q.size)
          let new := amoOf n (8 * q.size) old (x.toNat % m) (e.toNat % m)
          ∃ u, exec (.evPeerRequest q) s = .next u ∧ u.me = s.me ∧ u.rest = s.rest ∧ (new = none → u.mem = s.mem) ∧
            (∀ y, new = some y → natLE (u.keyBytes q.off key q.size) = y % m) ∧
            ∀ a, a < q.off ∨ q.off + q.size ≤ a → u.mem.get a = s.mem.get a) ∧
        (∀ hdr dst data, q.op = .row hdr dst data → ∃ u r, exec (.evPeerRequest q) s = .next u ∧
          u = { s with rows := s.rows ++ [r], nextId := s.nextId + 1 } ∧ r.tenant = t ∧ r.hdr = hdr ∧ r.dst = dst ∧ r.data = data ∧ r.st = .sent))) ∧
    (∀ (w r : Nat) (cxl : Bool),
      (s.dev.bootStage = 6 ∨ s.dev.bootResult ≠ 0 → w ∈ [16, 8, 4, 2, 1] → r ∈ [128, 64, 32, 16, 8, 5, 2] → (cxl = true → r ≤ 64) →
        let dev := { s.dev with hostUp := true, hostWidth := w, hostRate := r, hostCxl := cxl, hdmEn := s.dev.hdmEn && cxl }
        let onHost (x : Watch) : Prop := ∃ a, regionOf x.addr = .host a
        (cxl = true → exec (.evHostLinkTraining w r cxl) s = .next { s with dev := dev }) ∧
        (cxl = false → ∃ u, exec (.evHostLinkTraining w r cxl) s = .next u ∧ u.dev = dev ∧ u.coh.hca = [] ∧
          (∀ x ∈ u.watches, ¬onHost x) ∧ ((∀ x ∈ s.watches, ¬onHost x) → u = { s with dev := dev, coh := { s.coh with hca := [] } }))) ∧
      ((s.dev.bootStage ≠ 6 ∧ s.dev.bootResult = 0) ∨ w ∉ [16, 8, 4, 2, 1] ∨ r ∉ [128, 64, 32, 16, 8, 5, 2] ∨ (cxl = true ∧ 64 < r) → exec (.evHostLinkTraining w r cxl) s = .next s)) ∧
    exec .evHostLinkDown s = .next { s with dev := { s.dev with hostUp := false } } ∧
    (∀ k f, s.flow? k = some f → ∀ r, ∀ p ∈ ([(.scalar k r, .s r, decide (r ≠ 0 ∧ r < 32)), (.vector k r, .v r, decide (r < 48)),
        (.mask k r, .m r, decide (r < 12)), (.slot k r, .acc r, decide (r < 16)), (.landing k r, .land r, decide (r < 16))] :
          List (ErrTarget × RegRef × Bool)),
      (p.2.2 = true → ∃ u g, exec (.evUncorrectableError p.1) s = .next u ∧ Claims.flowTo s u k g ∧ g = { f with bad := g.bad } ∧
        ∀ x, x ∈ g.bad ↔ x ∈ f.bad ∨ x = p.2.1) ∧
      (p.2.2 = false → exec (.evUncorrectableError p.1) s = .next s)) ∧
    (∀ a, ∃ u, exec (.evUncorrectableError (.mem a)) s = .next u ∧ u = { s with bad := u.bad } ∧
      ∀ w, w ∈ u.bad ↔ w ∈ s.bad ∨ w ∈ Claims.errWords a) ∧
    (∀ a, let held := regionOf a = .hbm ∨ regionOf a = .pool ∨ (∃ n o, regionOf a = .peer n o) ∨ ∃ h, regionOf a = .host h
      (held → ∃ u, exec (.evUncorrectableError (.cache a)) s = .next u ∧ u = { s with badCache := u.badCache } ∧
        (∀ w, w ∈ u.badCache ↔ w ∈ s.badCache ∨ w = a / 8 * 8) ∧ u.dataBad a = some 2) ∧
      (¬held → exec (.evUncorrectableError (.cache a)) s = .next s)) ∧
    (∀ a, ∃ u, exec (.evUncorrectableError (.corrected a)) s = .next u ∧ u.dev.ceCount = s.dev.ceCount + 1 ∧ u.flows = s.flows) ∧
    (s.dev.elEn = false →
      let dev := { s.dev with ceCount := s.dev.ceCount + 1 }
      (∀ k, k < s.tlb.length → exec (.evUncorrectableError (.tlb k)) s = .next { s with tlb := s.tlb.eraseIdx k, dev := dev }) ∧
      (∀ k, k < s.walks.length → exec (.evUncorrectableError (.walk k)) s = .next { s with walks := s.walks.eraseIdx k, dev := dev }) ∧
      (∀ k, k < s.resident.length → exec (.evUncorrectableError (.store k)) s = .next { s with resident := s.resident.eraseIdx k, dev := dev }) ∧
      (∀ c a key, (s.l1Blk? c a key).isSome → ∃ u, exec (.evUncorrectableError (.tag c a key)) s = .next u ∧ u = { s with l1 := u.l1, dev := dev }) ∧
      (∀ a, exec (.evUncorrectableError (.corrected a)) s = .next { s with dev := dev } ∧
        exec (.evUncorrectableError (.l2tag a)) s =
          .next { s with peerCopies := s.peerCopies.filter (fun p => p.dirty || p.addr / 128 != a / 128), dev := dev }) ∧
      (∀ d a key, (∃ e ∈ s.coh.dir, e.g.home = d ∧ e.g.key = key ∧ e.g.addr / 512 = a / 512) →
        ∃ u, exec (.evUncorrectableError (.dir d a key)) s = .next u ∧ u = { s with coh := u.coh, l1 := u.l1, reg := u.reg, dev := dev }) ∧
      ∀ k r, s.reg[k]? = some r → r.tabled = true → ∃ u, exec (.evUncorrectableError (.reg k)) s = .next u ∧
        u = { s with l1 := u.l1, reg := u.reg, dev := dev } ∧
        ∀ q, q ∈ u.reg ↔ q ∈ s.reg ∧ ¬(q.line = r.line ∧ q.key = r.key ∧ q.core / 64 = r.core / 64)) ∧
    ∀ a, s.dev.elEn = false →
      (regionOf (a / 32 * 32) ≠ .hbm ∨ (∃ w ∈ s.bad, w / 32 = a / 32) → exec (.evPatrolScrub a) s = .next s) ∧
      (regionOf (a / 32 * 32) = .hbm → (∀ w ∈ s.bad, w / 32 ≠ a / 32) → ∃ n, exec (.evPatrolScrub a) s =
        .next { s with freeCtr := s.freeCtr + 1, dev := { s.dev with ceCount := s.dev.ceCount + n } } ∧ (n = 0 ∨ n = 1))

/-- Power, boot, the resets, and the loss of a die. Without power no step is taken; what volatile state each of them ends, what memory
and registers stand afterwards, and that a reset of a function ends its context. A die whose last link goes down is lost, and both
ends of the link where neither has another. Rests on R6, R426, R427, R442, R447, R452, R453. Where the spec leaves a point open,
it follows the model's choice of notes/assumptions 38, 39, 40, 67, 75, 76. -/
def Obligations.PowerResetsAndDieLoss : Prop :=
  ∀ s : State,
    (s.dev.power = false → (∀ ts, s.sched ≠ .event .evPowerOn :: ts) → step s = .fault .poweredOff) ∧
    (∃ u, exec .evPowerOff s = .next u ∧ u.dev.power = false ∧ Claims.noContext u ∧ Claims.memLeft s u (fun _ => False) ∧
      u.dev.fusedSvn = s.dev.fusedSvn ∧ u.dev.fusedRetcl = s.dev.fusedRetcl ∧ u.dev.hardRepairs = s.dev.hardRepairs ∧
      u.dev.flashA = s.dev.flashA ∧ u.dev.flashB = s.dev.flashB ∧ u.dev.featLock = false ∧
      u.dev.fwver = BitVec.ofNat 64 (s.dev.fusedSvn * 2 ^ 32)) ∧
    (s.dev.power = false ∨ (s.dev.bootStage = 0 ∧ s.dev.bootResult = 0) → ∃ u, exec .evPowerOn s = .next u ∧ u.dev.power = true ∧ Claims.noContext u ∧ Claims.memLeft s u (fun _ => False) ∧
      (s.dev.takes s.dev.flashA = false → s.dev.takes s.dev.flashB = false → u.dev.bootResult = 1 ∧ u.dev.bootStage = 0 ∧
        u.dev.featOff = List.replicate 4 0 ∧ u.dev.fwver = BitVec.ofNat 64 (s.dev.fusedSvn * 2 ^ 32)) ∧
      ∀ n i, (n = 0 ∧ i = s.dev.flashA ∧ s.dev.takes i = true) ∨ (n = 1 ∧ i = s.dev.flashB ∧ s.dev.takes s.dev.flashA = false ∧ s.dev.takes i = true) →
        u.dev.bootSlot = n ∧ u.dev.bootResult ∈ [0, 2, 3] ∧ u.dev.fwver = BitVec.ofNat 64 (i.svn * 2 ^ 32 + i.version % 2 ^ 32) ∧
        u.dev.meas.getD 0 0 = sha3 (bytesLE 64 0 ++ bytesLE 64 s.dev.romDigest.toNat) ∧
        u.dev.meas.getD 1 0 = sha3 (bytesLE 64 0 ++ bytesLE 64 (sha3 i.body).toNat) ∧
        (u.dev.bootResult = 0 → u.dev.bootStage = 6 ∧ u.dev.featOff = [0xFF, 0, 0, 0] ∧
          u.dev.fusedSvn = (if i.raises then max s.dev.fusedSvn i.svn else s.dev.fusedSvn) ∧ u.dev.dieLost.getLsbD 0 = false ∧
          u.dev.retcl = s.dev.fusedRetcl)) ∧
    (s.dev.power = true → s.dev.bootStage ≠ 0 ∨ s.dev.bootResult ≠ 0 → exec .evPowerOn s = .next s) ∧
    (∃ u, exec .evConventionalReset s = .next u ∧ u.dev.power = true ∧ Claims.noContext u ∧
      (s.net = [] → s.peerCopies = [] → s.badCache = [] → Claims.memLeft s u (fun a => regionOf a = .hbm)) ∧ u.coh.allHeld = false ∧ u.dev.featLock = s.dev.featLock ∧ u.dev.featAcc = s.dev.featAcc ∧
      u.dev.salv = s.dev.salv ∧ u.dev.ceCount = s.dev.ceCount ∧ u.dev.meas = s.dev.meas ∧ u.dev.hdmEn = false ∧ u.dev.domEn = false ∧
      u.dev.elEn = false ∧ u.dev.dieLost &&& s.dev.dieLost = s.dev.dieLost ∧ u.dev.retcl &&& s.dev.retcl = s.dev.retcl) ∧
    (∃ u, exec .evAbruptReset s = .next u ∧ u.dev.power = true ∧ Claims.noContext u ∧ u.coh.allHeld = true ∧ u.dev.featLock = s.dev.featLock ∧
      u.dev.meas = s.dev.meas ∧ (∀ x a, regionOf a = .host x → (∀ h ∈ s.coh.hca, h.st = .m → a < h.addr ∨ h.addr + 64 ≤ a) →
        u.mem.get a = s.mem.get a) ∧
      ∀ a, (∃ n o, regionOf a = .tcm n o) ∨ (∃ n o, regionOf a = .spm n o) ∨ regionOf a = .pool → u.mem.get a = 0) ∧
    (∃ u, exec .evPfReset s = .next u ∧ (∀ t, t < 17 → (u.ten t).live = false) ∧ (∀ h ∈ u.coh.hca, h.st ≠ .m) ∧
      ∀ l ∈ u.launches, l.tenant < 17 → (s.ten l.tenant).live = false) ∧
    (∀ n, (1 ≤ n → n ≤ 16 → (s.ten n).live = true → s.dev.bootResult = 0 → exec (.evVfReset n) s = exec (.evTenantEnd n) s ∧
        ∃ u, exec (.evVfReset n) s = .next u ∧ (u.ten n).live = false ∧ (u.ten n).queue = [] ∧ (∀ l ∈ u.launches, l.tenant ≠ n) ∧
          ∀ e ∈ u.tlb, e.tenant ≠ n) ∧
      (n = 0 ∨ 16 < n ∨ (s.ten n).live = false ∨ s.dev.bootResult ≠ 0 → exec (.evVfReset n) s = .next s)) ∧
    (∀ d, (4 ≤ d ∨ s.dev.dieLost.getLsbD d = true → exec (.evDieLoss d) s = .next s) ∧
      (d = 0 → s.dev.dieLost.getLsbD 0 = false → exec (.evDieLoss d) s = exec .evAbruptReset s) ∧
      (1 ≤ d → d < 4 → s.dev.dieLost.getLsbD d = false → ∃ u, exec (.evDieLoss d) s = .next u ∧
        u.dev.dieLost = s.dev.dieLost ||| BitVec.ofNat 4 (2 ^ d) ∧
        (Claims.still s → (∀ f ∈ u.flows, f.loc.die = d → f.status = .free) ∧ (∀ f ∈ s.rest, f.loc.die ≠ d → f ∈ u.rest) ∧
          (∀ t, t ∈ u.tasks ↔ t ∈ s.tasks ∧ t.die ≠ d) ∧ (∀ j ∈ u.jobs, j.die ≠ d) ∧
          u.launches = s.launches.map (fun l => if nth0 l.counts d ≠ 0 then { l with ending := 3 } else l)) ∧
        (∀ r ∈ u.reg, r.core / 64 ≠ d) ∧
        (∀ b ∈ u.l1, b.core / 64 ≠ d) ∧ ∀ e ∈ u.coh.dir, e.g.home ≠ d ∧ d ∉ e.pres)) ∧
    ∀ d h, (d = h ∨ 4 ≤ d ∨ 4 ≤ h → exec (.evDieLinkDown d h) s = .next s) ∧
      (d ≠ h → d < 4 → h < 4 →
        let t := if (min d h, max d h) ∈ s.dev.linkDown then s
          else { s with dev := { s.dev with linkDown := (min d h, max d h) :: s.dev.linkDown } }
        (t.dev.cutOff d = false → t.dev.cutOff h = false → exec (.evDieLinkDown d h) s = .next t) ∧
        (t.dev.cutOff (min d h) = true → t.dev.cutOff (max d h) = false → exec (.evDieLinkDown d h) s = exec (.evDieLoss (min d h)) t) ∧
        (t.dev.cutOff (min d h) = false → t.dev.cutOff (max d h) = true → exec (.evDieLinkDown d h) s = exec (.evDieLoss (max d h)) t) ∧
        (t.dev.cutOff d = true → t.dev.cutOff h = true →
          ∃ u, exec (.evDieLoss (min d h)) t = .next u ∧ exec (.evDieLinkDown d h) s = exec (.evDieLoss (max d h)) u) ∧
        ∃ u, exec (.evDieLinkDown d h) s = .next u ∧ (min d h, max d h) ∈ u.dev.linkDown ∧
          ∀ x, x = d ∨ x = h → x ≠ 0 → t.dev.cutOff x = true → u.dev.dieLost.getLsbD x = true)

/-- Each SPDM request leaves one answer, whose SHA3-512 digest the alias key of the firmware that booted signs; the identity key
certifies that key; the algorithms are answered by name (log 126); after a boot that stopped only measurements are answered. What
the spec does not state of an answer is free. Rests on R5, R453, R458, R459. Where the spec leaves a point open, it follows the
model's choice of notes/assumptions 12, 13, 126. -/
def Obligations.SpdmRequestsAreAnswered : Prop :=
  ∀ s : State,
    (let a := Config.mldsaPublic s.dev.aliasSeed
     s.dev.certificate = [Config.mldsaPublic identitySeed, a, Claims.overDigest identitySeed (bytesLE 64 a.toNat)]) ∧
    (∀ index (nonce : Word), ∃ u, exec (.evGetMeasurements index nonce) s = .next u ∧ Claims.answered s u s.dev.ideKey "GET_MEASUREMENTS"
      ((if index = 255 then s.dev.meas else if index = 0 then [] else (s.dev.meas.drop (index - 1)).take 1) ++ [nonce.setWidth 512])) ∧
    (s.dev.bootResult = 0 → ∀ (nonce share : Word),
      (∃ u, exec .evGetVersion s = .next u ∧ Claims.answered s u s.dev.ideKey "GET_VERSION" [0x14]) ∧
      (∃ u x, exec .evGetCapabilities s = .next u ∧ Claims.answered s u s.dev.ideKey "GET_CAPABILITIES" [x]) ∧
      (∃ u, exec .evNegotiateAlgorithms s = .next u ∧
        Claims.answered s u s.dev.ideKey "NEGOTIATE_ALGORITHMS" [Claims.named "ML-DSA-87", Claims.named "SHA3-512"]) ∧
      (∃ u, exec .evGetCertificate s = .next u ∧ Claims.answered s u s.dev.ideKey "GET_CERTIFICATE" s.dev.certificate) ∧
      (∃ u, exec .evGetDigests s = .next u ∧
        Claims.answered s u s.dev.ideKey "GET_DIGESTS" [sha3 ((s.dev.certificate.map (fun x => bytesLE 64 x.toNat)).flatten)]) ∧
      (∃ u, exec (.evChallenge nonce) s = .next u ∧ Claims.answered s u s.dev.ideKey "CHALLENGE" [nonce.setWidth 512]) ∧
      ∃ u x y, exec (.evKeyExchange share) s = .next u ∧ Claims.answered s u (some (y ^^^ share)) "KEY_EXCHANGE" [share.setWidth 512, x]) ∧
    (s.dev.bootResult ≠ 0 → ∀ i, i = .evGetVersion ∨ i = .evGetCertificate ∨ i = .evGetDigests ∨ (∃ n, i = .evChallenge n) ∨
      (∃ x, i = .evKeyExchange x) ∨ i = .evNegotiateAlgorithms → exec i s = .next s) ∧
    (s.dev.bootResult ≠ 0 → exec .evGetCapabilities s = .next { s with freeCtr := s.freeCtr + 1 })
end

