-- ==== Sys2Proof/Laws/Exec.lean ====
section
/-! SUPPORT. Each arm of exec: the meaning an instruction is given. -/

namespace Sys2Proof.Machine

@[simp] theorem exec_add (s : State) {d a b} : exec (.add d a b) s = execAdd d a b s := rfl
@[simp] theorem exec_sub (s : State) {d a b} : exec (.sub d a b) s = execSub d a b s := rfl
@[simp] theorem exec_and (s : State) {d a b} : exec (.and d a b) s = execAnd d a b s := rfl
@[simp] theorem exec_or (s : State) {d a b} : exec (.or d a b) s = execOr d a b s := rfl
@[simp] theorem exec_xor (s : State) {d a b} : exec (.xor d a b) s = execXor d a b s := rfl
@[simp] theorem exec_sll (s : State) {d a b} : exec (.sll d a b) s = execSll d a b s := rfl
@[simp] theorem exec_srl (s : State) {d a b} : exec (.srl d a b) s = execSrl d a b s := rfl
@[simp] theorem exec_sra (s : State) {d a b} : exec (.sra d a b) s = execSra d a b s := rfl
@[simp] theorem exec_slt (s : State) {d a b} : exec (.slt d a b) s = execSlt d a b s := rfl
@[simp] theorem exec_sltu (s : State) {d a b} : exec (.sltu d a b) s = execSltu d a b s := rfl
@[simp] theorem exec_min (s : State) {d a b} : exec (.min d a b) s = execMin d a b s := rfl
@[simp] theorem exec_max (s : State) {d a b} : exec (.max d a b) s = execMax d a b s := rfl
@[simp] theorem exec_minu (s : State) {d a b} : exec (.minu d a b) s = execMinu d a b s := rfl
@[simp] theorem exec_maxu (s : State) {d a b} : exec (.maxu d a b) s = execMaxu d a b s := rfl
@[simp] theorem exec_clz (s : State) {d a} : exec (.clz d a) s = execClz d a s := rfl
@[simp] theorem exec_ctz (s : State) {d a} : exec (.ctz d a) s = execCtz d a s := rfl
@[simp] theorem exec_popc (s : State) {d a} : exec (.popc d a) s = execPopc d a s := rfl
@[simp] theorem exec_mul (s : State) {d a b} : exec (.mul d a b) s = execMul d a b s := rfl
@[simp] theorem exec_mulh (s : State) {d a b} : exec (.mulh d a b) s = execMulh d a b s := rfl
@[simp] theorem exec_mulhu (s : State) {d a b} : exec (.mulhu d a b) s = execMulhu d a b s := rfl
@[simp] theorem exec_div (s : State) {d a b} : exec (.div d a b) s = execDiv d a b s := rfl
@[simp] theorem exec_divu (s : State) {d a b} : exec (.divu d a b) s = execDivu d a b s := rfl
@[simp] theorem exec_rem (s : State) {d a b} : exec (.rem d a b) s = execRem d a b s := rfl
@[simp] theorem exec_remu (s : State) {d a b} : exec (.remu d a b) s = execRemu d a b s := rfl
@[simp] theorem exec_slli (s : State) {d a n} : exec (.slli d a n) s = execSlli d a n s := rfl
@[simp] theorem exec_srli (s : State) {d a n} : exec (.srli d a n) s = execSrli d a n s := rfl
@[simp] theorem exec_srai (s : State) {d a n} : exec (.srai d a n) s = execSrai d a n s := rfl
@[simp] theorem exec_addi (s : State) {d a i} : exec (.addi d a i) s = execAddi d a i s := rfl
@[simp] theorem exec_andi (s : State) {d a i} : exec (.andi d a i) s = execAndi d a i s := rfl
@[simp] theorem exec_ori (s : State) {d a i} : exec (.ori d a i) s = execOri d a i s := rfl
@[simp] theorem exec_xori (s : State) {d a i} : exec (.xori d a i) s = execXori d a i s := rfl
@[simp] theorem exec_slti (s : State) {d a i} : exec (.slti d a i) s = execSlti d a i s := rfl
@[simp] theorem exec_sltiu (s : State) {d a i} : exec (.sltiu d a i) s = execSltiu d a i s := rfl
@[simp] theorem exec_lih (s : State) {d i} : exec (.lih d i) s = execLih d i s := rfl
@[simp] theorem exec_auipc (s : State) {d i} : exec (.auipc d i) s = execAuipc d i s := rfl
@[simp] theorem exec_beq (s : State) {a b o} : exec (.beq a b o) s = execBeq a b o s := rfl
@[simp] theorem exec_bne (s : State) {a b o} : exec (.bne a b o) s = execBne a b o s := rfl
@[simp] theorem exec_blt (s : State) {a b o} : exec (.blt a b o) s = execBlt a b o s := rfl
@[simp] theorem exec_bge (s : State) {a b o} : exec (.bge a b o) s = execBge a b o s := rfl
@[simp] theorem exec_bltu (s : State) {a b o} : exec (.bltu a b o) s = execBltu a b o s := rfl
@[simp] theorem exec_bgeu (s : State) {a b o} : exec (.bgeu a b o) s = execBgeu a b o s := rfl
@[simp] theorem exec_jal (s : State) {d i} : exec (.jal d i) s = execJal d i s := rfl
@[simp] theorem exec_jalr (s : State) {d a i} : exec (.jalr d a i) s = execJalr d a i s := rfl
@[simp] theorem exec_lb (s : State) {d a i} : exec (.lb d a i) s = execLb d a i s := rfl
@[simp] theorem exec_lbu (s : State) {d a i} : exec (.lbu d a i) s = execLbu d a i s := rfl
@[simp] theorem exec_lh (s : State) {d a i} : exec (.lh d a i) s = execLh d a i s := rfl
@[simp] theorem exec_lhu (s : State) {d a i} : exec (.lhu d a i) s = execLhu d a i s := rfl
@[simp] theorem exec_lw (s : State) {d a i} : exec (.lw d a i) s = execLw d a i s := rfl
@[simp] theorem exec_lwu (s : State) {d a i} : exec (.lwu d a i) s = execLwu d a i s := rfl
@[simp] theorem exec_ld (s : State) {d a i} : exec (.ld d a i) s = execLd d a i s := rfl
@[simp] theorem exec_sb (s : State) {d a i} : exec (.sb d a i) s = execSb d a i s := rfl
@[simp] theorem exec_sh (s : State) {d a i} : exec (.sh d a i) s = execSh d a i s := rfl
@[simp] theorem exec_sw (s : State) {d a i} : exec (.sw d a i) s = execSw d a i s := rfl
@[simp] theorem exec_sd (s : State) {d a i} : exec (.sd d a i) s = execSd d a i s := rfl
@[simp] theorem exec_amoswap (s : State) {d a b o s1 z} : exec (.amoswap d a b o s1 z) s = execAmoswap d a b o s1 z s := rfl
@[simp] theorem exec_amoadd (s : State) {d a b o s1 z} : exec (.amoadd d a b o s1 z) s = execAmoadd d a b o s1 z s := rfl
@[simp] theorem exec_amoand (s : State) {d a b o s1 z} : exec (.amoand d a b o s1 z) s = execAmoand d a b o s1 z s := rfl
@[simp] theorem exec_amoor (s : State) {d a b o s1 z} : exec (.amoor d a b o s1 z) s = execAmoor d a b o s1 z s := rfl
@[simp] theorem exec_amomax (s : State) {d a b o s1 z} : exec (.amomax d a b o s1 z) s = execAmomax d a b o s1 z s := rfl
@[simp] theorem exec_amomin (s : State) {d a b o s1 z} : exec (.amomin d a b o s1 z) s = execAmomin d a b o s1 z s := rfl
@[simp] theorem exec_amocas (s : State) {d a b o s1 z} : exec (.amocas d a b o s1 z) s = execAmocas d a b o s1 z s := rfl
@[simp] theorem exec_csrrd (s : State) {d c} : exec (.csrrd d c) s = execCsrrd d c s := rfl
@[simp] theorem exec_csrwr (s : State) {d a c} : exec (.csrwr d a c) s = execCsrwr d a c s := rfl
@[simp] theorem exec_csrset (s : State) {d a c} : exec (.csrset d a c) s = execCsrset d a c s := rfl
@[simp] theorem exec_csrclr (s : State) {d a c} : exec (.csrclr d a c) s = execCsrclr d a c s := rfl
@[simp] theorem exec_fence (s : State) {k s1} : exec (.fence k s1) s = execFence k s1 s := rfl
@[simp] theorem exec_sys (s : State) {c} : exec (.sys c) s = execSys c s := rfl
@[simp] theorem exec_eret (s : State) : exec (.eret) s = execEret s := rfl
@[simp] theorem exec_brk (s : State) {c} : exec (.brk c) s = execBrk c s := rfl
@[simp] theorem exec_wfe (s : State) : exec (.wfe) s = execWfe s := rfl
@[simp] theorem exec_setvl (s : State) {c d a} : exec (.setvl c d a) s = execSetvl c d a s := rfl
@[simp] theorem exec_setvt (s : State) {c t} : exec (.setvt c t) s = execSetvt c t s := rfl
@[simp] theorem exec_setvtReg (s : State) {c a} : exec (.setvtReg c a) s = execSetvtReg c a s := rfl
@[simp] theorem exec_setsv (s : State) {c s1} : exec (.setsv c s1) s = execSetsv c s1 s := rfl
@[simp] theorem exec_setsvOff (s : State) {c} : exec (.setsvOff c) s = execSetsvOff c s := rfl
@[simp] theorem exec_vadd (s : State) {c d a b m} : exec (.vadd c d a b m) s = execVadd c d a b m s := rfl
@[simp] theorem exec_vsub (s : State) {c d a b m} : exec (.vsub c d a b m) s = execVsub c d a b m s := rfl
@[simp] theorem exec_vmul (s : State) {c d a b m} : exec (.vmul c d a b m) s = execVmul c d a b m s := rfl
@[simp] theorem exec_vdiv (s : State) {c d a b m} : exec (.vdiv c d a b m) s = execVdiv c d a b m s := rfl
@[simp] theorem exec_vmin (s : State) {c d a b m} : exec (.vmin c d a b m) s = execVmin c d a b m s := rfl
@[simp] theorem exec_vmax (s : State) {c d a b m} : exec (.vmax c d a b m) s = execVmax c d a b m s := rfl
@[simp] theorem exec_vmulh (s : State) {c d a b m} : exec (.vmulh c d a b m) s = execVmulh c d a b m s := rfl
@[simp] theorem exec_vabsd (s : State) {c d a b m} : exec (.vabsd c d a b m) s = execVabsd c d a b m s := rfl
@[simp] theorem exec_vand (s : State) {c d a b m} : exec (.vand c d a b m) s = execVand c d a b m s := rfl
@[simp] theorem exec_vor (s : State) {c d a b m} : exec (.vor c d a b m) s = execVor c d a b m s := rfl
@[simp] theorem exec_vxor (s : State) {c d a b m} : exec (.vxor c d a b m) s = execVxor c d a b m s := rfl
@[simp] theorem exec_vsll (s : State) {c d a b m} : exec (.vsll c d a b m) s = execVsll c d a b m s := rfl
@[simp] theorem exec_vsrl (s : State) {c d a b m} : exec (.vsrl c d a b m) s = execVsrl c d a b m s := rfl
@[simp] theorem exec_vsra (s : State) {c d a b m} : exec (.vsra c d a b m) s = execVsra c d a b m s := rfl
@[simp] theorem exec_vaddi (s : State) {c d a i m} : exec (.vaddi c d a i m) s = execVaddi c d a i m s := rfl
@[simp] theorem exec_vslli (s : State) {c d a i m} : exec (.vslli c d a i m) s = execVslli c d a i m s := rfl
@[simp] theorem exec_vsrli (s : State) {c d a i m} : exec (.vsrli c d a i m) s = execVsrli c d a i m s := rfl
@[simp] theorem exec_vsrai (s : State) {c d a i m} : exec (.vsrai c d a i m) s = execVsrai c d a i m s := rfl
@[simp] theorem exec_vaddVx (s : State) {c d a b x} : exec (.vaddVx c d a b x) s = execVaddVx c d a b x s := rfl
@[simp] theorem exec_vsubVx (s : State) {c d a b x} : exec (.vsubVx c d a b x) s = execVsubVx c d a b x s := rfl
@[simp] theorem exec_vmulVx (s : State) {c d a b x} : exec (.vmulVx c d a b x) s = execVmulVx c d a b x s := rfl
@[simp] theorem exec_vminVx (s : State) {c d a b x} : exec (.vminVx c d a b x) s = execVminVx c d a b x s := rfl
@[simp] theorem exec_vmaxVx (s : State) {c d a b x} : exec (.vmaxVx c d a b x) s = execVmaxVx c d a b x s := rfl
@[simp] theorem exec_vfma (s : State) {c d a b m} : exec (.vfma c d a b m) s = execVfma c d a b m s := rfl
@[simp] theorem exec_vfms (s : State) {c d a b m} : exec (.vfms c d a b m) s = execVfms c d a b m s := rfl
@[simp] theorem exec_vfnma (s : State) {c d a b m} : exec (.vfnma c d a b m) s = execVfnma c d a b m s := rfl
@[simp] theorem exec_vfnms (s : State) {c d a b m} : exec (.vfnms c d a b m) s = execVfnms c d a b m s := rfl
@[simp] theorem exec_vrec (s : State) {c d a m} : exec (.vrec c d a m) s = execVrec c d a m s := rfl
@[simp] theorem exec_vrsq (s : State) {c d a m} : exec (.vrsq c d a m) s = execVrsq c d a m s := rfl
@[simp] theorem exec_vfexp2 (s : State) {c d a m} : exec (.vfexp2 c d a m) s = execVfexp2 c d a m s := rfl
@[simp] theorem exec_vabs (s : State) {c d a m} : exec (.vabs c d a m) s = execVabs c d a m s := rfl
@[simp] theorem exec_vneg (s : State) {c d a m} : exec (.vneg c d a m) s = execVneg c d a m s := rfl
@[simp] theorem exec_vnot (s : State) {c d a m} : exec (.vnot c d a m) s = execVnot c d a m s := rfl
@[simp] theorem exec_vclz (s : State) {c d a m} : exec (.vclz c d a m) s = execVclz c d a m s := rfl
@[simp] theorem exec_vpopc (s : State) {c d a m} : exec (.vpopc c d a m) s = execVpopc c d a m s := rfl
@[simp] theorem exec_vcvt (s : State) {c d a t m} : exec (.vcvt c d a t m) s = execVcvt c d a t m s := rfl
@[simp] theorem exec_vwiden (s : State) {c d a t m} : exec (.vwiden c d a t m) s = execVwiden c d a t m s := rfl
@[simp] theorem exec_vnarrow (s : State) {c d a t m} : exec (.vnarrow c d a t m) s = execVnarrow c d a t m s := rfl
@[simp] theorem exec_vquant (s : State) {c d a t} : exec (.vquant c d a t) s = execVquant c d a t s := rfl
@[simp] theorem exec_vdeq (s : State) {c d a t m} : exec (.vdeq c d a t m) s = execVdeq c d a t m s := rfl
@[simp] theorem exec_vcmpEq (s : State) {c d a b m} : exec (.vcmpEq c d a b m) s = execVcmpEq c d a b m s := rfl
@[simp] theorem exec_vcmpNe (s : State) {c d a b m} : exec (.vcmpNe c d a b m) s = execVcmpNe c d a b m s := rfl
@[simp] theorem exec_vcmpLt (s : State) {c d a b m} : exec (.vcmpLt c d a b m) s = execVcmpLt c d a b m s := rfl
@[simp] theorem exec_vcmpLe (s : State) {c d a b m} : exec (.vcmpLe c d a b m) s = execVcmpLe c d a b m s := rfl
@[simp] theorem exec_vcmpiEq (s : State) {c d a i m} : exec (.vcmpiEq c d a i m) s = execVcmpiEq c d a i m s := rfl
@[simp] theorem exec_vcmpiNe (s : State) {c d a i m} : exec (.vcmpiNe c d a i m) s = execVcmpiNe c d a i m s := rfl
@[simp] theorem exec_vcmpiLt (s : State) {c d a i m} : exec (.vcmpiLt c d a i m) s = execVcmpiLt c d a i m s := rfl
@[simp] theorem exec_vcmpiGt (s : State) {c d a i m} : exec (.vcmpiGt c d a i m) s = execVcmpiGt c d a i m s := rfl
@[simp] theorem exec_mand (s : State) {c d a b} : exec (.mand c d a b) s = execMand c d a b s := rfl
@[simp] theorem exec_mor (s : State) {c d a b} : exec (.mor c d a b) s = execMor c d a b s := rfl
@[simp] theorem exec_mxor (s : State) {c d a b} : exec (.mxor c d a b) s = execMxor c d a b s := rfl
@[simp] theorem exec_mandn (s : State) {c d a b} : exec (.mandn c d a b) s = execMandn c d a b s := rfl
@[simp] theorem exec_mpop (s : State) {c d a} : exec (.mpop c d a) s = execMpop c d a s := rfl
@[simp] theorem exec_mfirst (s : State) {c d a} : exec (.mfirst c d a) s = execMfirst c d a s := rfl
@[simp] theorem exec_vmerge (s : State) {c d a b m} : exec (.vmerge c d a b m) s = execVmerge c d a b m s := rfl
@[simp] theorem exec_vid (s : State) {c d m} : exec (.vid c d m) s = execVid c d m s := rfl
@[simp] theorem exec_vcompress (s : State) {c d a s1 m} : exec (.vcompress c d a s1 m) s = execVcompress c d a s1 m s := rfl
@[simp] theorem exec_vexpand (s : State) {c d a m} : exec (.vexpand c d a m) s = execVexpand c d a m s := rfl
@[simp] theorem exec_vperm (s : State) {c d a b m} : exec (.vperm c d a b m) s = execVperm c d a b m s := rfl
@[simp] theorem exec_viota (s : State) {c d a m} : exec (.viota c d a m) s = execViota c d a m s := rfl
@[simp] theorem exec_vslup (s : State) {c d a s1 m} : exec (.vslup c d a s1 m) s = execVslup c d a s1 m s := rfl
@[simp] theorem exec_vsldn (s : State) {c d a s1 m} : exec (.vsldn c d a s1 m) s = execVsldn c d a s1 m s := rfl
@[simp] theorem exec_vbcast (s : State) {c d s1 m} : exec (.vbcast c d s1 m) s = execVbcast c d s1 m s := rfl
@[simp] theorem exec_vmov (s : State) {c d a x m} : exec (.vmov c d a x m) s = execVmov c d a x m s := rfl
@[simp] theorem exec_vxlane (s : State) {c d a s1} : exec (.vxlane c d a s1) s = execVxlane c d a s1 s := rfl
@[simp] theorem exec_vredsum (s : State) {c d a m} : exec (.vredsum c d a m) s = execVredsum c d a m s := rfl
@[simp] theorem exec_vredmax (s : State) {c d a m} : exec (.vredmax c d a m) s = execVredmax c d a m s := rfl
@[simp] theorem exec_vredmin (s : State) {c d a m} : exec (.vredmin c d a m) s = execVredmin c d a m s := rfl
@[simp] theorem exec_vredand (s : State) {c d a m} : exec (.vredand c d a m) s = execVredand c d a m s := rfl
@[simp] theorem exec_vredor (s : State) {c d a m} : exec (.vredor c d a m) s = execVredor c d a m s := rfl
@[simp] theorem exec_vredxor (s : State) {c d a m} : exec (.vredxor c d a m) s = execVredxor c d a m s := rfl
@[simp] theorem exec_vscansum (s : State) {c d a m} : exec (.vscansum c d a m) s = execVscansum c d a m s := rfl
@[simp] theorem exec_vscanmax (s : State) {c d a m} : exec (.vscanmax c d a m) s = execVscanmax c d a m s := rfl
@[simp] theorem exec_vscanmin (s : State) {c d a m} : exec (.vscanmin c d a m) s = execVscanmin c d a m s := rfl
@[simp] theorem exec_vscansumX (s : State) {c d a m} : exec (.vscansumX c d a m) s = execVscansumX c d a m s := rfl
@[simp] theorem exec_vscanmaxX (s : State) {c d a m} : exec (.vscanmaxX c d a m) s = execVscanmaxX c d a m s := rfl
@[simp] theorem exec_vscanminX (s : State) {c d a m} : exec (.vscanminX c d a m) s = execVscanminX c d a m s := rfl
@[simp] theorem exec_vfoldSum (s : State) {c d a i} : exec (.vfoldSum c d a i) s = execVfoldSum c d a i s := rfl
@[simp] theorem exec_vfoldMax (s : State) {c d a i} : exec (.vfoldMax c d a i) s = execVfoldMax c d a i s := rfl
@[simp] theorem exec_vfoldMin (s : State) {c d a i} : exec (.vfoldMin c d a i) s = execVfoldMin c d a i s := rfl
@[simp] theorem exec_vcsx (s : State) {c d a m} : exec (.vcsx c d a m) s = execVcsx c d a m s := rfl
@[simp] theorem exec_vld (s : State) {c d b m} : exec (.vld c d b m) s = execVld c d b m s := rfl
@[simp] theorem exec_vlds (s : State) {c d b s1 m} : exec (.vlds c d b s1 m) s = execVlds c d b s1 m s := rfl
@[simp] theorem exec_vldb (s : State) {c d b m o} : exec (.vldb c d b m o) s = execVldb c d b m o s := rfl
@[simp] theorem exec_vldw (s : State) {c d b m x r} : exec (.vldw c d b m x r) s = execVldw c d b m x r s := rfl
@[simp] theorem exec_vldwScaled (s : State) {c d b s1 m x r} : exec (.vldwScaled c d b s1 m x r) s = execVldwScaled c d b s1 m x r s := rfl
@[simp] theorem exec_vst (s : State) {c d b m} : exec (.vst c d b m) s = execVst c d b m s := rfl
@[simp] theorem exec_vsts (s : State) {c d b s1 m} : exec (.vsts c d b s1 m) s = execVsts c d b s1 m s := rfl
@[simp] theorem exec_loopv (s : State) {n p} : exec (.loopv n p) s = execLoopv n p s := rfl
@[simp] theorem exec_endv (s : State) : exec (.endv) s = execEndv s := rfl
@[simp] theorem exec_brkv (s : State) {m} : exec (.brkv m) s = execBrkv m s := rfl
@[simp] theorem exec_vbr (s : State) {m o} : exec (.vbr m o) s = execVbr m o s := rfl
@[simp] theorem exec_vjoin (s : State) : exec (.vjoin) s = execVjoin s := rfl
@[simp] theorem exec_plan (s : State) {x a b w} : exec (.plan x a b w) s = execPlan x a b w s := rfl
@[simp] theorem exec_papply (s : State) {v a b t r} : exec (.papply v a b t r) s = execPapply v a b t r s := rfl
@[simp] theorem exec_papplySpm (s : State) {x a b r} : exec (.papplySpm x a b r) s = execPapplySpm x a b r s := rfl
@[simp] theorem exec_pscat (s : State) {v a b m o} : exec (.pscat v a b m o) s = execPscat v a b m o s := rfl
@[simp] theorem exec_pinv (s : State) {x a} : exec (.pinv x a) s = execPinv x a s := rfl
@[simp] theorem exec_pcomp (s : State) {x a b} : exec (.pcomp x a b) s = execPcomp x a b s := rfl
@[simp] theorem exec_pstat (s : State) {x a} : exec (.pstat x a) s = execPstat x a s := rfl
@[simp] theorem exec_pfree (s : State) {a} : exec (.pfree a) s = execPfree a s := rfl
@[simp] theorem exec_pspill (s : State) {a} : exec (.pspill a) s = execPspill a s := rfl
@[simp] theorem exec_pfill (s : State) {a} : exec (.pfill a) s = execPfill a s := rfl
@[simp] theorem exec_mattach (s : State) {n} : exec (.mattach n) s = execMattach n s := rfl
@[simp] theorem exec_mdetach (s : State) : exec (.mdetach) s = execMdetach s := rfl
@[simp] theorem exec_mdeclF32 (s : State) {s1} : exec (.mdeclF32 s1) s = execMdeclF32 s1 s := rfl
@[simp] theorem exec_mdeclI32 (s : State) {s1} : exec (.mdeclI32 s1) s = execMdeclI32 s1 s := rfl
@[simp] theorem exec_mdeclRank (s : State) {k s1} : exec (.mdeclRank k s1) s = execMdeclRank k s1 s := rfl
@[simp] theorem exec_mzero (s : State) {c s1} : exec (.mzero c s1) s = execMzero c s1 s := rfl
@[simp] theorem exec_mop (s : State) {c a b s1 r p} : exec (.mop c a b s1 r p) s = execMop c a b s1 r p s := rfl
@[simp] theorem exec_mopa (s : State) {c q b s1 r p} : exec (.mopa c q b s1 r p) s = execMopa c q b s1 r p s := rfl
@[simp] theorem exec_mlda (s : State) {c a b s1} : exec (.mlda c a b s1) s = execMlda c a b s1 s := rfl
@[simp] theorem exec_msta (s : State) {c a b s1} : exec (.msta c a b s1) s = execMsta c a b s1 s := rfl
@[simp] theorem exec_mrd (s : State) {c d a t s1} : exec (.mrd c d a t s1) s = execMrd c d a t s1 s := rfl
@[simp] theorem exec_mrank (s : State) {c a t q} : exec (.mrank c a t q) s = execMrank c a t q s := rfl
@[simp] theorem exec_mrmerge (s : State) {c a t} : exec (.mrmerge c a t) s = execMrmerge c a t s := rfl
@[simp] theorem exec_mthr (s : State) {c d s1} : exec (.mthr c d s1) s = execMthr c d s1 s := rfl
@[simp] theorem exec_mwait (s : State) : exec (.mwait) s = execMwait s := rfl
@[simp] theorem exec_stream (s : State) {x a n t v r} : exec (.stream x a n t v r) s = execStream x a n t v r s := rfl
@[simp] theorem exec_streamReg (s : State) {d a t} : exec (.streamReg d a t) s = execStreamReg d a t s := rfl
@[simp] theorem exec_swalk (s : State) {x a n t v r} : exec (.swalk x a n t v r) s = execSwalk x a n t v r s := rfl
@[simp] theorem exec_scow (s : State) {x a n t v r} : exec (.scow x a n t v r) s = execScow x a n t v r s := rfl
@[simp] theorem exec_swaitRelease (s : State) {t} : exec (.swaitRelease t) s = execSwaitRelease t s := rfl
@[simp] theorem exec_swaitVisible (s : State) {t} : exec (.swaitVisible t) s = execSwaitVisible t s := rfl
@[simp] theorem exec_commit (s : State) {t} : exec (.commit t) s = execCommit t s := rfl
@[simp] theorem exec_tdef (s : State) {x a b} : exec (.tdef x a b) s = execTdef x a b s := rfl
@[simp] theorem exec_tdec (s : State) {a b} : exec (.tdec a b) s = execTdec a b s := rfl
@[simp] theorem exec_tspawn (s : State) {x a b} : exec (.tspawn x a b) s = execTspawn x a b s := rfl
@[simp] theorem exec_evrd (s : State) {x} : exec (.evrd x) s = execEvrd x s := rfl
@[simp] theorem exec_evpost (s : State) {a b} : exec (.evpost a b) s = execEvpost a b s := rfl
@[simp] theorem exec_bar (s : State) {g} : exec (.bar g) s = execBar g s := rfl
@[simp] theorem exec_mark (s : State) {m} : exec (.mark m) s = execMark m s := rfl
@[simp] theorem exec_ttbind (s : State) {a b o} : exec (.ttbind a b o) s = execTtbind a b o s := rfl
@[simp] theorem exec_ttstat (s : State) {x a} : exec (.ttstat x a) s = execTtstat x a s := rfl
@[simp] theorem exec_tierpin (s : State) {a b} : exec (.tierpin a b) s = execTierpin a b s := rfl
@[simp] theorem exec_tierfree (s : State) {a b} : exec (.tierfree a b) s = execTierfree a b s := rfl
@[simp] theorem exec_rowsend (s : State) {v a b} : exec (.rowsend v a b) s = execRowsend v a b s := rfl
@[simp] theorem exec_rowack (s : State) {x a} : exec (.rowack x a) s = execRowack x a s := rfl
@[simp] theorem exec_arrwait (s : State) {a b} : exec (.arrwait a b) s = execArrwait a b s := rfl
@[simp] theorem exec_replsel (s : State) {x a b} : exec (.replsel x a b) s = execReplsel x a b s := rfl
@[simp] theorem exec_ctxyield (s : State) : exec (.ctxyield) s = execCtxyield s := rfl
@[simp] theorem exec_enchk (s : State) {x a} : exec (.enchk x a) s = execEnchk x a s := rfl
@[simp] theorem exec_evConvoyStart (s : State) {f} : exec (.evConvoyStart f) s = execEvConvoyStart f s := rfl
@[simp] theorem exec_evVseqAdvance (s : State) {core lane} : exec (.evVseqAdvance core lane) s = execEvVseqAdvance core lane s := rfl
@[simp] theorem exec_evScalarResultWrite (s : State) {f r} : exec (.evScalarResultWrite f r) s = execEvScalarResultWrite f r s := rfl
@[simp] theorem exec_evVxlaneExchange (s : State) {f g} : exec (.evVxlaneExchange f g) s = execEvVxlaneExchange f g s := rfl
@[simp] theorem exec_evLandingDelivered (s : State) {f tag} : exec (.evLandingDelivered f tag) s = execEvLandingDelivered f tag s := rfl
@[simp] theorem exec_evWaitSatisfied (s : State) {f} : exec (.evWaitSatisfied f) s = execEvWaitSatisfied f s := rfl
@[simp] theorem exec_evEnter (s : State) {f k} : exec (.evEnter f k) s = execEvEnter f k s := rfl
@[simp] theorem exec_evTake (s : State) {f k} : exec (.evTake f k) s = execEvTake f k s := rfl
@[simp] theorem exec_evSend (s : State) {f k} : exec (.evSend f k) s = execEvSend f k s := rfl
@[simp] theorem exec_evPass (s : State) {k} : exec (.evPass k) s = execEvPass k s := rfl
@[simp] theorem exec_evApply (s : State) {k} : exec (.evApply k) s = execEvApply k s := rfl
@[simp] theorem exec_evDrop (s : State) {core addr} : exec (.evDrop core addr) s = execEvDrop core addr s := rfl
@[simp] theorem exec_evAccept (s : State) {f} : exec (.evAccept f) s = execEvAccept f s := rfl
@[simp] theorem exec_evEaccess (s : State) {job write} : exec (.evEaccess job write) s = execEvEaccess job write s := rfl
@[simp] theorem exec_evPoint (s : State) {job visible} : exec (.evPoint job visible) s = execEvPoint job visible s := rfl
@[simp] theorem exec_evWriteback (s : State) {addr} : exec (.evWriteback addr) s = execEvWriteback addr s := rfl
@[simp] theorem exec_evTableLockRetry (s : State) {job} : exec (.evTableLockRetry job) s = execEvTableLockRetry job s := rfl
@[simp] theorem exec_evPlanBuildComplete (s : State) {job} : exec (.evPlanBuildComplete job) s = execEvPlanBuildComplete job s := rfl
@[simp] theorem exec_evTaskDispatch (s : State) {die} : exec (.evTaskDispatch die) s = execEvTaskDispatch die s := rfl
@[simp] theorem exec_evTaskEnd (s : State) {f} : exec (.evTaskEnd f) s = execEvTaskEnd f s := rfl
@[simp] theorem exec_evEventRecordDelivered (s : State) {k} : exec (.evEventRecordDelivered k) s = execEvEventRecordDelivered k s := rfl
@[simp] theorem exec_evBarRelease (s : State) {launch group} : exec (.evBarRelease launch group) s = execEvBarRelease launch group s := rfl
@[simp] theorem exec_evTimetableLineRead (s : State) {f} : exec (.evTimetableLineRead f) s = execEvTimetableLineRead f s := rfl
@[simp] theorem exec_evTimetableEntryStart (s : State) {f n} : exec (.evTimetableEntryStart f n) s = execEvTimetableEntryStart f n s := rfl
@[simp] theorem exec_evTimetableEntryDone (s : State) {f n} : exec (.evTimetableEntryDone f n) s = execEvTimetableEntryDone f n s := rfl
@[simp] theorem exec_evMarkCheckComplete (s : State) {f} : exec (.evMarkCheckComplete f) s = execEvMarkCheckComplete f s := rfl
@[simp] theorem exec_evRowArrive (s : State) {k} : exec (.evRowArrive k) s = execEvRowArrive k s := rfl
@[simp] theorem exec_evRowCounterIncrement (s : State) {k} : exec (.evRowCounterIncrement k) s = execEvRowCounterIncrement k s := rfl
@[simp] theorem exec_evRowAnswer (s : State) {k} : exec (.evRowAnswer k) s = execEvRowAnswer k s := rfl
@[simp] theorem exec_evWindowBoundary (s : State) : exec (.evWindowBoundary) s = execEvWindowBoundary s := rfl
@[simp] theorem exec_evReplayBoundary (s : State) {t} : exec (.evReplayBoundary t) s = execEvReplayBoundary t s := rfl
@[simp] theorem exec_evPreemptSave (s : State) {f} : exec (.evPreemptSave f) s = execEvPreemptSave f s := rfl
@[simp] theorem exec_evForcedPreemption (s : State) {f} : exec (.evForcedPreemption f) s = execEvForcedPreemption f s := rfl
@[simp] theorem exec_evResume (s : State) {f} : exec (.evResume f) s = execEvResume f s := rfl
@[simp] theorem exec_evTranslationWalk (s : State) {t va} : exec (.evTranslationWalk t va) s = execEvTranslationWalk t va s := rfl
@[simp] theorem exec_evLaunchPortWrite (s : State) {t off bytes} : exec (.evLaunchPortWrite t off bytes) s = execEvLaunchPortWrite t off bytes s := rfl
@[simp] theorem exec_evLaunchPlace (s : State) {t prio} : exec (.evLaunchPlace t prio) s = execEvLaunchPlace t prio s := rfl
@[simp] theorem exec_evLaunchEnd (s : State) {launch} : exec (.evLaunchEnd launch) s = execEvLaunchEnd launch s := rfl
@[simp] theorem exec_evTenantSetLive (s : State) {t v} : exec (.evTenantSetLive t v) s = execEvTenantSetLive t v s := rfl
@[simp] theorem exec_evTenantEnd (s : State) {t} : exec (.evTenantEnd t) s = execEvTenantEnd t s := rfl
@[simp] theorem exec_evPartaddrWrite (s : State) {t v} : exec (.evPartaddrWrite t v) s = execEvPartaddrWrite t v s := rfl
@[simp] theorem exec_evShareWrite (s : State) {t v} : exec (.evShareWrite t v) s = execEvShareWrite t v s := rfl
@[simp] theorem exec_evCapujWrite (s : State) {v} : exec (.evCapujWrite v) s = execEvCapujWrite v s := rfl
@[simp] theorem exec_evTvectWrite (s : State) {t v} : exec (.evTvectWrite t v) s = execEvTvectWrite t v s := rfl
@[simp] theorem exec_evPreemptWrite (s : State) {v} : exec (.evPreemptWrite v) s = execEvPreemptWrite v s := rfl
@[simp] theorem exec_evRegisterWrite (s : State) {r v} : exec (.evRegisterWrite r v) s = execEvRegisterWrite r v s := rfl
@[simp] theorem exec_evShootdownCommand (s : State) {t bytes} : exec (.evShootdownCommand t bytes) s = execEvShootdownCommand t bytes s := rfl
@[simp] theorem exec_evShootdownComplete (s : State) {t} : exec (.evShootdownComplete t) s = execEvShootdownComplete t s := rfl
@[simp] theorem exec_evHdmctlEnable (s : State) {v} : exec (.evHdmctlEnable v) s = execEvHdmctlEnable v s := rfl
@[simp] theorem exec_evBiascmd (s : State) {bytes} : exec (.evBiascmd bytes) s = execEvBiascmd bytes s := rfl
@[simp] theorem exec_evBiasFlipComplete (s : State) : exec (.evBiasFlipComplete) s = execEvBiasFlipComplete s := rfl
@[simp] theorem exec_evMemrd (s : State) {pa} : exec (.evMemrd pa) s = execEvMemrd pa s := rfl
@[simp] theorem exec_evMemwr (s : State) {pa data} : exec (.evMemwr pa data) s = execEvMemwr pa data s := rfl
@[simp] theorem exec_evMeminv (s : State) {pa} : exec (.evMeminv pa) s = execEvMeminv pa s := rfl
@[simp] theorem exec_evSnpdata (s : State) {a} : exec (.evSnpdata a) s = execEvSnpdata a s := rfl
@[simp] theorem exec_evSnpinv (s : State) {a} : exec (.evSnpinv a) s = execEvSnpinv a s := rfl
@[simp] theorem exec_evSnpcur (s : State) {a} : exec (.evSnpcur a) s = execEvSnpcur a s := rfl
@[simp] theorem exec_evBirsp (s : State) {pa data} : exec (.evBirsp pa data) s = execEvBirsp pa data s := rfl
@[simp] theorem exec_evBiconflict (s : State) {pa} : exec (.evBiconflict pa) s = execEvBiconflict pa s := rfl
@[simp] theorem exec_evRds (s : State) {die g} : exec (.evRds die g) s = execEvRds die g s := rfl
@[simp] theorem exec_evRdx (s : State) {die g} : exec (.evRdx die g) s = execEvRdx die g s := rfl
@[simp] theorem exec_evUpg (s : State) {die g} : exec (.evUpg die g) s = execEvUpg die g s := rfl
@[simp] theorem exec_evFwd (s : State) {k} : exec (.evFwd k) s = execEvFwd k s := rfl
@[simp] theorem exec_evInv (s : State) {k} : exec (.evInv k) s = execEvInv k s := rfl
@[simp] theorem exec_evBinv (s : State) {k} : exec (.evBinv k) s = execEvBinv k s := rfl
@[simp] theorem exec_evData (s : State) {k} : exec (.evData k) s = execEvData k s := rfl
@[simp] theorem exec_evWb (s : State) {die g} : exec (.evWb die g) s = execEvWb die g s := rfl
@[simp] theorem exec_evAck (s : State) {k} : exec (.evAck k) s = execEvAck k s := rfl
@[simp] theorem exec_evDone (s : State) {k} : exec (.evDone k) s = execEvDone k s := rfl
@[simp] theorem exec_evVexconFlitReceive (s : State) {port flit} : exec (.evVexconFlitReceive port flit) s = execEvVexconFlitReceive port flit s := rfl
@[simp] theorem exec_evVexconPortDown (s : State) {port} : exec (.evVexconPortDown port) s = execEvVexconPortDown port s := rfl
@[simp] theorem exec_evPeerRequest (s : State) {q} : exec (.evPeerRequest q) s = execEvPeerRequest q s := rfl
@[simp] theorem exec_evDomctlEnable (s : State) {v} : exec (.evDomctlEnable v) s = execEvDomctlEnable v s := rfl
@[simp] theorem exec_evPatrolScrub (s : State) {sector} : exec (.evPatrolScrub sector) s = execEvPatrolScrub sector s := rfl
@[simp] theorem exec_evDieLoss (s : State) {die} : exec (.evDieLoss die) s = execEvDieLoss die s := rfl
@[simp] theorem exec_evRetclWrite (s : State) {v} : exec (.evRetclWrite v) s = execEvRetclWrite v s := rfl
@[simp] theorem exec_evRetlgWrite (s : State) {byte v} : exec (.evRetlgWrite byte v) s = execEvRetlgWrite byte v s := rfl
@[simp] theorem exec_evRepair (s : State) {row seq} : exec (.evRepair row seq) s = execEvRepair row seq s := rfl
@[simp] theorem exec_evRepairComplete (s : State) : exec (.evRepairComplete) s = execEvRepairComplete s := rfl
@[simp] theorem exec_evPowerOn (s : State) : exec (.evPowerOn) s = execEvPowerOn s := rfl
@[simp] theorem exec_evConventionalReset (s : State) : exec (.evConventionalReset) s = execEvConventionalReset s := rfl
@[simp] theorem exec_evAbruptReset (s : State) : exec (.evAbruptReset) s = execEvAbruptReset s := rfl
@[simp] theorem exec_evPfReset (s : State) : exec (.evPfReset) s = execEvPfReset s := rfl
@[simp] theorem exec_evVfReset (s : State) {n} : exec (.evVfReset n) s = execEvVfReset n s := rfl
@[simp] theorem exec_evFeataccWrite (s : State) {n v} : exec (.evFeataccWrite n v) s = execEvFeataccWrite n v s := rfl
@[simp] theorem exec_evFeatctlLock (s : State) : exec (.evFeatctlLock) s = execEvFeatctlLock s := rfl
@[simp] theorem exec_evGetVersion (s : State) : exec (.evGetVersion) s = execEvGetVersion s := rfl
@[simp] theorem exec_evGetCapabilities (s : State) : exec (.evGetCapabilities) s = execEvGetCapabilities s := rfl
@[simp] theorem exec_evNegotiateAlgorithms (s : State) : exec (.evNegotiateAlgorithms) s = execEvNegotiateAlgorithms s := rfl
@[simp] theorem exec_evGetDigests (s : State) : exec (.evGetDigests) s = execEvGetDigests s := rfl
@[simp] theorem exec_evGetCertificate (s : State) : exec (.evGetCertificate) s = execEvGetCertificate s := rfl
@[simp] theorem exec_evChallenge (s : State) {nonce} : exec (.evChallenge nonce) s = execEvChallenge nonce s := rfl
@[simp] theorem exec_evGetMeasurements (s : State) {index nonce} : exec (.evGetMeasurements index nonce) s = execEvGetMeasurements index nonce s := rfl
@[simp] theorem exec_evKeyExchange (s : State) {share} : exec (.evKeyExchange share) s = execEvKeyExchange share s := rfl
@[simp] theorem exec_evMatrixWordComplete (s : State) {f} : exec (.evMatrixWordComplete f) s = execEvMatrixWordComplete f s := rfl
@[simp] theorem exec_evUncorrectableError (s : State) {e} : exec (.evUncorrectableError e) s = execEvUncorrectableError e s := rfl
@[simp] theorem exec_evDieLinkDown (s : State) {d h} : exec (.evDieLinkDown d h) s = execEvDieLinkDown d h s := rfl
@[simp] theorem exec_evHostLinkDown (s : State) : exec (.evHostLinkDown) s = execEvHostLinkDown s := rfl
@[simp] theorem exec_evHostLinkTraining (s : State) {width rate cxl} : exec (.evHostLinkTraining width rate cxl) s = execEvHostLinkTraining width rate cxl s := rfl
@[simp] theorem exec_evPowerOff (s : State) : exec (.evPowerOff) s = execEvPowerOff s := rfl

end Sys2Proof.Machine
end

