-- ==== Sys2Proof/Laws/PerInstr.lean ====
section
/-! SUPPORT. The family `Fits`, one lemma per constructor: the encoder's word of an instruction, where it has one, fits
32 bits. -/

namespace Sys2Proof.Laws.Fits

/-- The word of an instruction fits 32 bits. -/
def Statement (i : Instr) : Prop := ∀ w, encodeNat i = some w → w < 2 ^ 32

theorem add (d : BitVec 5) (a : BitVec 5) (b : BitVec 5) : Statement (.add d a b) := by
  intro w h; injection h with h; subst h; have := d.isLt; have := a.isLt; have := b.isLt; simp only [pack]; omega
theorem sub (d : BitVec 5) (a : BitVec 5) (b : BitVec 5) : Statement (.sub d a b) := by
  intro w h; injection h with h; subst h; have := d.isLt; have := a.isLt; have := b.isLt; simp only [pack]; omega
theorem and (d : BitVec 5) (a : BitVec 5) (b : BitVec 5) : Statement (.and d a b) := by
  intro w h; injection h with h; subst h; have := d.isLt; have := a.isLt; have := b.isLt; simp only [pack]; omega
theorem or (d : BitVec 5) (a : BitVec 5) (b : BitVec 5) : Statement (.or d a b) := by
  intro w h; injection h with h; subst h; have := d.isLt; have := a.isLt; have := b.isLt; simp only [pack]; omega
theorem xor (d : BitVec 5) (a : BitVec 5) (b : BitVec 5) : Statement (.xor d a b) := by
  intro w h; injection h with h; subst h; have := d.isLt; have := a.isLt; have := b.isLt; simp only [pack]; omega
theorem sll (d : BitVec 5) (a : BitVec 5) (b : BitVec 5) : Statement (.sll d a b) := by
  intro w h; injection h with h; subst h; have := d.isLt; have := a.isLt; have := b.isLt; simp only [pack]; omega
theorem srl (d : BitVec 5) (a : BitVec 5) (b : BitVec 5) : Statement (.srl d a b) := by
  intro w h; injection h with h; subst h; have := d.isLt; have := a.isLt; have := b.isLt; simp only [pack]; omega
theorem sra (d : BitVec 5) (a : BitVec 5) (b : BitVec 5) : Statement (.sra d a b) := by
  intro w h; injection h with h; subst h; have := d.isLt; have := a.isLt; have := b.isLt; simp only [pack]; omega
theorem slt (d : BitVec 5) (a : BitVec 5) (b : BitVec 5) : Statement (.slt d a b) := by
  intro w h; injection h with h; subst h; have := d.isLt; have := a.isLt; have := b.isLt; simp only [pack]; omega
theorem sltu (d : BitVec 5) (a : BitVec 5) (b : BitVec 5) : Statement (.sltu d a b) := by
  intro w h; injection h with h; subst h; have := d.isLt; have := a.isLt; have := b.isLt; simp only [pack]; omega
theorem min (d : BitVec 5) (a : BitVec 5) (b : BitVec 5) : Statement (.min d a b) := by
  intro w h; injection h with h; subst h; have := d.isLt; have := a.isLt; have := b.isLt; simp only [pack]; omega
theorem max (d : BitVec 5) (a : BitVec 5) (b : BitVec 5) : Statement (.max d a b) := by
  intro w h; injection h with h; subst h; have := d.isLt; have := a.isLt; have := b.isLt; simp only [pack]; omega
theorem minu (d : BitVec 5) (a : BitVec 5) (b : BitVec 5) : Statement (.minu d a b) := by
  intro w h; injection h with h; subst h; have := d.isLt; have := a.isLt; have := b.isLt; simp only [pack]; omega
theorem maxu (d : BitVec 5) (a : BitVec 5) (b : BitVec 5) : Statement (.maxu d a b) := by
  intro w h; injection h with h; subst h; have := d.isLt; have := a.isLt; have := b.isLt; simp only [pack]; omega
theorem clz (d : BitVec 5) (a : BitVec 5) : Statement (.clz d a) := by
  intro w h; injection h with h; subst h; have := d.isLt; have := a.isLt; simp only [pack]; omega
theorem ctz (d : BitVec 5) (a : BitVec 5) : Statement (.ctz d a) := by
  intro w h; injection h with h; subst h; have := d.isLt; have := a.isLt; simp only [pack]; omega
theorem popc (d : BitVec 5) (a : BitVec 5) : Statement (.popc d a) := by
  intro w h; injection h with h; subst h; have := d.isLt; have := a.isLt; simp only [pack]; omega
theorem mul (d : BitVec 5) (a : BitVec 5) (b : BitVec 5) : Statement (.mul d a b) := by
  intro w h; injection h with h; subst h; have := d.isLt; have := a.isLt; have := b.isLt; simp only [pack]; omega
theorem mulh (d : BitVec 5) (a : BitVec 5) (b : BitVec 5) : Statement (.mulh d a b) := by
  intro w h; injection h with h; subst h; have := d.isLt; have := a.isLt; have := b.isLt; simp only [pack]; omega
theorem mulhu (d : BitVec 5) (a : BitVec 5) (b : BitVec 5) : Statement (.mulhu d a b) := by
  intro w h; injection h with h; subst h; have := d.isLt; have := a.isLt; have := b.isLt; simp only [pack]; omega
theorem div (d : BitVec 5) (a : BitVec 5) (b : BitVec 5) : Statement (.div d a b) := by
  intro w h; injection h with h; subst h; have := d.isLt; have := a.isLt; have := b.isLt; simp only [pack]; omega
theorem divu (d : BitVec 5) (a : BitVec 5) (b : BitVec 5) : Statement (.divu d a b) := by
  intro w h; injection h with h; subst h; have := d.isLt; have := a.isLt; have := b.isLt; simp only [pack]; omega
theorem rem (d : BitVec 5) (a : BitVec 5) (b : BitVec 5) : Statement (.rem d a b) := by
  intro w h; injection h with h; subst h; have := d.isLt; have := a.isLt; have := b.isLt; simp only [pack]; omega
theorem remu (d : BitVec 5) (a : BitVec 5) (b : BitVec 5) : Statement (.remu d a b) := by
  intro w h; injection h with h; subst h; have := d.isLt; have := a.isLt; have := b.isLt; simp only [pack]; omega
theorem slli (d : BitVec 5) (a : BitVec 5) (n : BitVec 6) : Statement (.slli d a n) := by
  intro w h; injection h with h; subst h; have := d.isLt; have := a.isLt; have := n.isLt; simp only [pack]; omega
theorem srli (d : BitVec 5) (a : BitVec 5) (n : BitVec 6) : Statement (.srli d a n) := by
  intro w h; injection h with h; subst h; have := d.isLt; have := a.isLt; have := n.isLt; simp only [pack]; omega
theorem srai (d : BitVec 5) (a : BitVec 5) (n : BitVec 6) : Statement (.srai d a n) := by
  intro w h; injection h with h; subst h; have := d.isLt; have := a.isLt; have := n.isLt; simp only [pack]; omega
theorem addi (d : BitVec 5) (a : BitVec 5) (i : BitVec 14) : Statement (.addi d a i) := by
  intro w h; injection h with h; subst h; have := d.isLt; have := a.isLt; have := i.isLt; simp only [pack]; omega
theorem andi (d : BitVec 5) (a : BitVec 5) (i : BitVec 14) : Statement (.andi d a i) := by
  intro w h; injection h with h; subst h; have := d.isLt; have := a.isLt; have := i.isLt; simp only [pack]; omega
theorem ori (d : BitVec 5) (a : BitVec 5) (i : BitVec 14) : Statement (.ori d a i) := by
  intro w h; injection h with h; subst h; have := d.isLt; have := a.isLt; have := i.isLt; simp only [pack]; omega
theorem xori (d : BitVec 5) (a : BitVec 5) (i : BitVec 14) : Statement (.xori d a i) := by
  intro w h; injection h with h; subst h; have := d.isLt; have := a.isLt; have := i.isLt; simp only [pack]; omega
theorem slti (d : BitVec 5) (a : BitVec 5) (i : BitVec 14) : Statement (.slti d a i) := by
  intro w h; injection h with h; subst h; have := d.isLt; have := a.isLt; have := i.isLt; simp only [pack]; omega
theorem sltiu (d : BitVec 5) (a : BitVec 5) (i : BitVec 14) : Statement (.sltiu d a i) := by
  intro w h; injection h with h; subst h; have := d.isLt; have := a.isLt; have := i.isLt; simp only [pack]; omega
theorem lih (d : BitVec 5) (i : BitVec 19) : Statement (.lih d i) := by
  intro w h; injection h with h; subst h; have := d.isLt; have := i.isLt; simp only [pack]; omega
theorem auipc (d : BitVec 5) (i : BitVec 19) : Statement (.auipc d i) := by
  intro w h; injection h with h; subst h; have := d.isLt; have := i.isLt; simp only [pack]; omega
theorem beq (a : BitVec 5) (b : BitVec 5) (o : BitVec 14) : Statement (.beq a b o) := by
  intro w h; injection h with h; subst h; have := a.isLt; have := b.isLt; have := o.isLt; simp only [pack]; omega
theorem bne (a : BitVec 5) (b : BitVec 5) (o : BitVec 14) : Statement (.bne a b o) := by
  intro w h; injection h with h; subst h; have := a.isLt; have := b.isLt; have := o.isLt; simp only [pack]; omega
theorem blt (a : BitVec 5) (b : BitVec 5) (o : BitVec 14) : Statement (.blt a b o) := by
  intro w h; injection h with h; subst h; have := a.isLt; have := b.isLt; have := o.isLt; simp only [pack]; omega
theorem bge (a : BitVec 5) (b : BitVec 5) (o : BitVec 14) : Statement (.bge a b o) := by
  intro w h; injection h with h; subst h; have := a.isLt; have := b.isLt; have := o.isLt; simp only [pack]; omega
theorem bltu (a : BitVec 5) (b : BitVec 5) (o : BitVec 14) : Statement (.bltu a b o) := by
  intro w h; injection h with h; subst h; have := a.isLt; have := b.isLt; have := o.isLt; simp only [pack]; omega
theorem bgeu (a : BitVec 5) (b : BitVec 5) (o : BitVec 14) : Statement (.bgeu a b o) := by
  intro w h; injection h with h; subst h; have := a.isLt; have := b.isLt; have := o.isLt; simp only [pack]; omega
theorem jal (d : BitVec 5) (i : BitVec 19) : Statement (.jal d i) := by
  intro w h; injection h with h; subst h; have := d.isLt; have := i.isLt; simp only [pack]; omega
theorem jalr (d : BitVec 5) (a : BitVec 5) (i : BitVec 14) : Statement (.jalr d a i) := by
  intro w h; injection h with h; subst h; have := d.isLt; have := a.isLt; have := i.isLt; simp only [pack]; omega
theorem lb (d : BitVec 5) (a : BitVec 5) (i : BitVec 14) : Statement (.lb d a i) := by
  intro w h; injection h with h; subst h; have := d.isLt; have := a.isLt; have := i.isLt; simp only [pack]; omega
theorem lbu (d : BitVec 5) (a : BitVec 5) (i : BitVec 14) : Statement (.lbu d a i) := by
  intro w h; injection h with h; subst h; have := d.isLt; have := a.isLt; have := i.isLt; simp only [pack]; omega
theorem lh (d : BitVec 5) (a : BitVec 5) (i : BitVec 14) : Statement (.lh d a i) := by
  intro w h; injection h with h; subst h; have := d.isLt; have := a.isLt; have := i.isLt; simp only [pack]; omega
theorem lhu (d : BitVec 5) (a : BitVec 5) (i : BitVec 14) : Statement (.lhu d a i) := by
  intro w h; injection h with h; subst h; have := d.isLt; have := a.isLt; have := i.isLt; simp only [pack]; omega
theorem lw (d : BitVec 5) (a : BitVec 5) (i : BitVec 14) : Statement (.lw d a i) := by
  intro w h; injection h with h; subst h; have := d.isLt; have := a.isLt; have := i.isLt; simp only [pack]; omega
theorem lwu (d : BitVec 5) (a : BitVec 5) (i : BitVec 14) : Statement (.lwu d a i) := by
  intro w h; injection h with h; subst h; have := d.isLt; have := a.isLt; have := i.isLt; simp only [pack]; omega
theorem ld (d : BitVec 5) (a : BitVec 5) (i : BitVec 14) : Statement (.ld d a i) := by
  intro w h; injection h with h; subst h; have := d.isLt; have := a.isLt; have := i.isLt; simp only [pack]; omega
theorem sb (d : BitVec 5) (a : BitVec 5) (i : BitVec 14) : Statement (.sb d a i) := by
  intro w h; injection h with h; subst h; have := d.isLt; have := a.isLt; have := i.isLt; simp only [pack]; omega
theorem sh (d : BitVec 5) (a : BitVec 5) (i : BitVec 14) : Statement (.sh d a i) := by
  intro w h; injection h with h; subst h; have := d.isLt; have := a.isLt; have := i.isLt; simp only [pack]; omega
theorem sw (d : BitVec 5) (a : BitVec 5) (i : BitVec 14) : Statement (.sw d a i) := by
  intro w h; injection h with h; subst h; have := d.isLt; have := a.isLt; have := i.isLt; simp only [pack]; omega
theorem sd (d : BitVec 5) (a : BitVec 5) (i : BitVec 14) : Statement (.sd d a i) := by
  intro w h; injection h with h; subst h; have := d.isLt; have := a.isLt; have := i.isLt; simp only [pack]; omega
theorem amoswap (d : BitVec 5) (a : BitVec 5) (b : BitVec 5) (o : BitVec 2) (s : BitVec 3) (z : Bool) : Statement (.amoswap d a b o s z) := by
  intro w h; injection h with h; subst h; have := z.toNat_lt; have := d.isLt; have := a.isLt; have := b.isLt; have := o.isLt; have := s.isLt; simp only [pack]; omega
theorem amoadd (d : BitVec 5) (a : BitVec 5) (b : BitVec 5) (o : BitVec 2) (s : BitVec 3) (z : Bool) : Statement (.amoadd d a b o s z) := by
  intro w h; injection h with h; subst h; have := z.toNat_lt; have := d.isLt; have := a.isLt; have := b.isLt; have := o.isLt; have := s.isLt; simp only [pack]; omega
theorem amoand (d : BitVec 5) (a : BitVec 5) (b : BitVec 5) (o : BitVec 2) (s : BitVec 3) (z : Bool) : Statement (.amoand d a b o s z) := by
  intro w h; injection h with h; subst h; have := z.toNat_lt; have := d.isLt; have := a.isLt; have := b.isLt; have := o.isLt; have := s.isLt; simp only [pack]; omega
theorem amoor (d : BitVec 5) (a : BitVec 5) (b : BitVec 5) (o : BitVec 2) (s : BitVec 3) (z : Bool) : Statement (.amoor d a b o s z) := by
  intro w h; injection h with h; subst h; have := z.toNat_lt; have := d.isLt; have := a.isLt; have := b.isLt; have := o.isLt; have := s.isLt; simp only [pack]; omega
theorem amomax (d : BitVec 5) (a : BitVec 5) (b : BitVec 5) (o : BitVec 2) (s : BitVec 3) (z : Bool) : Statement (.amomax d a b o s z) := by
  intro w h; injection h with h; subst h; have := z.toNat_lt; have := d.isLt; have := a.isLt; have := b.isLt; have := o.isLt; have := s.isLt; simp only [pack]; omega
theorem amomin (d : BitVec 5) (a : BitVec 5) (b : BitVec 5) (o : BitVec 2) (s : BitVec 3) (z : Bool) : Statement (.amomin d a b o s z) := by
  intro w h; injection h with h; subst h; have := z.toNat_lt; have := d.isLt; have := a.isLt; have := b.isLt; have := o.isLt; have := s.isLt; simp only [pack]; omega
theorem amocas (d : BitVec 5) (a : BitVec 5) (b : BitVec 5) (o : BitVec 2) (s : BitVec 3) (z : Bool) : Statement (.amocas d a b o s z) := by
  intro w h; injection h with h; subst h; have := z.toNat_lt; have := d.isLt; have := a.isLt; have := b.isLt; have := o.isLt; have := s.isLt; simp only [pack]; omega
theorem csrrd (d : BitVec 5) (c : BitVec 12) : Statement (.csrrd d c) := by
  intro w h; injection h with h; subst h; have := d.isLt; have := c.isLt; simp only [pack]; omega
theorem csrwr (d : BitVec 5) (a : BitVec 5) (c : BitVec 12) : Statement (.csrwr d a c) := by
  intro w h; injection h with h; subst h; have := d.isLt; have := a.isLt; have := c.isLt; simp only [pack]; omega
theorem csrset (d : BitVec 5) (a : BitVec 5) (c : BitVec 12) : Statement (.csrset d a c) := by
  intro w h; injection h with h; subst h; have := d.isLt; have := a.isLt; have := c.isLt; simp only [pack]; omega
theorem csrclr (d : BitVec 5) (a : BitVec 5) (c : BitVec 12) : Statement (.csrclr d a c) := by
  intro w h; injection h with h; subst h; have := d.isLt; have := a.isLt; have := c.isLt; simp only [pack]; omega
theorem fence (k : BitVec 5) (s : BitVec 3) : Statement (.fence k s) := by
  intro w h; injection h with h; subst h; have := k.isLt; have := s.isLt; simp only [pack]; omega
theorem sys (c : BitVec 10) : Statement (.sys c) := by
  intro w h; injection h with h; subst h; have := c.isLt; simp only [pack]; omega
theorem eret : Statement .eret := by
  intro w h; injection h with h; subst h; simp only [pack]; omega
theorem brk (c : BitVec 10) : Statement (.brk c) := by
  intro w h; injection h with h; subst h; have := c.isLt; simp only [pack]; omega
theorem wfe : Statement .wfe := by
  intro w h; injection h with h; subst h; simp only [pack]; omega
theorem setvl (c : Bool) (d : BitVec 5) (a : BitVec 5) : Statement (.setvl c d a) := by
  intro w h; injection h with h; subst h; have := c.toNat_lt; have := d.isLt; have := a.isLt; simp only [pack]; omega
theorem setvt (c : Bool) (t : BitVec 16) : Statement (.setvt c t) := by
  intro w h; injection h with h; subst h; have := c.toNat_lt; have := t.isLt; simp only [pack]; omega
theorem setvtReg (c : Bool) (a : BitVec 5) : Statement (.setvtReg c a) := by
  intro w h; injection h with h; subst h; have := c.toNat_lt; have := a.isLt; simp only [pack]; omega
theorem setsv (c : Bool) (s : BitVec 6) : Statement (.setsv c s) := by
  intro w h; injection h with h; subst h; have := c.toNat_lt; have := s.isLt; simp only [pack]; omega
theorem setsvOff (c : Bool) : Statement (.setsvOff c) := by
  intro w h; injection h with h; subst h; have := c.toNat_lt; simp only [pack]; omega
theorem vadd (c : Bool) (d : BitVec 6) (a : BitVec 6) (b : BitVec 6) (m : BitVec 4) : Statement (.vadd c d a b m) := by
  intro w h; injection h with h; subst h; have := c.toNat_lt; have := d.isLt; have := a.isLt; have := b.isLt; have := m.isLt; simp only [pack]; omega
theorem vsub (c : Bool) (d : BitVec 6) (a : BitVec 6) (b : BitVec 6) (m : BitVec 4) : Statement (.vsub c d a b m) := by
  intro w h; injection h with h; subst h; have := c.toNat_lt; have := d.isLt; have := a.isLt; have := b.isLt; have := m.isLt; simp only [pack]; omega
theorem vmul (c : Bool) (d : BitVec 6) (a : BitVec 6) (b : BitVec 6) (m : BitVec 4) : Statement (.vmul c d a b m) := by
  intro w h; injection h with h; subst h; have := c.toNat_lt; have := d.isLt; have := a.isLt; have := b.isLt; have := m.isLt; simp only [pack]; omega
theorem vdiv (c : Bool) (d : BitVec 6) (a : BitVec 6) (b : BitVec 6) (m : BitVec 4) : Statement (.vdiv c d a b m) := by
  intro w h; injection h with h; subst h; have := c.toNat_lt; have := d.isLt; have := a.isLt; have := b.isLt; have := m.isLt; simp only [pack]; omega
theorem vmin (c : Bool) (d : BitVec 6) (a : BitVec 6) (b : BitVec 6) (m : BitVec 4) : Statement (.vmin c d a b m) := by
  intro w h; injection h with h; subst h; have := c.toNat_lt; have := d.isLt; have := a.isLt; have := b.isLt; have := m.isLt; simp only [pack]; omega
theorem vmax (c : Bool) (d : BitVec 6) (a : BitVec 6) (b : BitVec 6) (m : BitVec 4) : Statement (.vmax c d a b m) := by
  intro w h; injection h with h; subst h; have := c.toNat_lt; have := d.isLt; have := a.isLt; have := b.isLt; have := m.isLt; simp only [pack]; omega
theorem vmulh (c : Bool) (d : BitVec 6) (a : BitVec 6) (b : BitVec 6) (m : BitVec 4) : Statement (.vmulh c d a b m) := by
  intro w h; injection h with h; subst h; have := c.toNat_lt; have := d.isLt; have := a.isLt; have := b.isLt; have := m.isLt; simp only [pack]; omega
theorem vabsd (c : Bool) (d : BitVec 6) (a : BitVec 6) (b : BitVec 6) (m : BitVec 4) : Statement (.vabsd c d a b m) := by
  intro w h; injection h with h; subst h; have := c.toNat_lt; have := d.isLt; have := a.isLt; have := b.isLt; have := m.isLt; simp only [pack]; omega
theorem vand (c : Bool) (d : BitVec 6) (a : BitVec 6) (b : BitVec 6) (m : BitVec 4) : Statement (.vand c d a b m) := by
  intro w h; injection h with h; subst h; have := c.toNat_lt; have := d.isLt; have := a.isLt; have := b.isLt; have := m.isLt; simp only [pack]; omega
theorem vor (c : Bool) (d : BitVec 6) (a : BitVec 6) (b : BitVec 6) (m : BitVec 4) : Statement (.vor c d a b m) := by
  intro w h; injection h with h; subst h; have := c.toNat_lt; have := d.isLt; have := a.isLt; have := b.isLt; have := m.isLt; simp only [pack]; omega
theorem vxor (c : Bool) (d : BitVec 6) (a : BitVec 6) (b : BitVec 6) (m : BitVec 4) : Statement (.vxor c d a b m) := by
  intro w h; injection h with h; subst h; have := c.toNat_lt; have := d.isLt; have := a.isLt; have := b.isLt; have := m.isLt; simp only [pack]; omega
theorem vsll (c : Bool) (d : BitVec 6) (a : BitVec 6) (b : BitVec 6) (m : BitVec 4) : Statement (.vsll c d a b m) := by
  intro w h; injection h with h; subst h; have := c.toNat_lt; have := d.isLt; have := a.isLt; have := b.isLt; have := m.isLt; simp only [pack]; omega
theorem vsrl (c : Bool) (d : BitVec 6) (a : BitVec 6) (b : BitVec 6) (m : BitVec 4) : Statement (.vsrl c d a b m) := by
  intro w h; injection h with h; subst h; have := c.toNat_lt; have := d.isLt; have := a.isLt; have := b.isLt; have := m.isLt; simp only [pack]; omega
theorem vsra (c : Bool) (d : BitVec 6) (a : BitVec 6) (b : BitVec 6) (m : BitVec 4) : Statement (.vsra c d a b m) := by
  intro w h; injection h with h; subst h; have := c.toNat_lt; have := d.isLt; have := a.isLt; have := b.isLt; have := m.isLt; simp only [pack]; omega
theorem vaddi (c : Bool) (d : BitVec 6) (a : BitVec 6) (i : BitVec 6) (m : BitVec 4) : Statement (.vaddi c d a i m) := by
  intro w h; injection h with h; subst h; have := c.toNat_lt; have := d.isLt; have := a.isLt; have := i.isLt; have := m.isLt; simp only [pack]; omega
theorem vslli (c : Bool) (d : BitVec 6) (a : BitVec 6) (i : BitVec 6) (m : BitVec 4) : Statement (.vslli c d a i m) := by
  intro w h; injection h with h; subst h; have := c.toNat_lt; have := d.isLt; have := a.isLt; have := i.isLt; have := m.isLt; simp only [pack]; omega
theorem vsrli (c : Bool) (d : BitVec 6) (a : BitVec 6) (i : BitVec 6) (m : BitVec 4) : Statement (.vsrli c d a i m) := by
  intro w h; injection h with h; subst h; have := c.toNat_lt; have := d.isLt; have := a.isLt; have := i.isLt; have := m.isLt; simp only [pack]; omega
theorem vsrai (c : Bool) (d : BitVec 6) (a : BitVec 6) (i : BitVec 6) (m : BitVec 4) : Statement (.vsrai c d a i m) := by
  intro w h; injection h with h; subst h; have := c.toNat_lt; have := d.isLt; have := a.isLt; have := i.isLt; have := m.isLt; simp only [pack]; omega
theorem vaddVx (c : Bool) (d : BitVec 6) (a : BitVec 6) (b : BitVec 6) (x : BitVec 6) : Statement (.vaddVx c d a b x) := by
  intro w h; injection h with h; subst h; have := c.toNat_lt; have := d.isLt; have := a.isLt; have := b.isLt; have := x.isLt; simp only [pack]; omega
theorem vsubVx (c : Bool) (d : BitVec 6) (a : BitVec 6) (b : BitVec 6) (x : BitVec 6) : Statement (.vsubVx c d a b x) := by
  intro w h; injection h with h; subst h; have := c.toNat_lt; have := d.isLt; have := a.isLt; have := b.isLt; have := x.isLt; simp only [pack]; omega
theorem vmulVx (c : Bool) (d : BitVec 6) (a : BitVec 6) (b : BitVec 6) (x : BitVec 6) : Statement (.vmulVx c d a b x) := by
  intro w h; injection h with h; subst h; have := c.toNat_lt; have := d.isLt; have := a.isLt; have := b.isLt; have := x.isLt; simp only [pack]; omega
theorem vminVx (c : Bool) (d : BitVec 6) (a : BitVec 6) (b : BitVec 6) (x : BitVec 6) : Statement (.vminVx c d a b x) := by
  intro w h; injection h with h; subst h; have := c.toNat_lt; have := d.isLt; have := a.isLt; have := b.isLt; have := x.isLt; simp only [pack]; omega
theorem vmaxVx (c : Bool) (d : BitVec 6) (a : BitVec 6) (b : BitVec 6) (x : BitVec 6) : Statement (.vmaxVx c d a b x) := by
  intro w h; injection h with h; subst h; have := c.toNat_lt; have := d.isLt; have := a.isLt; have := b.isLt; have := x.isLt; simp only [pack]; omega
theorem vfma (c : Bool) (d : BitVec 6) (a : BitVec 6) (b : BitVec 6) (m : BitVec 4) : Statement (.vfma c d a b m) := by
  intro w h; injection h with h; subst h; have := c.toNat_lt; have := d.isLt; have := a.isLt; have := b.isLt; have := m.isLt; simp only [pack]; omega
theorem vfms (c : Bool) (d : BitVec 6) (a : BitVec 6) (b : BitVec 6) (m : BitVec 4) : Statement (.vfms c d a b m) := by
  intro w h; injection h with h; subst h; have := c.toNat_lt; have := d.isLt; have := a.isLt; have := b.isLt; have := m.isLt; simp only [pack]; omega
theorem vfnma (c : Bool) (d : BitVec 6) (a : BitVec 6) (b : BitVec 6) (m : BitVec 4) : Statement (.vfnma c d a b m) := by
  intro w h; injection h with h; subst h; have := c.toNat_lt; have := d.isLt; have := a.isLt; have := b.isLt; have := m.isLt; simp only [pack]; omega
theorem vfnms (c : Bool) (d : BitVec 6) (a : BitVec 6) (b : BitVec 6) (m : BitVec 4) : Statement (.vfnms c d a b m) := by
  intro w h; injection h with h; subst h; have := c.toNat_lt; have := d.isLt; have := a.isLt; have := b.isLt; have := m.isLt; simp only [pack]; omega
theorem vrec (c : Bool) (d : BitVec 6) (a : BitVec 6) (m : BitVec 4) : Statement (.vrec c d a m) := by
  intro w h; injection h with h; subst h; have := c.toNat_lt; have := d.isLt; have := a.isLt; have := m.isLt; simp only [pack]; omega
theorem vrsq (c : Bool) (d : BitVec 6) (a : BitVec 6) (m : BitVec 4) : Statement (.vrsq c d a m) := by
  intro w h; injection h with h; subst h; have := c.toNat_lt; have := d.isLt; have := a.isLt; have := m.isLt; simp only [pack]; omega
theorem vfexp2 (c : Bool) (d : BitVec 6) (a : BitVec 6) (m : BitVec 4) : Statement (.vfexp2 c d a m) := by
  intro w h; injection h with h; subst h; have := c.toNat_lt; have := d.isLt; have := a.isLt; have := m.isLt; simp only [pack]; omega
theorem vabs (c : Bool) (d : BitVec 6) (a : BitVec 6) (m : BitVec 4) : Statement (.vabs c d a m) := by
  intro w h; injection h with h; subst h; have := c.toNat_lt; have := d.isLt; have := a.isLt; have := m.isLt; simp only [pack]; omega
theorem vneg (c : Bool) (d : BitVec 6) (a : BitVec 6) (m : BitVec 4) : Statement (.vneg c d a m) := by
  intro w h; injection h with h; subst h; have := c.toNat_lt; have := d.isLt; have := a.isLt; have := m.isLt; simp only [pack]; omega
theorem vnot (c : Bool) (d : BitVec 6) (a : BitVec 6) (m : BitVec 4) : Statement (.vnot c d a m) := by
  intro w h; injection h with h; subst h; have := c.toNat_lt; have := d.isLt; have := a.isLt; have := m.isLt; simp only [pack]; omega
theorem vclz (c : Bool) (d : BitVec 6) (a : BitVec 6) (m : BitVec 4) : Statement (.vclz c d a m) := by
  intro w h; injection h with h; subst h; have := c.toNat_lt; have := d.isLt; have := a.isLt; have := m.isLt; simp only [pack]; omega
theorem vpopc (c : Bool) (d : BitVec 6) (a : BitVec 6) (m : BitVec 4) : Statement (.vpopc c d a m) := by
  intro w h; injection h with h; subst h; have := c.toNat_lt; have := d.isLt; have := a.isLt; have := m.isLt; simp only [pack]; omega
theorem vcvt (c : Bool) (d : BitVec 6) (a : BitVec 6) (t : BitVec 6) (m : BitVec 4) : Statement (.vcvt c d a t m) := by
  intro w h; injection h with h; subst h; have := c.toNat_lt; have := d.isLt; have := a.isLt; have := t.isLt; have := m.isLt; simp only [pack]; omega
theorem vwiden (c : Bool) (d : BitVec 6) (a : BitVec 6) (t : BitVec 6) (m : BitVec 4) : Statement (.vwiden c d a t m) := by
  intro w h; injection h with h; subst h; have := c.toNat_lt; have := d.isLt; have := a.isLt; have := t.isLt; have := m.isLt; simp only [pack]; omega
theorem vnarrow (c : Bool) (d : BitVec 6) (a : BitVec 6) (t : BitVec 6) (m : BitVec 4) : Statement (.vnarrow c d a t m) := by
  intro w h; injection h with h; subst h; have := c.toNat_lt; have := d.isLt; have := a.isLt; have := t.isLt; have := m.isLt; simp only [pack]; omega
theorem vquant (c : Bool) (d : BitVec 6) (a : BitVec 6) (t : BitVec 6) : Statement (.vquant c d a t) := by
  intro w h; injection h with h; subst h; have := c.toNat_lt; have := d.isLt; have := a.isLt; have := t.isLt; simp only [pack]; omega
theorem vdeq (c : Bool) (d : BitVec 6) (a : BitVec 6) (t : BitVec 6) (m : BitVec 4) : Statement (.vdeq c d a t m) := by
  intro w h; injection h with h; subst h; have := c.toNat_lt; have := d.isLt; have := a.isLt; have := t.isLt; have := m.isLt; simp only [pack]; omega
theorem vcmpEq (c : Bool) (d : BitVec 6) (a : BitVec 6) (b : BitVec 6) (m : BitVec 4) : Statement (.vcmpEq c d a b m) := by
  intro w h; injection h with h; subst h; have := c.toNat_lt; have := d.isLt; have := a.isLt; have := b.isLt; have := m.isLt; simp only [pack]; omega
theorem vcmpNe (c : Bool) (d : BitVec 6) (a : BitVec 6) (b : BitVec 6) (m : BitVec 4) : Statement (.vcmpNe c d a b m) := by
  intro w h; injection h with h; subst h; have := c.toNat_lt; have := d.isLt; have := a.isLt; have := b.isLt; have := m.isLt; simp only [pack]; omega
theorem vcmpLt (c : Bool) (d : BitVec 6) (a : BitVec 6) (b : BitVec 6) (m : BitVec 4) : Statement (.vcmpLt c d a b m) := by
  intro w h; injection h with h; subst h; have := c.toNat_lt; have := d.isLt; have := a.isLt; have := b.isLt; have := m.isLt; simp only [pack]; omega
theorem vcmpLe (c : Bool) (d : BitVec 6) (a : BitVec 6) (b : BitVec 6) (m : BitVec 4) : Statement (.vcmpLe c d a b m) := by
  intro w h; injection h with h; subst h; have := c.toNat_lt; have := d.isLt; have := a.isLt; have := b.isLt; have := m.isLt; simp only [pack]; omega
theorem vcmpiEq (c : Bool) (d : BitVec 6) (a : BitVec 6) (i : BitVec 6) (m : BitVec 4) : Statement (.vcmpiEq c d a i m) := by
  intro w h; injection h with h; subst h; have := c.toNat_lt; have := d.isLt; have := a.isLt; have := i.isLt; have := m.isLt; simp only [pack]; omega
theorem vcmpiNe (c : Bool) (d : BitVec 6) (a : BitVec 6) (i : BitVec 6) (m : BitVec 4) : Statement (.vcmpiNe c d a i m) := by
  intro w h; injection h with h; subst h; have := c.toNat_lt; have := d.isLt; have := a.isLt; have := i.isLt; have := m.isLt; simp only [pack]; omega
theorem vcmpiLt (c : Bool) (d : BitVec 6) (a : BitVec 6) (i : BitVec 6) (m : BitVec 4) : Statement (.vcmpiLt c d a i m) := by
  intro w h; injection h with h; subst h; have := c.toNat_lt; have := d.isLt; have := a.isLt; have := i.isLt; have := m.isLt; simp only [pack]; omega
theorem vcmpiGt (c : Bool) (d : BitVec 6) (a : BitVec 6) (i : BitVec 6) (m : BitVec 4) : Statement (.vcmpiGt c d a i m) := by
  intro w h; injection h with h; subst h; have := c.toNat_lt; have := d.isLt; have := a.isLt; have := i.isLt; have := m.isLt; simp only [pack]; omega
theorem mand (c : Bool) (d : BitVec 6) (a : BitVec 6) (b : BitVec 6) : Statement (.mand c d a b) := by
  intro w h; injection h with h; subst h; have := c.toNat_lt; have := d.isLt; have := a.isLt; have := b.isLt; simp only [pack]; omega
theorem mor (c : Bool) (d : BitVec 6) (a : BitVec 6) (b : BitVec 6) : Statement (.mor c d a b) := by
  intro w h; injection h with h; subst h; have := c.toNat_lt; have := d.isLt; have := a.isLt; have := b.isLt; simp only [pack]; omega
theorem mxor (c : Bool) (d : BitVec 6) (a : BitVec 6) (b : BitVec 6) : Statement (.mxor c d a b) := by
  intro w h; injection h with h; subst h; have := c.toNat_lt; have := d.isLt; have := a.isLt; have := b.isLt; simp only [pack]; omega
theorem mandn (c : Bool) (d : BitVec 6) (a : BitVec 6) (b : BitVec 6) : Statement (.mandn c d a b) := by
  intro w h; injection h with h; subst h; have := c.toNat_lt; have := d.isLt; have := a.isLt; have := b.isLt; simp only [pack]; omega
theorem mpop (c : Bool) (d : BitVec 6) (a : BitVec 6) : Statement (.mpop c d a) := by
  intro w h; injection h with h; subst h; have := c.toNat_lt; have := d.isLt; have := a.isLt; simp only [pack]; omega
theorem mfirst (c : Bool) (d : BitVec 6) (a : BitVec 6) : Statement (.mfirst c d a) := by
  intro w h; injection h with h; subst h; have := c.toNat_lt; have := d.isLt; have := a.isLt; simp only [pack]; omega
theorem vmerge (c : Bool) (d : BitVec 6) (a : BitVec 6) (b : BitVec 6) (m : BitVec 4) : Statement (.vmerge c d a b m) := by
  intro w h; injection h with h; subst h; have := c.toNat_lt; have := d.isLt; have := a.isLt; have := b.isLt; have := m.isLt; simp only [pack]; omega
theorem vid (c : Bool) (d : BitVec 6) (m : BitVec 4) : Statement (.vid c d m) := by
  intro w h; injection h with h; subst h; have := c.toNat_lt; have := d.isLt; have := m.isLt; simp only [pack]; omega
theorem vcompress (c : Bool) (d : BitVec 6) (a : BitVec 6) (s : BitVec 6) (m : BitVec 4) : Statement (.vcompress c d a s m) := by
  intro w h; injection h with h; subst h; have := c.toNat_lt; have := d.isLt; have := a.isLt; have := s.isLt; have := m.isLt; simp only [pack]; omega
theorem vexpand (c : Bool) (d : BitVec 6) (a : BitVec 6) (m : BitVec 4) : Statement (.vexpand c d a m) := by
  intro w h; injection h with h; subst h; have := c.toNat_lt; have := d.isLt; have := a.isLt; have := m.isLt; simp only [pack]; omega
theorem vperm (c : Bool) (d : BitVec 6) (a : BitVec 6) (b : BitVec 6) (m : BitVec 4) : Statement (.vperm c d a b m) := by
  intro w h; injection h with h; subst h; have := c.toNat_lt; have := d.isLt; have := a.isLt; have := b.isLt; have := m.isLt; simp only [pack]; omega
theorem viota (c : Bool) (d : BitVec 6) (a : BitVec 6) (m : BitVec 4) : Statement (.viota c d a m) := by
  intro w h; injection h with h; subst h; have := c.toNat_lt; have := d.isLt; have := a.isLt; have := m.isLt; simp only [pack]; omega
theorem vslup (c : Bool) (d : BitVec 6) (a : BitVec 6) (s : BitVec 6) (m : BitVec 4) : Statement (.vslup c d a s m) := by
  intro w h; injection h with h; subst h; have := c.toNat_lt; have := d.isLt; have := a.isLt; have := s.isLt; have := m.isLt; simp only [pack]; omega
theorem vsldn (c : Bool) (d : BitVec 6) (a : BitVec 6) (s : BitVec 6) (m : BitVec 4) : Statement (.vsldn c d a s m) := by
  intro w h; injection h with h; subst h; have := c.toNat_lt; have := d.isLt; have := a.isLt; have := s.isLt; have := m.isLt; simp only [pack]; omega
theorem vbcast (c : Bool) (d : BitVec 6) (s : BitVec 6) (m : BitVec 4) : Statement (.vbcast c d s m) := by
  intro w h; injection h with h; subst h; have := c.toNat_lt; have := d.isLt; have := s.isLt; have := m.isLt; simp only [pack]; omega
theorem vmov (c : Bool) (d : BitVec 6) (a : BitVec 6) (x : BitVec 6) (m : BitVec 4) : Statement (.vmov c d a x m) := by
  intro w h; injection h with h; subst h; have := c.toNat_lt; have := d.isLt; have := a.isLt; have := x.isLt; have := m.isLt; simp only [pack]; omega
theorem vxlane (c : Bool) (d : BitVec 6) (a : BitVec 6) (s : BitVec 6) : Statement (.vxlane c d a s) := by
  intro w h; injection h with h; subst h; have := c.toNat_lt; have := d.isLt; have := a.isLt; have := s.isLt; simp only [pack]; omega
theorem vredsum (c : Bool) (d : BitVec 6) (a : BitVec 6) (m : BitVec 4) : Statement (.vredsum c d a m) := by
  intro w h; injection h with h; subst h; have := c.toNat_lt; have := d.isLt; have := a.isLt; have := m.isLt; simp only [pack]; omega
theorem vredmax (c : Bool) (d : BitVec 6) (a : BitVec 6) (m : BitVec 4) : Statement (.vredmax c d a m) := by
  intro w h; injection h with h; subst h; have := c.toNat_lt; have := d.isLt; have := a.isLt; have := m.isLt; simp only [pack]; omega
theorem vredmin (c : Bool) (d : BitVec 6) (a : BitVec 6) (m : BitVec 4) : Statement (.vredmin c d a m) := by
  intro w h; injection h with h; subst h; have := c.toNat_lt; have := d.isLt; have := a.isLt; have := m.isLt; simp only [pack]; omega
theorem vredand (c : Bool) (d : BitVec 6) (a : BitVec 6) (m : BitVec 4) : Statement (.vredand c d a m) := by
  intro w h; injection h with h; subst h; have := c.toNat_lt; have := d.isLt; have := a.isLt; have := m.isLt; simp only [pack]; omega
theorem vredor (c : Bool) (d : BitVec 6) (a : BitVec 6) (m : BitVec 4) : Statement (.vredor c d a m) := by
  intro w h; injection h with h; subst h; have := c.toNat_lt; have := d.isLt; have := a.isLt; have := m.isLt; simp only [pack]; omega
theorem vredxor (c : Bool) (d : BitVec 6) (a : BitVec 6) (m : BitVec 4) : Statement (.vredxor c d a m) := by
  intro w h; injection h with h; subst h; have := c.toNat_lt; have := d.isLt; have := a.isLt; have := m.isLt; simp only [pack]; omega
theorem vscansum (c : Bool) (d : BitVec 6) (a : BitVec 6) (m : BitVec 4) : Statement (.vscansum c d a m) := by
  intro w h; injection h with h; subst h; have := c.toNat_lt; have := d.isLt; have := a.isLt; have := m.isLt; simp only [pack]; omega
theorem vscanmax (c : Bool) (d : BitVec 6) (a : BitVec 6) (m : BitVec 4) : Statement (.vscanmax c d a m) := by
  intro w h; injection h with h; subst h; have := c.toNat_lt; have := d.isLt; have := a.isLt; have := m.isLt; simp only [pack]; omega
theorem vscanmin (c : Bool) (d : BitVec 6) (a : BitVec 6) (m : BitVec 4) : Statement (.vscanmin c d a m) := by
  intro w h; injection h with h; subst h; have := c.toNat_lt; have := d.isLt; have := a.isLt; have := m.isLt; simp only [pack]; omega
theorem vscansumX (c : Bool) (d : BitVec 6) (a : BitVec 6) (m : BitVec 4) : Statement (.vscansumX c d a m) := by
  intro w h; injection h with h; subst h; have := c.toNat_lt; have := d.isLt; have := a.isLt; have := m.isLt; simp only [pack]; omega
theorem vscanmaxX (c : Bool) (d : BitVec 6) (a : BitVec 6) (m : BitVec 4) : Statement (.vscanmaxX c d a m) := by
  intro w h; injection h with h; subst h; have := c.toNat_lt; have := d.isLt; have := a.isLt; have := m.isLt; simp only [pack]; omega
theorem vscanminX (c : Bool) (d : BitVec 6) (a : BitVec 6) (m : BitVec 4) : Statement (.vscanminX c d a m) := by
  intro w h; injection h with h; subst h; have := c.toNat_lt; have := d.isLt; have := a.isLt; have := m.isLt; simp only [pack]; omega
theorem vfoldSum (c : Bool) (d : BitVec 6) (a : BitVec 6) (i : BitVec 6) : Statement (.vfoldSum c d a i) := by
  intro w h; injection h with h; subst h; have := c.toNat_lt; have := d.isLt; have := a.isLt; have := i.isLt; simp only [pack]; omega
theorem vfoldMax (c : Bool) (d : BitVec 6) (a : BitVec 6) (i : BitVec 6) : Statement (.vfoldMax c d a i) := by
  intro w h; injection h with h; subst h; have := c.toNat_lt; have := d.isLt; have := a.isLt; have := i.isLt; simp only [pack]; omega
theorem vfoldMin (c : Bool) (d : BitVec 6) (a : BitVec 6) (i : BitVec 6) : Statement (.vfoldMin c d a i) := by
  intro w h; injection h with h; subst h; have := c.toNat_lt; have := d.isLt; have := a.isLt; have := i.isLt; simp only [pack]; omega
theorem vcsx (c : Bool) (d : BitVec 6) (a : BitVec 6) (m : BitVec 4) : Statement (.vcsx c d a m) := by
  intro w h; injection h with h; subst h; have := c.toNat_lt; have := d.isLt; have := a.isLt; have := m.isLt; simp only [pack]; omega
theorem vld (c : Bool) (d : BitVec 6) (b : BitVec 5) (m : BitVec 4) : Statement (.vld c d b m) := by
  intro w h; injection h with h; subst h; have := c.toNat_lt; have := d.isLt; have := b.isLt; have := m.isLt; simp only [pack]; omega
theorem vlds (c : Bool) (d : BitVec 6) (b : BitVec 5) (s : BitVec 5) (m : BitVec 4) : Statement (.vlds c d b s m) := by
  intro w h; injection h with h; subst h; have := c.toNat_lt; have := d.isLt; have := b.isLt; have := s.isLt; have := m.isLt; simp only [pack]; omega
theorem vldb (c : Bool) (d : BitVec 6) (b : BitVec 5) (m : BitVec 4) (o : BitVec 3) : Statement (.vldb c d b m o) := by
  intro w h; injection h with h; subst h; have := c.toNat_lt; have := d.isLt; have := b.isLt; have := m.isLt; have := o.isLt; simp only [pack]; omega
theorem vldw (c : Bool) (d : BitVec 6) (b : BitVec 5) (m : BitVec 4) (x : Bool) (r : BitVec 2) : Statement (.vldw c d b m x r) := by
  intro w h; injection h with h; subst h; have := c.toNat_lt; have := x.toNat_lt; have := d.isLt; have := b.isLt; have := m.isLt; have := r.isLt; simp only [pack]; omega
theorem vldwScaled (c : Bool) (d : BitVec 6) (b : BitVec 5) (s : BitVec 5) (m : BitVec 4) (x : Bool) (r : BitVec 2) : Statement (.vldwScaled c d b s m x r) := by
  intro w h; injection h with h; subst h; have := c.toNat_lt; have := x.toNat_lt; have := d.isLt; have := b.isLt; have := s.isLt; have := m.isLt; have := r.isLt; simp only [pack]; omega
theorem vst (c : Bool) (d : BitVec 6) (b : BitVec 5) (m : BitVec 4) : Statement (.vst c d b m) := by
  intro w h; injection h with h; subst h; have := c.toNat_lt; have := d.isLt; have := b.isLt; have := m.isLt; simp only [pack]; omega
theorem vsts (c : Bool) (d : BitVec 6) (b : BitVec 5) (s : BitVec 5) (m : BitVec 4) : Statement (.vsts c d b s m) := by
  intro w h; injection h with h; subst h; have := c.toNat_lt; have := d.isLt; have := b.isLt; have := s.isLt; have := m.isLt; simp only [pack]; omega
theorem loopv (n : BitVec 5) (p : Bool) : Statement (.loopv n p) := by
  intro w h; injection h with h; subst h; have := p.toNat_lt; have := n.isLt; simp only [pack]; omega
theorem endv : Statement .endv := by
  intro w h; injection h with h; subst h; simp only [pack]; omega
theorem brkv (m : BitVec 4) : Statement (.brkv m) := by
  intro w h; injection h with h; subst h; have := m.isLt; simp only [pack]; omega
theorem vbr (m : BitVec 4) (o : BitVec 14) : Statement (.vbr m o) := by
  intro w h; injection h with h; subst h; have := m.isLt; have := o.isLt; simp only [pack]; omega
theorem vjoin : Statement .vjoin := by
  intro w h; injection h with h; subst h; simp only [pack]; omega
theorem plan (x : BitVec 5) (a : BitVec 5) (b : BitVec 5) (w : Bool) : Statement (.plan x a b w) := by
  intro w h; injection h with h; subst h; have := w.toNat_lt; have := x.isLt; have := a.isLt; have := b.isLt; simp only [pack]; omega
theorem papply (v : BitVec 6) (a : BitVec 5) (b : BitVec 5) (t : BitVec 4) (r : Bool) : Statement (.papply v a b t r) := by
  intro w h; injection h with h; subst h; have := r.toNat_lt; have := v.isLt; have := a.isLt; have := b.isLt; have := t.isLt; simp only [pack]; omega
theorem papplySpm (x : BitVec 5) (a : BitVec 5) (b : BitVec 5) (r : Bool) : Statement (.papplySpm x a b r) := by
  intro w h; injection h with h; subst h; have := r.toNat_lt; have := x.isLt; have := a.isLt; have := b.isLt; simp only [pack]; omega
theorem pscat (v : BitVec 6) (a : BitVec 5) (b : BitVec 5) (m : BitVec 4) (o : BitVec 3) : Statement (.pscat v a b m o) := by
  intro w h; injection h with h; subst h; have := v.isLt; have := a.isLt; have := b.isLt; have := m.isLt; have := o.isLt; simp only [pack]; omega
theorem pinv (x : BitVec 5) (a : BitVec 5) : Statement (.pinv x a) := by
  intro w h; injection h with h; subst h; have := x.isLt; have := a.isLt; simp only [pack]; omega
theorem pcomp (x : BitVec 5) (a : BitVec 5) (b : BitVec 5) : Statement (.pcomp x a b) := by
  intro w h; injection h with h; subst h; have := x.isLt; have := a.isLt; have := b.isLt; simp only [pack]; omega
theorem pstat (x : BitVec 5) (a : BitVec 5) : Statement (.pstat x a) := by
  intro w h; injection h with h; subst h; have := x.isLt; have := a.isLt; simp only [pack]; omega
theorem pfree (a : BitVec 5) : Statement (.pfree a) := by
  intro w h; injection h with h; subst h; have := a.isLt; simp only [pack]; omega
theorem pspill (a : BitVec 5) : Statement (.pspill a) := by
  intro w h; injection h with h; subst h; have := a.isLt; simp only [pack]; omega
theorem pfill (a : BitVec 5) : Statement (.pfill a) := by
  intro w h; injection h with h; subst h; have := a.isLt; simp only [pack]; omega
theorem mattach (n : BitVec 4) : Statement (.mattach n) := by
  intro w h; injection h with h; subst h; have := n.isLt; simp only [pack]; omega
theorem mdetach : Statement .mdetach := by
  intro w h; injection h with h; subst h; simp only [pack]; omega
theorem mdeclF32 (s : BitVec 4) : Statement (.mdeclF32 s) := by
  intro w h; injection h with h; subst h; have := s.isLt; simp only [pack]; omega
theorem mdeclI32 (s : BitVec 4) : Statement (.mdeclI32 s) := by
  intro w h; injection h with h; subst h; have := s.isLt; simp only [pack]; omega
theorem mdeclRank (k : BitVec 5) (s : BitVec 4) : Statement (.mdeclRank k s) := by
  intro w h; injection h with h; subst h; have := k.isLt; have := s.isLt; simp only [pack]; omega
theorem mzero (c : Bool) (s : BitVec 4) : Statement (.mzero c s) := by
  intro w h; injection h with h; subst h; have := c.toNat_lt; have := s.isLt; simp only [pack]; omega
theorem mop (c : Bool) (a : BitVec 6) (b : BitVec 6) (s : BitVec 4) (r : BitVec 3) (p : BitVec 5) : Statement (.mop c a b s r p) := by
  intro w h; injection h with h; subst h; have := c.toNat_lt; have := a.isLt; have := b.isLt; have := s.isLt; have := r.isLt; have := p.isLt; simp only [pack]; omega
theorem mopa (c : Bool) (q : BitVec 4) (b : BitVec 6) (s : BitVec 4) (r : BitVec 3) (p : BitVec 5) : Statement (.mopa c q b s r p) := by
  intro w h; injection h with h; subst h; have := c.toNat_lt; have := q.isLt; have := b.isLt; have := s.isLt; have := r.isLt; have := p.isLt; simp only [pack]; omega
theorem mlda (c : Bool) (a : BitVec 5) (b : BitVec 5) (s : BitVec 4) : Statement (.mlda c a b s) := by
  intro w h; injection h with h; subst h; have := c.toNat_lt; have := a.isLt; have := b.isLt; have := s.isLt; simp only [pack]; omega
theorem msta (c : Bool) (a : BitVec 5) (b : BitVec 5) (s : BitVec 4) : Statement (.msta c a b s) := by
  intro w h; injection h with h; subst h; have := c.toNat_lt; have := a.isLt; have := b.isLt; have := s.isLt; simp only [pack]; omega
theorem mrd (c : Bool) (d : BitVec 6) (a : BitVec 5) (t : BitVec 4) (s : BitVec 4) : Statement (.mrd c d a t s) := by
  intro w h; injection h with h; subst h; have := c.toNat_lt; have := d.isLt; have := a.isLt; have := t.isLt; have := s.isLt; simp only [pack]; omega
theorem mrank (c : Bool) (a : BitVec 5) (t : BitVec 4) (q : BitVec 4) : Statement (.mrank c a t q) := by
  intro w h; injection h with h; subst h; have := c.toNat_lt; have := a.isLt; have := t.isLt; have := q.isLt; simp only [pack]; omega
theorem mrmerge (c : Bool) (a : BitVec 5) (t : BitVec 4) : Statement (.mrmerge c a t) := by
  intro w h; injection h with h; subst h; have := c.toNat_lt; have := a.isLt; have := t.isLt; simp only [pack]; omega
theorem mthr (c : Bool) (d : BitVec 6) (s : BitVec 4) : Statement (.mthr c d s) := by
  intro w h; injection h with h; subst h; have := c.toNat_lt; have := d.isLt; have := s.isLt; simp only [pack]; omega
theorem mwait : Statement .mwait := by
  intro w h; injection h with h; subst h; simp only [pack]; omega
theorem stream (x : BitVec 6) (a : BitVec 5) (n : BitVec 5) (t : BitVec 4) (v : BitVec 2) (r : BitVec 2) : Statement (.stream x a n t v r) := by
  intro w h; injection h with h; subst h; have := x.isLt; have := a.isLt; have := n.isLt; have := t.isLt; have := v.isLt; have := r.isLt; simp only [pack]; omega
theorem streamReg (d : BitVec 6) (a : BitVec 5) (t : BitVec 4) : Statement (.streamReg d a t) := by
  intro w h; injection h with h; subst h; have := d.isLt; have := a.isLt; have := t.isLt; simp only [pack]; omega
theorem swalk (x : BitVec 5) (a : BitVec 5) (n : BitVec 5) (t : BitVec 4) (v : BitVec 2) (r : BitVec 2) : Statement (.swalk x a n t v r) := by
  intro w h; injection h with h; subst h; have := x.isLt; have := a.isLt; have := n.isLt; have := t.isLt; have := v.isLt; have := r.isLt; simp only [pack]; omega
theorem scow (x : BitVec 5) (a : BitVec 5) (n : BitVec 5) (t : BitVec 4) (v : BitVec 2) (r : BitVec 2) : Statement (.scow x a n t v r) := by
  intro w h; injection h with h; subst h; have := x.isLt; have := a.isLt; have := n.isLt; have := t.isLt; have := v.isLt; have := r.isLt; simp only [pack]; omega
theorem swaitRelease (t : BitVec 4) : Statement (.swaitRelease t) := by
  intro w h; injection h with h; subst h; have := t.isLt; simp only [pack]; omega
theorem swaitVisible (t : BitVec 4) : Statement (.swaitVisible t) := by
  intro w h; injection h with h; subst h; have := t.isLt; simp only [pack]; omega
theorem commit (t : BitVec 4) : Statement (.commit t) := by
  intro w h; injection h with h; subst h; have := t.isLt; simp only [pack]; omega
theorem tdef (x : BitVec 5) (a : BitVec 5) (b : BitVec 5) : Statement (.tdef x a b) := by
  intro w h; injection h with h; subst h; have := x.isLt; have := a.isLt; have := b.isLt; simp only [pack]; omega
theorem tdec (a : BitVec 5) (b : BitVec 5) : Statement (.tdec a b) := by
  intro w h; injection h with h; subst h; have := a.isLt; have := b.isLt; simp only [pack]; omega
theorem tspawn (x : BitVec 5) (a : BitVec 5) (b : BitVec 5) : Statement (.tspawn x a b) := by
  intro w h; injection h with h; subst h; have := x.isLt; have := a.isLt; have := b.isLt; simp only [pack]; omega
theorem evrd (x : BitVec 5) : Statement (.evrd x) := by
  intro w h; injection h with h; subst h; have := x.isLt; simp only [pack]; omega
theorem evpost (a : BitVec 5) (b : BitVec 5) : Statement (.evpost a b) := by
  intro w h; injection h with h; subst h; have := a.isLt; have := b.isLt; simp only [pack]; omega
theorem bar (g : BitVec 8) : Statement (.bar g) := by
  intro w h; injection h with h; subst h; have := g.isLt; simp only [pack]; omega
theorem mark (m : BitVec 16) : Statement (.mark m) := by
  intro w h; injection h with h; subst h; have := m.isLt; simp only [pack]; omega
theorem ttbind (a : BitVec 5) (b : BitVec 5) (o : BitVec 2) : Statement (.ttbind a b o) := by
  intro w h; injection h with h; subst h; have := a.isLt; have := b.isLt; have := o.isLt; simp only [pack]; omega
theorem ttstat (x : BitVec 5) (a : BitVec 5) : Statement (.ttstat x a) := by
  intro w h; injection h with h; subst h; have := x.isLt; have := a.isLt; simp only [pack]; omega
theorem tierpin (a : BitVec 5) (b : BitVec 5) : Statement (.tierpin a b) := by
  intro w h; injection h with h; subst h; have := a.isLt; have := b.isLt; simp only [pack]; omega
theorem tierfree (a : BitVec 5) (b : BitVec 5) : Statement (.tierfree a b) := by
  intro w h; injection h with h; subst h; have := a.isLt; have := b.isLt; simp only [pack]; omega
theorem rowsend (v : BitVec 6) (a : BitVec 5) (b : BitVec 5) : Statement (.rowsend v a b) := by
  intro w h; injection h with h; subst h; have := v.isLt; have := a.isLt; have := b.isLt; simp only [pack]; omega
theorem rowack (x : BitVec 5) (a : BitVec 5) : Statement (.rowack x a) := by
  intro w h; injection h with h; subst h; have := x.isLt; have := a.isLt; simp only [pack]; omega
theorem arrwait (a : BitVec 5) (b : BitVec 5) : Statement (.arrwait a b) := by
  intro w h; injection h with h; subst h; have := a.isLt; have := b.isLt; simp only [pack]; omega
theorem replsel (x : BitVec 5) (a : BitVec 5) (b : BitVec 5) : Statement (.replsel x a b) := by
  intro w h; injection h with h; subst h; have := x.isLt; have := a.isLt; have := b.isLt; simp only [pack]; omega
theorem ctxyield : Statement .ctxyield := by
  intro w h; injection h with h; subst h; simp only [pack]; omega
theorem enchk (x : BitVec 5) (a : BitVec 5) : Statement (.enchk x a) := by
  intro w h; injection h with h; subst h; have := x.isLt; have := a.isLt; simp only [pack]; omega
theorem evConvoyStart (f : FlowKey) : Statement (.evConvoyStart f) := fun _ h => nomatch h
theorem evVseqAdvance (core : Nat) (lane : Nat) : Statement (.evVseqAdvance core lane) := fun _ h => nomatch h
theorem evScalarResultWrite (f : FlowKey) (r : BitVec 5) : Statement (.evScalarResultWrite f r) := fun _ h => nomatch h
theorem evVxlaneExchange (f : FlowKey) (g : FlowKey) : Statement (.evVxlaneExchange f g) := fun _ h => nomatch h
theorem evLandingDelivered (f : FlowKey) (tag : BitVec 4) : Statement (.evLandingDelivered f tag) := fun _ h => nomatch h
theorem evWaitSatisfied (f : FlowKey) : Statement (.evWaitSatisfied f) := fun _ h => nomatch h
theorem evEnter (f : FlowKey) (k : Nat) : Statement (.evEnter f k) := fun _ h => nomatch h
theorem evTake (f : FlowKey) (k : Nat) : Statement (.evTake f k) := fun _ h => nomatch h
theorem evSend (f : FlowKey) (k : Option Nat) : Statement (.evSend f k) := fun _ h => nomatch h
theorem evPass (k : Nat) : Statement (.evPass k) := fun _ h => nomatch h
theorem evApply (k : Nat) : Statement (.evApply k) := fun _ h => nomatch h
theorem evDrop (core : Option Nat) (addr : Nat) : Statement (.evDrop core addr) := fun _ h => nomatch h
theorem evAccept (f : FlowKey) : Statement (.evAccept f) := fun _ h => nomatch h
theorem evEaccess (job : Nat) (write : Bool) : Statement (.evEaccess job write) := fun _ h => nomatch h
theorem evPoint (job : Nat) (visible : Bool) : Statement (.evPoint job visible) := fun _ h => nomatch h
theorem evWriteback (addr : Nat) : Statement (.evWriteback addr) := fun _ h => nomatch h
theorem evTableLockRetry (job : Nat) : Statement (.evTableLockRetry job) := fun _ h => nomatch h
theorem evPlanBuildComplete (job : Nat) : Statement (.evPlanBuildComplete job) := fun _ h => nomatch h
theorem evTaskDispatch (die : Nat) : Statement (.evTaskDispatch die) := fun _ h => nomatch h
theorem evTaskEnd (f : FlowKey) : Statement (.evTaskEnd f) := fun _ h => nomatch h
theorem evEventRecordDelivered (k : Nat) : Statement (.evEventRecordDelivered k) := fun _ h => nomatch h
theorem evBarRelease (launch : Nat) (group : Nat) : Statement (.evBarRelease launch group) := fun _ h => nomatch h
theorem evTimetableLineRead (f : FlowKey) : Statement (.evTimetableLineRead f) := fun _ h => nomatch h
theorem evTimetableEntryStart (f : FlowKey) (n : Nat) : Statement (.evTimetableEntryStart f n) := fun _ h => nomatch h
theorem evTimetableEntryDone (f : FlowKey) (n : Nat) : Statement (.evTimetableEntryDone f n) := fun _ h => nomatch h
theorem evMarkCheckComplete (f : FlowKey) : Statement (.evMarkCheckComplete f) := fun _ h => nomatch h
theorem evRowArrive (k : Nat) : Statement (.evRowArrive k) := fun _ h => nomatch h
theorem evRowCounterIncrement (k : Nat) : Statement (.evRowCounterIncrement k) := fun _ h => nomatch h
theorem evRowAnswer (k : Nat) : Statement (.evRowAnswer k) := fun _ h => nomatch h
theorem evWindowBoundary : Statement .evWindowBoundary := fun _ h => nomatch h
theorem evReplayBoundary (t : Nat) : Statement (.evReplayBoundary t) := fun _ h => nomatch h
theorem evPreemptSave (f : FlowKey) : Statement (.evPreemptSave f) := fun _ h => nomatch h
theorem evForcedPreemption (f : FlowKey) : Statement (.evForcedPreemption f) := fun _ h => nomatch h
theorem evResume (f : FlowKey) : Statement (.evResume f) := fun _ h => nomatch h
theorem evTranslationWalk (t : Nat) (va : Word) : Statement (.evTranslationWalk t va) := fun _ h => nomatch h
theorem evLaunchPortWrite (t : Nat) (off : Nat) (bytes : List Byte) : Statement (.evLaunchPortWrite t off bytes) := fun _ h => nomatch h
theorem evLaunchPlace (t : Nat) (prio : Nat) : Statement (.evLaunchPlace t prio) := fun _ h => nomatch h
theorem evLaunchEnd (launch : Nat) : Statement (.evLaunchEnd launch) := fun _ h => nomatch h
theorem evTenantSetLive (t : Nat) (v : Word) : Statement (.evTenantSetLive t v) := fun _ h => nomatch h
theorem evTenantEnd (t : Nat) : Statement (.evTenantEnd t) := fun _ h => nomatch h
theorem evPartaddrWrite (t : Nat) (v : Word) : Statement (.evPartaddrWrite t v) := fun _ h => nomatch h
theorem evShareWrite (t : Nat) (v : Word) : Statement (.evShareWrite t v) := fun _ h => nomatch h
theorem evCapujWrite (v : Word) : Statement (.evCapujWrite v) := fun _ h => nomatch h
theorem evTvectWrite (t : Nat) (v : Word) : Statement (.evTvectWrite t v) := fun _ h => nomatch h
theorem evPreemptWrite (v : Word) : Statement (.evPreemptWrite v) := fun _ h => nomatch h
theorem evRegisterWrite (r : RegTarget) (v : Word) : Statement (.evRegisterWrite r v) := fun _ h => nomatch h
theorem evShootdownCommand (t : Nat) (bytes : List Byte) : Statement (.evShootdownCommand t bytes) := fun _ h => nomatch h
theorem evShootdownComplete (t : Nat) : Statement (.evShootdownComplete t) := fun _ h => nomatch h
theorem evHdmctlEnable (v : Word) : Statement (.evHdmctlEnable v) := fun _ h => nomatch h
theorem evBiascmd (bytes : List Byte) : Statement (.evBiascmd bytes) := fun _ h => nomatch h
theorem evBiasFlipComplete : Statement .evBiasFlipComplete := fun _ h => nomatch h
theorem evMemrd (pa : Nat) : Statement (.evMemrd pa) := fun _ h => nomatch h
theorem evMemwr (pa : Nat) (data : BitVec 512) : Statement (.evMemwr pa data) := fun _ h => nomatch h
theorem evMeminv (pa : Nat) : Statement (.evMeminv pa) := fun _ h => nomatch h
theorem evSnpdata (a : Nat) : Statement (.evSnpdata a) := fun _ h => nomatch h
theorem evSnpinv (a : Nat) : Statement (.evSnpinv a) := fun _ h => nomatch h
theorem evSnpcur (a : Nat) : Statement (.evSnpcur a) := fun _ h => nomatch h
theorem evBirsp (pa : Nat) (data : Option (BitVec 512)) : Statement (.evBirsp pa data) := fun _ h => nomatch h
theorem evBiconflict (pa : Nat) : Statement (.evBiconflict pa) := fun _ h => nomatch h
theorem evRds (die : Nat) (g : Granule) : Statement (.evRds die g) := fun _ h => nomatch h
theorem evRdx (die : Nat) (g : Granule) : Statement (.evRdx die g) := fun _ h => nomatch h
theorem evUpg (die : Nat) (g : Granule) : Statement (.evUpg die g) := fun _ h => nomatch h
theorem evFwd (k : Nat) : Statement (.evFwd k) := fun _ h => nomatch h
theorem evInv (k : Nat) : Statement (.evInv k) := fun _ h => nomatch h
theorem evBinv (k : Nat) : Statement (.evBinv k) := fun _ h => nomatch h
theorem evData (k : Nat) : Statement (.evData k) := fun _ h => nomatch h
theorem evWb (die : Nat) (g : Granule) : Statement (.evWb die g) := fun _ h => nomatch h
theorem evAck (k : Nat) : Statement (.evAck k) := fun _ h => nomatch h
theorem evDone (k : Nat) : Statement (.evDone k) := fun _ h => nomatch h
theorem evVexconFlitReceive (port : Nat) (flit : Flit) : Statement (.evVexconFlitReceive port flit) := fun _ h => nomatch h
theorem evVexconPortDown (port : Nat) : Statement (.evVexconPortDown port) := fun _ h => nomatch h
theorem evPeerRequest (q : PeerReq) : Statement (.evPeerRequest q) := fun _ h => nomatch h
theorem evDomctlEnable (v : Word) : Statement (.evDomctlEnable v) := fun _ h => nomatch h
theorem evPatrolScrub (sector : Nat) : Statement (.evPatrolScrub sector) := fun _ h => nomatch h
theorem evDieLoss (die : Nat) : Statement (.evDieLoss die) := fun _ h => nomatch h
theorem evRetclWrite (v : Word) : Statement (.evRetclWrite v) := fun _ h => nomatch h
theorem evRetlgWrite (byte : Nat) (v : Byte) : Statement (.evRetlgWrite byte v) := fun _ h => nomatch h
theorem evRepair (row : Word) (seq : Word) : Statement (.evRepair row seq) := fun _ h => nomatch h
theorem evRepairComplete : Statement .evRepairComplete := fun _ h => nomatch h
theorem evPowerOn : Statement .evPowerOn := fun _ h => nomatch h
theorem evConventionalReset : Statement .evConventionalReset := fun _ h => nomatch h
theorem evAbruptReset : Statement .evAbruptReset := fun _ h => nomatch h
theorem evPfReset : Statement .evPfReset := fun _ h => nomatch h
theorem evVfReset (n : Nat) : Statement (.evVfReset n) := fun _ h => nomatch h
theorem evFeataccWrite (n : BitVec 2) (v : Word) : Statement (.evFeataccWrite n v) := fun _ h => nomatch h
theorem evFeatctlLock : Statement .evFeatctlLock := fun _ h => nomatch h
theorem evGetVersion : Statement .evGetVersion := fun _ h => nomatch h
theorem evGetCapabilities : Statement .evGetCapabilities := fun _ h => nomatch h
theorem evNegotiateAlgorithms : Statement .evNegotiateAlgorithms := fun _ h => nomatch h
theorem evGetDigests : Statement .evGetDigests := fun _ h => nomatch h
theorem evGetCertificate : Statement .evGetCertificate := fun _ h => nomatch h
theorem evChallenge (nonce : Word) : Statement (.evChallenge nonce) := fun _ h => nomatch h
theorem evGetMeasurements (index : Nat) (nonce : Word) : Statement (.evGetMeasurements index nonce) := fun _ h => nomatch h
theorem evKeyExchange (share : Word) : Statement (.evKeyExchange share) := fun _ h => nomatch h
theorem evMatrixWordComplete (f : FlowKey) : Statement (.evMatrixWordComplete f) := fun _ h => nomatch h
theorem evUncorrectableError (e : ErrTarget) : Statement (.evUncorrectableError e) := fun _ h => nomatch h
theorem evDieLinkDown (d : Nat) (h : Nat) : Statement (.evDieLinkDown d h) := fun _ h => nomatch h
theorem evHostLinkDown : Statement .evHostLinkDown := fun _ h => nomatch h
theorem evHostLinkTraining (width : Nat) (rate : Nat) (cxl : Bool) : Statement (.evHostLinkTraining width rate cxl) := fun _ h => nomatch h
theorem evPowerOff : Statement .evPowerOff := fun _ h => nomatch h

end Sys2Proof.Laws.Fits
end

