-- ==== Sys2Proof/Tests/Slice0.lean ====
section
/-! SUPPORT. Tests of single steps against results the spec writes out or hand calculation, words decoded and refused,
ill-formed terms refused, and for every statement with hypotheses a state and operands that meet them. -/
open Sys2Proof Sys2Proof.Machine

namespace Sys2Proof.Tests
set_option Elab.async false

/-- A device with its features locked. -/
def dev0 : Device := { Device.init with featLock := true }

/-- A flow of launch 1, tenant 1, Running in supervisor mode at the start of its core's memory, with i32 elements. -/
def flow0 : Flow :=
  let f := Flow.init ⟨1, 0⟩ ⟨0, 0, 0, 0⟩ 1
  { f with
    status := .running
    status3 := 1
    pc := 0x1FFFFFFFFFC0000
    vtype := 0x0F20
    vgnt := 1
    vl := 8 }

/-- Tenant 1, live, with every lane group and the pages of die 0 up to 16 MiB, its arena there. -/
def ten1 : Tenant :=
  { Tenant.init with
    live := true
    share := 100
    weight := 1
    wlimit := 0x1000000
    part := List.replicate 256 0xFF }

/-- Its launch, of one flow. -/
def launch1 : Launch where
  id := 1
  tenant := 1
  counts := [1]
  kdesc := 0
  arg := 0
  stack := 0
  stacksz := 0
  est := 0
  done := 0
  prio := 0
  lgreq := 1
  affin := false
  vec := 0
  roots := false
  spmOff := 0
  spmLen := 0
  entry := 0
  inv := 0
  carry := 0
  carryop := 0
  vllo := 0
  vlhi := 8
  groups := []
  charged := 0
  barArr := []
  barDone := []
  xlCnt := []
  ending := 0

/-- A machine whose turn is the flow's. -/
def machine (f : Flow) : State :=
  { State.reset with
    me := f
    dev := dev0
    tenants := State.reset.tenants.set 1 ten1
    launches := [launch1] }

def s0 : State := machine flow0

/-! ### Results the spec writes out -/

/-- Whether an instruction gives a next state that passes p. -/
def after (i : Instr) (s : State) (p : State → Bool) : Bool :=
  match exec i s with
  | .next t => p t
  | _ => false

/-- The flow with scalar registers set. -/
def withS (f : Flow) (xs : List (BitVec 5 × Word)) : Flow := xs.foldl (fun f p => f.wr p.1 p.2) f

/-- The flow with the string of a register set. -/
def withV (f : Flow) (w : Nat) (xs : List (Nat × List Nat)) : Flow :=
  { f with v := xs.foldl (fun v p => v.set p.1 (BitVec.ofNat 16384 (packCodes w p.2))) f.v }

def sBin (a b : Word) : State := machine (withS flow0 [(6, a), (7, b)])

/-- R98: the division corners. -/
theorem test_division_corners :
    after (.div 5 6 7) (sBin 9 0) (fun t => t.me.rd 5 == BitVec.ofInt 64 (-1)) = true ∧
    after (.divu 5 6 7) (sBin 9 0) (fun t => t.me.rd 5 == BitVec.ofInt 64 (-1)) = true ∧
    after (.rem 5 6 7) (sBin 9 0) (fun t => t.me.rd 5 == 9) = true ∧
    after (.remu 5 6 7) (sBin 9 0) (fun t => t.me.rd 5 == 9) = true ∧
    after (.div 5 6 7) (sBin 0x8000000000000000 0xFFFFFFFFFFFFFFFF) (fun t => t.me.rd 5 == 0x8000000000000000) = true ∧
    after (.rem 5 6 7) (sBin 0x8000000000000000 0xFFFFFFFFFFFFFFFF) (fun t => t.me.rd 5 == 0) = true := by decide +kernel

/-- R97: division truncates toward zero; MULH is the high half of the signed product; a shift takes the count mod 64. -/
theorem test_scalar_arithmetic :
    after (.div 5 6 7) (sBin (BitVec.ofInt 64 (-7)) 2) (fun t => t.me.rd 5 == BitVec.ofInt 64 (-3)) = true ∧
    after (.rem 5 6 7) (sBin (BitVec.ofInt 64 (-7)) 2) (fun t => t.me.rd 5 == BitVec.ofInt 64 (-1)) = true ∧
    after (.mulh 5 6 7) (sBin (BitVec.ofInt 64 (-1)) 1) (fun t => t.me.rd 5 == BitVec.ofInt 64 (-1)) = true ∧
    after (.sra 5 6 7) (sBin (BitVec.ofInt 64 (-8)) 65) (fun t => t.me.rd 5 == BitVec.ofInt 64 (-4)) = true ∧
    after (.sltu 5 6 7) (sBin (BitVec.ofInt 64 (-1)) 1) (fun t => t.me.rd 5 == 0) = true ∧
    after (.add 0 6 7) (sBin 1 2) (fun t => t.me.rd 0 == 0 && t.me.pc == s0.me.pc + 4) = true := by decide +kernel

/-- R100: LIH 0x91A2 writes 0x1234_4000, and ADDI 0x1678 makes it 0x1234_5678; LIH −1 writes −8,192. -/
theorem test_lih_addi :
    after (.lih 5 0x91A2) s0 (fun t => t.me.rd 5 == 0x12344000) = true ∧
    after (.addi 5 6 0x1678) (sBin 0x12344000 0) (fun t => t.me.rd 5 == 0x12345678) = true ∧
    after (.lih 5 0x7FFFF) s0 (fun t => t.me.rd 5 == BitVec.ofInt 64 (-8192)) = true := by decide +kernel

/-- R101, R102: a backward branch; JALR to an odd address raises ALIGN and leaves sd. -/
theorem test_branch_and_jalr :
    after (.bne 6 7 0x3FFD) (sBin 1 2) (fun t => t.me.pc == s0.me.pc - 12) = true ∧
    after (.blt 6 7 4) (sBin (BitVec.ofInt 64 (-1)) 0) (fun t => t.me.pc == s0.me.pc + 16) = true ∧
    after (.bltu 6 7 4) (sBin (BitVec.ofInt 64 (-1)) 0) (fun t => t.me.pc == s0.me.pc + 4) = true ∧
    after (.jalr 1 6 2) (sBin 0x1000 0) (fun t => t.me.rd 1 == 0 && t.me.pc == 0xFFFFFFFFFFFFFFF0) = true := by decide +kernel

/-- The core's memory with bytes from its first on. -/
def withTcm (s : State) (o : Nat) (bs : List Byte) : State :=
  { s with mem := (List.range bs.length).foldl (fun m i => m.set (tcmBase + o + i) (bs.getD i 0)) s.mem }

/-- s6 points into the core's memory, at offset 0x100, which holds 80 01 FF FF 7F. -/
def sMem : State := withTcm (machine (withS flow0 [(6, 0x1FFFFFFFFFC0100), (7, 5), (8, 0xFFFF0180)])) 0x100 [0x80, 0x01, 0xFF, 0xFF, 0x7F]

/-- R104: extension of loads; a store waits in the strip buffer with exactly its byte; a misaligned load raises ALIGN. -/
theorem test_loads_and_stores :
    after (.lb 5 6 0) sMem (fun t => t.me.rd 5 == BitVec.ofInt 64 (-128)) = true ∧
    after (.lhu 5 6 0) sMem (fun t => t.me.rd 5 == 0x180) = true ∧
    after (.lw 5 6 0) sMem (fun t => t.me.rd 5 == 0xFFFFFFFFFFFF0180) = true ∧
    after (.ld 5 6 0) sMem (fun t => t.me.rd 5 == 0x7FFFFF0180) = true ∧
    after (.sb 8 6 3) sMem (fun t => t.me.sb.map (fun a => (a.addr, a.data &&& a.en, a.en)) == [(tcmBase + 0x100, 0x80000000, 0xFF000000)]
      && t.mem == sMem.mem) = true ∧
    after (.lh 5 6 1) sMem (fun t => (t.ten 1).ueval == 0x1FFFFFFFFFC0101 && wbits (t.ten 1).ucause 0 16 == 5) = true := by decide +kernel

/-- R107: AMOADD gives the old value and stores the sum; AMOCAS with another value stores nothing. -/
theorem test_amo :
    after (.amoadd 5 6 7 0 0 true) sMem (fun t => t.me.rd 5 == 0xFFFFFFFFFFFF0180 && t.mem.get (tcmBase + 0x100) == 0x85) = true ∧
    after (.amocas 5 6 7 0 0 true) sMem (fun t => t.me.rd 5 == 0xFFFFFFFFFFFF0180 && t.mem.get (tcmBase + 0x100) == 0x80) = true := by decide +kernel

/-- R113: CSRSET with s0 writes nothing, so it reads a register it may not write in user mode; R34: an unlisted number. -/
theorem test_csr :
    after (.csrset 5 0 0x010) s0 (fun t => t.me.rd 5 == 0 && t.me.pc == s0.me.pc + 4) = true ∧
    after (.csrrd 5 0x001) s0 (fun t => t.me.rd 5 == 0x0F20) = true ∧
    after (.csrrd 5 0x005) s0 (fun t => wbits (t.ten 1).ucause 0 16 == 0x0B01) = true ∧
    after (.csrwr 5 6 0x060) (machine { flow0 with status3 := 0 }) (fun t => wbits (t.ten 1).ucause 0 16 == 2) = true := by decide +kernel

/-- A machine whose tenant has a handler at 0x1FFFFFFFFFC2000. -/
def sHandler (f : Flow) : State :=
  let s := machine f
  { s with tenants := s.tenants.modify 1 (fun t => { t with tvec := 0x1FFFFFFFFFC2000 }) }

/-- R115, R371, R374: SYS from user mode stands at the handler with PSUP 0; ERET returns to EPC in user mode. -/
theorem test_sys_and_eret :
    after (.sys 0x2A) (sHandler { flow0 with status3 := 0 }) (fun t => t.me.pc == 0x1FFFFFFFFFC2000 && t.me.cause == 4 && t.me.eval == 0x2A &&
      t.me.epc == s0.me.pc && t.me.status3 == 5) = true ∧
    after .eret (sHandler { flow0 with status3 := 5, epc := 0x400 }) (fun t => t.me.pc == 0x400 && t.me.status3 == 0 && t.me.convoy.fresh) = true := by decide +kernel

/-- The worked conversions of 30.5, format by format: RNE, RTZ, RDN, RUP. -/
theorem test_convert_30_5 :
    ([(2, [0x41F4, 0x41F4, 0x41F4, 0x41F4]), (3, [0x4FA0, 0x4FA0, 0x4FA0, 0x4FA0]), (4, [0x5F, 0x5F, 0x5F, 0x60]), (5, [0x50, 0x4F, 0x4F, 0x50]),
      (6, [0x1F, 0x1F, 0x1F, 0x1F]), (8, [7, 7, 7, 7]), (10, [0x1E, 0x1E, 0x1E, 0x1F]), (13, [0xE, 0xE, 0xE, 0xF])] : List (Nat × List Nat)).all
      (fun p => [RMode.rne, .rtz, .rdn, .rup].map (fun r => convert p.1 r false ((efmt 0).val 0x41F40000)) == p.2) = true ∧
    convert 13 .rne true ((efmt 0).val 0x41F40000) = 7 := by decide +kernel

/-- The overflow of 500 into e4m3, without and with SAT. -/
theorem test_convert_500 :
    [RMode.rne, .rtz, .rdn, .rup].map (fun r => convert 4 r false (.ofInt 500)) = [0x7F, 0x7E, 0x7E, 0x7F] ∧
    [RMode.rne, .rtz, .rdn, .rup].map (fun r => convert 4 r true (.ofInt 500)) = [0x7E, 0x7E, 0x7E, 0x7E] := by decide +kernel

/-- R65: codes 0x7 and 0xB under scale 0x7C are 0.75 and −0.1875; code 0x7 under the e4m3 scale 0x34 is 4.5 (f32 codes by hand). -/
theorem test_block_scales :
    convert 0 .rne false (elemVal 20 (fun _ => 0x7) (fun _ => 0x7C) 0) = 0x3F400000 ∧
    convert 0 .rne false (elemVal 20 (fun _ => 0xB) (fun _ => 0x7C) 0) = 0xBE400000 ∧
    convert 0 .rne false (elemVal 25 (fun _ => 0x7) (fun _ => 0x34) 0) = 0x40900000 := by decide +kernel

/-- R66: 0x3D, 0x88, 0x8B and 0x58 decode to (−3, 3), (−8, 0), (0, −64) and (256, 0). -/
theorem test_decode_pair :
    ([(0xD, 0x3, -3, 3), (0x8, 0x8, -8, 0), (0xB, 0x8, 0, -64), (0x8, 0x5, 256, 0)] : List (Nat × Nat × Int × Int)).all
      (fun p => (convert 32 .rne false (decodePair p.1 p.2.1).1, convert 32 .rne false (decodePair p.1 p.2.1).2) ==
        (codeOf 32 p.2.2.1, codeOf 32 p.2.2.2)) = true := by decide +kernel

/-- R67: (300, 2) under RNE encodes as low 1000, high 0101. -/
theorem test_pair_encode : pairEncode .rne (.ofInt 300) (.ofInt 2) = (8, 5) := by decide +kernel

/-- The bf16 tree of R69 over 256, 1, 1, 1, 1: 260 under RNE, 258 under RTZ; bf16 codes 0x4382 and 0x4381. -/
def sTree (vt : Word) : State := machine (withV { flow0 with vtype := vt, vl := 5 } 16 [(4, [0x4380, 0x3F80, 0x3F80, 0x3F80, 0x3F80])])
theorem test_tree_sum :
    after (.vredsum true 5 4 15) (sTree 0x0F02) (fun t => t.me.rd 5 == 0x4382) = true ∧
    after (.vredsum true 5 4 15) (sTree 0x2F02) (fun t => t.me.rd 5 == 0x4381) = true := by decide +kernel

/-- One string, four readings: v6 read as i8 and i6, with L = 4,096. -/
def sString : Flow := withV { flow0 with vgnt := 0x24, vl := 128 } 32 [(6, [0x12345678, 0x0F, 0x03])]
theorem test_readings :
    (sString.elems 6 1 8 4) = [0x78, 0x56, 0x34, 0x12] ∧
    [0, 1, 2, 3, 4, 5, 10].map (fun i => sgn 6 (sString.elem 6 1 6 i)) = [-8, 25, 5, 13, 18, -4, -16] ∧
    ({ sString with vtype := 0x0F12 } : Flow).vlmax = 640 ∧ vlmaxOf 1 1 6 = 341 ∧ vlmaxOf 1 1 18 = 320 := by decide +kernel

/-- R55: four i6 codes from a byte-aligned base occupy 7F 01 7E. -/
theorem test_packing : packCodes 6 [0b111111, 0b000101, 0b100000, 0b011111] = 0x7E017F := by decide +kernel

/-- R82, the conversion worked through: a third arithmetic word without its mark raises CONVOY; a load after load and add too. -/
theorem test_convoy :
    ({ flow0 with convoy := ⟨true, false, 3, 2, 1, 0, 0, 0, none⟩ } : Flow).convoyBad false [.a] = true ∧
    ({ flow0 with convoy := ⟨true, false, 2, 1, 1, 0, 0, 0, none⟩ } : Flow).convoyBad false [.l] = true ∧
    ({ flow0 with convoy := ⟨true, false, 2, 1, 1, 0, 0, 0, none⟩ } : Flow).convoyBad false [.a] = false := by decide +kernel

/-- i32 vectors 1 to 4 in v4 and 10 to 40 in v5. -/
def sVec : State := machine (withV { flow0 with vl := 4 } 32 [(4, [1, 2, 3, 4]), (5, [10, 20, 30, 0x7FFFFFFF])])

/-- R78, R125, R139, R141: an unmasked add of v5 and v4.dn(1) delivers zero at VL − 1; add wraps; compress and the running count. -/
theorem test_vector_words :
    after (.vaddVx true 6 5 4 0b001000) sVec (fun t => t.me.elems 6 1 32 5 == [12, 23, 34, 0x7FFFFFFF, 0]) = true ∧
    after (.vadd true 6 5 4 15) sVec (fun t => t.me.elems 6 1 32 5 == [11, 22, 33, 0x80000003, 0]) = true ∧
    after (.vadd true 6 5 4 15) { sVec with me := { sVec.me with vtype := 0x8F20 } } (fun t => t.me.elems 6 1 32 4 == [11, 22, 33, 0x7FFFFFFF]) = true ∧
    after (.vcompress true 6 5 7 2) { sVec with me := { sVec.me with m := sVec.me.m.set 2 0b1010 } }
      (fun t => t.me.elems 6 1 32 4 == [20, 0x7FFFFFFF, 0, 0] && t.me.rd 7 == 2) = true ∧
    after (.viota true 6 2 15) { sVec with me := { sVec.me with m := sVec.me.m.set 2 0b1010 } }
      (fun t => t.me.elems 6 1 32 4 == [0, 0, 1, 1]) = true := by decide +kernel

/-- R149: the first VCSX of the worked example puts expert 0 before an empty pair. -/
def sRank : State := machine (withV { flow0 with vtype := 0x0F00, vl := 4 } 32
  [(0, [0xFF800000, 0xFF800000, 0xFF800000, 0xFF800000]), (1, [0xFFFFFFFF, 0xFFFFFFFF, 0xFFFFFFFF, 0xFFFFFFFF]),
   (8, [0x3F000000, 0x40000000, 0x3F800000, 0xBF800000]), (9, [0, 0, 0, 0])])
theorem test_vcsx :
    after (.vcsx true 0 8 15) sRank (fun t => t.me.elems 0 1 32 4 == [0x3F000000, 0x40000000, 0x3F800000, 0xBF800000] &&
      t.me.elems 1 1 32 4 == [0, 0, 0, 0] && t.me.elems 8 1 32 4 == [0xFF800000, 0xFF800000, 0xFF800000, 0xFF800000]) = true := by decide +kernel

/-- R62, R131: VNARROW of f32 30.5 to e4m3 gives 0x5F under RNE. -/
theorem test_vnarrow :
    after (.vnarrow true 8 4 0 15) (machine (withV { flow0 with vtype := 0x0F04, vl := 1 } 32 [(4, [0x41F40000])]))
      (fun t => t.me.elems 8 1 8 1 == [0x5F]) = true := by decide +kernel

/-- R332, R333: the header of the worked row, and the CRC's check value over "123456789" by its first seven bytes' step. -/
theorem test_row_header :
    rowHeader 0 0 (5 <<< 32 + 1 <<< 29 + 3 <<< 22 + 0x2000 <<< 8) = 0x0000000520E0004E ∧
    [0x31, 0x32, 0x33, 0x34, 0x35, 0x36, 0x37, 0x38, 0x39].foldl crc8Byte 0 = 0xF4 ∧
    crc64 [0x31, 0x32, 0x33, 0x34, 0x35, 0x36, 0x37, 0x38, 0x39] = 0x6C40DF5F0B497347 := by decide +kernel

/-- R457: with MATRIX not accepted, MATTACH 1 raises FEATURE with subcode 0x01 and its word in EVAL. -/
theorem test_feature :
    after (.mattach 1) (sHandler flow0) (fun t => t.me.eval == 0x5C000010 && t.me.cause == 0x0112) = true := by decide +kernel

/-- R167, R165: a LOOPV over 100 elements opens the loop with the first strip; ENDV leaves S(n) less VL. -/
theorem test_loop :
    after (.loopv 4 false) (machine (withS flow0 [(4, 100)])) (fun t => t.me.vl == 100 && t.me.loop.isSome && t.me.vgnt == 3) = true ∧
    after .endv (machine { (withS flow0 [(4, 100)]) with vl := 64, loop := some ⟨4, 0x1FFFFFFFFFC0004, false, 1, [], 1⟩ })
      (fun t => t.me.rd 4 == 36 && t.me.vl == 36 && t.me.pc == 0x1FFFFFFFFFC0004) = true := by decide +kernel

/-- R173, R174: VBR parks the positions its mask selects; VJOIN turns to them. -/
theorem test_vbr :
    after (.vbr 1 3) (machine { flow0 with vl := 4, m := flow0.m.set 1 0b0110, loop := some ⟨4, 0, false, 1, [], 1⟩ })
      (fun t => t.me.act == 0b1001 && t.me.pc == s0.me.pc + 4 && t.me.frags == [.parked 0b0110 (s0.me.pc + 12)]) = true := by decide +kernel

/-- FIPS 202's SHA3-512 of the empty message begins A6 9F 73 CC A2 3A 9A C5 (R459, log 13). -/
theorem test_sha3 : (bytesLE 64 (sha3 []).toNat).take 8 = [0xA6, 0x9F, 0x73, 0xCC, 0xA2, 0x3A, 0x9A, 0xC5] := by decide +kernel

/-- Bytes that encode no instruction are refused by the name of the failing check (R84). -/
theorem test_decode_refusals :
    (([([0, 0, 0, 0], .opcode), ([0x3F, 0, 0, 0x01], .func), ([0x00, 0x40, 0x28, 0x81], .convoy), ([0x3C, 0, 0xC0, 0x23], .reg),
      ([0x30, 0, 0x04, 0x23], .mask), ([0x02], .short), ([0x50, 0, 0, 0x5C], .field)] : List (List Byte × DecErr)).all
      (fun p => match decodeBytes p.1 with | .error e => e == p.2 | .ok _ => false)) = true := by decide +kernel

/-! ### Words and terms -/

/-- Words written out bit by bit, field by field, from their rows of the encoding tables. -/
theorem test_words_by_hand : (([
    (0b01110000000000_00111_01000_00000001, .evpost 7 8),
    (0b01111000000000_01010_01001_00000000, .arrwait 10 9),
    (0b01110110_000100_10100_10111_00000000, .rowsend 4 20 23),
    (0b011101110_00111_01100_0000000000000, .rowack 7 12),
    (0b011010110000000000000000_0011_0001, .swaitVisible 3),
    (0b01101000_000111_01010_01100_0011_00_00, .stream 7 10 12 3 0 0),
    (0b01010110_000110_10100_10101_1111_0_000, .pscat 6 20 21 15 0),
    (0b01010101_000100_10100_10101_0010_00_0_0, .papply 4 20 21 2 false),
    (0b010110010_00111_10100_0000000000000, .pstat 7 20),
    (0b01011101000000_00110_00000_0001_0010, .mdeclRank 6 1),
    (0b01110010_0000000000000001_00000000, .mark 1),
    (0b1_1001011_000010_01100_00000_1111_1_0_10, .vldw true 2 12 15 true 2),
    (0b011101000_11111_11110_0000000000000, .ttstat 31 30),
    (0b011100000_10010_000000000000000000, .evrd 18),
    (0b1_0101101_001000_000010_000100_1111_00, .vfma true 8 2 4 15),
    (0b1_0111010_010100_001000_000000_1111_00, .vredsum true 20 8 15),
    (0b0_0111111_000000_001000_000000_1111_00, .vcsx false 0 8 15),
    (0b010100010_0001_00000_00000000000011, .vbr 1 3),
    (0b00000001_00101_01001_00110_000000000, .add 5 9 6),
    (0b00011000_00101_01001_10101000000101, .ld 5 9 10757),
    (0b00001010_00101_01001_10101000000101, .beq 5 9 10757),
    (0b00011110_00101_01001_01_101010000101, .csrwr 5 9 2693)] :
    List (Nat × Instr)).all (fun p => decide (decodeTableWord 32 p.1 = some p.2))) = true := by decide +kernel

/-- Words from the encoding tables, add to addi. -/
theorem test_decode_add_to_addi : (([(0x012A4C00, .add 5 9 6), (0x012A4C01, .sub 5 9 6), (0x012A4C02, .and 5 9 6), (0x012A4C03, .or 5 9 6), 
    (0x012A4C04, .xor 5 9 6), (0x012A4C05, .sll 5 9 6), (0x012A4C06, .srl 5 9 6), (0x012A4C07, .sra 5 9 6), 
    (0x012A4C08, .slt 5 9 6), (0x012A4C09, .sltu 5 9 6), (0x012A4C0A, .min 5 9 6), (0x012A4C0B, .max 5 9 6), 
    (0x012A4C0C, .minu 5 9 6), (0x012A4C0D, .maxu 5 9 6), (0x012A4010, .clz 5 9), (0x012A4011, .ctz 5 9), 
    (0x012A4012, .popc 5 9), (0x012A4C20, .mul 5 9 6), (0x012A4C21, .mulh 5 9 6), (0x012A4C22, .mulhu 5 9 6), 
    (0x012A4C23, .div 5 9 6), (0x012A4C24, .divu 5 9 6), (0x012A4C25, .rem 5 9 6), (0x012A4C26, .remu 5 9 6), 
    (0x012A4046, .slli 5 9 6), (0x012A4086, .srli 5 9 6), (0x012A40C6, .srai 5 9 6), (0x022A6A05, .addi 5 9 10757)] :
    List (Nat × Instr)).all (fun p => decide (decodeTableWord 32 p.1 = some p.2 ∧ encodeNat p.2 = some p.1))) = true := by decide +kernel

/-- Words from the encoding tables, andi to amoadd. -/
theorem test_decode_andi_to_amoadd : (([(0x032A6A05, .andi 5 9 10757), (0x042A6A05, .ori 5 9 10757), (0x052A6A05, .xori 5 9 10757), 
    (0x062A6A05, .slti 5 9 10757), (0x072A6A05, .sltiu 5 9 10757), (0x082DA5A5, .lih 5 370085), 
    (0x092DA5A5, .auipc 5 370085), (0x0A2A6A05, .beq 5 9 10757), (0x0B2A6A05, .bne 5 9 10757), 
    (0x0C2A6A05, .blt 5 9 10757), (0x0D2A6A05, .bge 5 9 10757), (0x0E2A6A05, .bltu 5 9 10757), 
    (0x0F2A6A05, .bgeu 5 9 10757), (0x102DA5A5, .jal 5 370085), (0x112A6A05, .jalr 5 9 10757), 
    (0x122A6A05, .lb 5 9 10757), (0x132A6A05, .lbu 5 9 10757), (0x142A6A05, .lh 5 9 10757), 
    (0x152A6A05, .lhu 5 9 10757), (0x162A6A05, .lw 5 9 10757), (0x172A6A05, .lwu 5 9 10757), 
    (0x182A6A05, .ld 5 9 10757), (0x192A6A05, .sb 5 9 10757), (0x1A2A6A05, .sh 5 9 10757), (0x1B2A6A05, .sw 5 9 10757), 
    (0x1C2A6A05, .sd 5 9 10757), (0x1D2A4C29, .amoswap 5 9 6 2 4 true), (0x1D2A4C69, .amoadd 5 9 6 2 4 true)] :
    List (Nat × Instr)).all (fun p => decide (decodeTableWord 32 p.1 = some p.2 ∧ encodeNat p.2 = some p.1))) = true := by decide +kernel

/-- Words from the encoding tables, amoand to vand. -/
theorem test_decode_amoand_to_vand : (([(0x1D2A4CA9, .amoand 5 9 6 2 4 true), (0x1D2A4CE9, .amoor 5 9 6 2 4 true), (0x1D2A4D29, .amomax 5 9 6 2 4 true), 
    (0x1D2A4D69, .amomin 5 9 6 2 4 true), (0x1D2A4DA9, .amocas 5 9 6 2 4 true), (0x1E280A85, .csrrd 5 2693), 
    (0x1E2A5A85, .csrwr 5 9 2693), (0x1E2A6A85, .csrset 5 9 2693), (0x1E2A7A85, .csrclr 5 9 2693), 
    (0x1F480020, .fence 9 4), (0x1F054A40, .sys 677), (0x1F000080, .eret), (0x1F054AC0, .brk 677), (0x1F000100, .wfe), 
    (0xA0498000, .setvl true 9 6), (0xA1A5A500, .setvt true 42405), (0xA1480001, .setvtReg true 9), 
    (0xA200903C, .setsv true 9), (0xA200003D, .setsvOff true), (0xA32460DC, .vadd true 9 6 3 7), 
    (0xA32460DD, .vsub true 9 6 3 7), (0xA32460DE, .vmul true 9 6 3 7), (0xA32460DF, .vdiv true 9 6 3 7), 
    (0xA42460DC, .vmin true 9 6 3 7), (0xA42460DD, .vmax true 9 6 3 7), (0xA42460DE, .vmulh true 9 6 3 7), 
    (0xA42460DF, .vabsd true 9 6 3 7), (0xA52460DC, .vand true 9 6 3 7)] :
    List (Nat × Instr)).all (fun p => decide (decodeTableWord 32 p.1 = some p.2 ∧ encodeNat p.2 = some p.1))) = true := by decide +kernel

/-- Words from the encoding tables, vor to vwiden. -/
theorem test_decode_vor_to_vwiden : (([(0xA52460DD, .vor true 9 6 3 7), (0xA52460DE, .vxor true 9 6 3 7), (0xA62460DC, .vsll true 9 6 3 7), 
    (0xA62460DD, .vsrl true 9 6 3 7), (0xA62460DE, .vsra true 9 6 3 7), (0xA72460DC, .vaddi true 9 6 3 7), 
    (0xA72460DD, .vslli true 9 6 3 7), (0xA72460DE, .vsrli true 9 6 3 7), (0xA72460DF, .vsrai true 9 6 3 7), 
    (0xA82460C8, .vaddVx true 9 6 3 8), (0xA92460C8, .vsubVx true 9 6 3 8), (0xAA2460C8, .vmulVx true 9 6 3 8), 
    (0xAB2460C8, .vminVx true 9 6 3 8), (0xAC2460C8, .vmaxVx true 9 6 3 8), (0xAD2460DC, .vfma true 9 6 3 7), 
    (0xAD2460DD, .vfms true 9 6 3 7), (0xAD2460DE, .vfnma true 9 6 3 7), (0xAD2460DF, .vfnms true 9 6 3 7), 
    (0xAE24601C, .vrec true 9 6 7), (0xAE24601D, .vrsq true 9 6 7), (0xAE24601E, .vfexp2 true 9 6 7), 
    (0xAE24601F, .vabs true 9 6 7), (0xAF24601C, .vneg true 9 6 7), (0xAF24601D, .vnot true 9 6 7), 
    (0xAF24601E, .vclz true 9 6 7), (0xAF24601F, .vpopc true 9 6 7), (0xB02460DC, .vcvt true 9 6 3 7), 
    (0xB02460DD, .vwiden true 9 6 3 7)] :
    List (Nat × Instr)).all (fun p => decide (decodeTableWord 32 p.1 = some p.2 ∧ encodeNat p.2 = some p.1))) = true := by decide +kernel

/-- Words from the encoding tables, vnarrow to vxlane. -/
theorem test_decode_vnarrow_to_vxlane : (([(0xB02460DE, .vnarrow true 9 6 3 7), (0xB12460FC, .vquant true 9 6 3), (0xB124651D, .vdeq true 9 6 20 7), 
    (0xB22460DC, .vcmpEq true 9 6 3 7), (0xB22460DD, .vcmpNe true 9 6 3 7), (0xB22460DE, .vcmpLt true 9 6 3 7), 
    (0xB22460DF, .vcmpLe true 9 6 3 7), (0xB32460DC, .vcmpiEq true 9 6 3 7), (0xB32460DD, .vcmpiNe true 9 6 3 7), 
    (0xB32460DE, .vcmpiLt true 9 6 3 7), (0xB32460DF, .vcmpiGt true 9 6 3 7), (0xB42460FC, .mand true 9 6 3), 
    (0xB42460FD, .mor true 9 6 3), (0xB42460FE, .mxor true 9 6 3), (0xB42460FF, .mandn true 9 6 3), 
    (0xB524603C, .mpop true 9 6), (0xB524603D, .mfirst true 9 6), (0xB52460DE, .vmerge true 9 6 3 7), 
    (0xB524001F, .vid true 9 7), (0xB62460DC, .vcompress true 9 6 3 7), (0xB624601D, .vexpand true 9 6 7), 
    (0xB62460DE, .vperm true 9 6 3 7), (0xB624601F, .viota true 9 6 7), (0xB72460DC, .vslup true 9 6 3 7), 
    (0xB72460DD, .vsldn true 9 6 3 7), (0xB724019E, .vbcast true 9 6 7), (0xB824629C, .vmov true 9 6 10 7), 
    (0xB92460FC, .vxlane true 9 6 3)] :
    List (Nat × Instr)).all (fun p => decide (decodeTableWord 32 p.1 = some p.2 ∧ encodeNat p.2 = some p.1))) = true := by decide +kernel

/-- Words from the encoding tables, vredsum to vjoin. -/
theorem test_decode_vredsum_to_vjoin : (([(0xBA24601C, .vredsum true 9 6 7), (0xBA24601D, .vredmax true 9 6 7), (0xBA24601E, .vredmin true 9 6 7), 
    (0xBB24601C, .vredand true 9 6 7), (0xBB24601D, .vredor true 9 6 7), (0xBB24601E, .vredxor true 9 6 7), 
    (0xBC24601C, .vscansum true 9 6 7), (0xBC24601D, .vscanmax true 9 6 7), (0xBC24601E, .vscanmin true 9 6 7), 
    (0xBD24601C, .vscansumX true 9 6 7), (0xBD24601D, .vscanmaxX true 9 6 7), (0xBD24601E, .vscanminX true 9 6 7), 
    (0xBE2460FC, .vfoldSum true 9 6 3), (0xBE2460FD, .vfoldMax true 9 6 3), (0xBE2460FE, .vfoldMin true 9 6 3), 
    (0xBF24601C, .vcsx true 9 6 7), (0xC824C070, .vld true 9 6 7), (0xC924C370, .vlds true 9 6 3 7), 
    (0xCA24C072, .vldb true 9 6 7 2), (0xCB24C07A, .vldw true 9 6 7 true 2), 
    (0xCB24C37E, .vldwScaled true 9 6 3 7 true 2), (0xCC24C070, .vst true 9 6 7), (0xCD24C370, .vsts true 9 6 3 7), 
    (0x4E00A0F1, .loopv 5 true), (0x4F0000F0, .endv), (0x50000070, .brkv 7), (0x51382A05, .vbr 7 10757), 
    (0x520000F0, .vjoin)] :
    List (Nat × Instr)).all (fun p => decide (decodeTableWord 32 p.1 = some p.2 ∧ encodeNat p.2 = some p.1))) = true := by decide +kernel

/-- Words from the encoding tables, plan to swalk. -/
theorem test_decode_plan_to_swalk : (([(0x54152601, .plan 5 9 6 true), (0x55152632, .papply 5 9 6 3 true), (0x55152603, .papplySpm 5 9 6 true), 
    (0x56152672, .pscat 5 9 6 7 2), (0x57152000, .pinv 5 9), (0x58152600, .pcomp 5 9 6), (0x59152000, .pstat 5 9), 
    (0x5A00A000, .pfree 5), (0x5B00A000, .pspill 5), (0x5B00A001, .pfill 5), (0x5C000030, .mattach 3), 
    (0x5C000001, .mdetach), (0x5D000050, .mdeclF32 5), (0x5D000051, .mdeclI32 5), (0x5D00A092, .mdeclRank 5 9), 
    (0xDE000090, .mzero true 9), (0xDF246340, .mop true 9 6 3 2 0), (0xE0906340, .mopa true 9 6 3 2 0), 
    (0xE1012630, .mlda true 9 6 3), (0xE1012631, .msta true 9 6 3), (0xE224C031, .mrd true 9 6 3 1), 
    (0xE3012063, .mrank true 9 6 3), (0xE4012060, .mrmerge true 9 6), (0xE5240060, .mthr true 9 6), 
    (0x66000000, .mwait), (0x68152836, .stream 5 9 8 3 1 2), (0x6815206F, .streamReg 5 9 6), 
    (0x69152836, .swalk 5 9 8 3 1 2)] :
    List (Nat × Instr)).all (fun p => decide (decodeTableWord 32 p.1 = some p.2 ∧ encodeNat p.2 = some p.1))) = true := by decide +kernel

/-- Words from the encoding tables, scow to enchk. -/
theorem test_decode_scow_to_enchk : (([(0x6A152836, .scow 5 9 8 3 1 2), (0x6B000050, .swaitRelease 5), (0x6B000051, .swaitVisible 5), 
    (0x6C000050, .commit 5), (0x6D152600, .tdef 5 9 6), (0x6E00A900, .tdec 5 9), (0x6F152600, .tspawn 5 9 6), 
    (0x70140000, .evrd 5), (0x7000A901, .evpost 5 9), (0x71000005, .bar 5), (0x72A5A500, .mark 42405), 
    (0x7300A902, .ttbind 5 9 2), (0x74152000, .ttstat 5 9), (0x7500A900, .tierpin 5 9), (0x7500A901, .tierfree 5 9), 
    (0x76152600, .rowsend 5 9 6), (0x77152000, .rowack 5 9), (0x7800A900, .arrwait 5 9), (0x79152600, .replsel 5 9 6), 
    (0x7A000000, .ctxyield), (0x7B152000, .enchk 5 9)] :
    List (Nat × Instr)).all (fun p => decide (decodeTableWord 32 p.1 = some p.2 ∧ encodeNat p.2 = some p.1))) = true := by decide +kernel

/-- Each check of `Instr.wf` refuses a term that breaks it alone, amoswap to vmax. -/
theorem test_ill_formed_1 : (([.amoswap 0 0 0 0 7 true, .amoadd 0 0 0 0 7 true, .amoand 0 0 0 0 7 true, .amoor 0 0 0 0 7 true,
    .amomax 0 0 0 0 7 true, .amomin 0 0 0 0 7 true, .amocas 0 0 0 0 7 true, .fence 0 0, .fence 1 7, .setsv true 48,
    .vadd true 48 0 0 0, .vadd true 0 48 0 0, .vadd true 0 0 48 0, .vadd true 0 0 0 12, .vsub true 48 0 0 0,
    .vsub true 0 48 0 0, .vsub true 0 0 48 0, .vsub true 0 0 0 12, .vmul true 48 0 0 0, .vmul true 0 48 0 0,
    .vmul true 0 0 48 0, .vmul true 0 0 0 12, .vdiv true 48 0 0 0, .vdiv true 0 48 0 0, .vdiv true 0 0 48 0,
    .vdiv true 0 0 0 12, .vmin true 48 0 0 0, .vmin true 0 48 0 0, .vmin true 0 0 48 0, .vmin true 0 0 0 12,
    .vmax true 48 0 0 0, .vmax true 0 48 0 0] :
    List Instr).all (fun i => !i.wf)) = true := by decide +kernel

/-- Each check of `Instr.wf` refuses a term that breaks it alone, vmax to vsra. -/
theorem test_ill_formed_2 : (([.vmax true 0 0 48 0, .vmax true 0 0 0 12, .vmulh true 48 0 0 0, .vmulh true 0 48 0 0, .vmulh true 0 0 48 0,
    .vmulh true 0 0 0 12, .vabsd true 48 0 0 0, .vabsd true 0 48 0 0, .vabsd true 0 0 48 0, .vabsd true 0 0 0 12,
    .vand true 48 0 0 0, .vand true 0 48 0 0, .vand true 0 0 48 0, .vand true 0 0 0 12, .vor true 48 0 0 0,
    .vor true 0 48 0 0, .vor true 0 0 48 0, .vor true 0 0 0 12, .vxor true 48 0 0 0, .vxor true 0 48 0 0,
    .vxor true 0 0 48 0, .vxor true 0 0 0 12, .vsll true 48 0 0 0, .vsll true 0 48 0 0, .vsll true 0 0 48 0,
    .vsll true 0 0 0 12, .vsrl true 48 0 0 0, .vsrl true 0 48 0 0, .vsrl true 0 0 48 0, .vsrl true 0 0 0 12,
    .vsra true 48 0 0 0, .vsra true 0 48 0 0] :
    List Instr).all (fun i => !i.wf)) = true := by decide +kernel

/-- Each check of `Instr.wf` refuses a term that breaks it alone, vsra to vmaxVx. -/
theorem test_ill_formed_3 : (([.vsra true 0 0 48 0, .vsra true 0 0 0 12, .vaddi true 48 0 0 0, .vaddi true 0 48 0 0, .vaddi true 0 0 0 12,
    .vslli true 48 0 0 0, .vslli true 0 48 0 0, .vslli true 0 0 0 12, .vsrli true 48 0 0 0, .vsrli true 0 48 0 0,
    .vsrli true 0 0 0 12, .vsrai true 48 0 0 0, .vsrai true 0 48 0 0, .vsrai true 0 0 0 12, .vaddVx true 48 0 0 0,
    .vaddVx true 0 48 0 0, .vaddVx true 0 0 48 0, .vaddVx true 0 0 0 17, .vsubVx true 48 0 0 0, .vsubVx true 0 48 0 0,
    .vsubVx true 0 0 48 0, .vsubVx true 0 0 0 17, .vmulVx true 48 0 0 0, .vmulVx true 0 48 0 0, .vmulVx true 0 0 48 0,
    .vmulVx true 0 0 0 17, .vminVx true 48 0 0 0, .vminVx true 0 48 0 0, .vminVx true 0 0 48 0, .vminVx true 0 0 0 17,
    .vmaxVx true 48 0 0 0, .vmaxVx true 0 48 0 0] :
    List Instr).all (fun i => !i.wf)) = true := by decide +kernel

/-- Each check of `Instr.wf` refuses a term that breaks it alone, vmaxVx to vneg. -/
theorem test_ill_formed_4 : (([.vmaxVx true 0 0 48 0, .vmaxVx true 0 0 0 17, .vfma true 48 0 0 0, .vfma true 0 48 0 0, .vfma true 0 0 48 0,
    .vfma true 0 0 0 12, .vfms true 48 0 0 0, .vfms true 0 48 0 0, .vfms true 0 0 48 0, .vfms true 0 0 0 12,
    .vfnma true 48 0 0 0, .vfnma true 0 48 0 0, .vfnma true 0 0 48 0, .vfnma true 0 0 0 12, .vfnms true 48 0 0 0,
    .vfnms true 0 48 0 0, .vfnms true 0 0 48 0, .vfnms true 0 0 0 12, .vrec true 48 0 0, .vrec true 0 48 0,
    .vrec true 0 0 12, .vrsq true 48 0 0, .vrsq true 0 48 0, .vrsq true 0 0 12, .vfexp2 true 48 0 0, .vfexp2 true 0 48 0,
    .vfexp2 true 0 0 12, .vabs true 48 0 0, .vabs true 0 48 0, .vabs true 0 0 12, .vneg true 48 0 0, .vneg true 0 48 0] :
    List Instr).all (fun i => !i.wf)) = true := by decide +kernel

/-- Each check of `Instr.wf` refuses a term that breaks it alone, vneg to vcmpEq. -/
theorem test_ill_formed_5 : (([.vneg true 0 0 12, .vnot true 48 0 0, .vnot true 0 48 0, .vnot true 0 0 12, .vclz true 48 0 0, .vclz true 0 48 0,
    .vclz true 0 0 12, .vpopc true 48 0 0, .vpopc true 0 48 0, .vpopc true 0 0 12, .vcvt true 48 0 0 0,
    .vcvt true 0 48 0 0, .vcvt true 0 0 0 12, .vcvt true 0 0 14 0, .vwiden true 48 0 0 0, .vwiden true 0 48 0 0,
    .vwiden true 0 0 0 12, .vwiden true 0 0 14 0, .vnarrow true 48 0 0 0, .vnarrow true 0 48 0 0, .vnarrow true 0 0 0 12,
    .vnarrow true 0 0 14 0, .vquant true 48 0 0, .vquant true 0 48 0, .vquant true 0 0 14, .vdeq true 48 0 14 0,
    .vdeq true 0 48 14 0, .vdeq true 0 0 14 12, .vdeq true 0 0 13 0, .vdeq true 0 0 28 0, .vcmpEq true 12 0 0 0,
    .vcmpEq true 0 48 0 0] :
    List Instr).all (fun i => !i.wf)) = true := by decide +kernel

/-- Each check of `Instr.wf` refuses a term that breaks it alone, vcmpEq to mor. -/
theorem test_ill_formed_6 : (([.vcmpEq true 0 0 48 0, .vcmpEq true 0 0 0 12, .vcmpNe true 12 0 0 0, .vcmpNe true 0 48 0 0, .vcmpNe true 0 0 48 0,
    .vcmpNe true 0 0 0 12, .vcmpLt true 12 0 0 0, .vcmpLt true 0 48 0 0, .vcmpLt true 0 0 48 0, .vcmpLt true 0 0 0 12,
    .vcmpLe true 12 0 0 0, .vcmpLe true 0 48 0 0, .vcmpLe true 0 0 48 0, .vcmpLe true 0 0 0 12, .vcmpiEq true 12 0 0 0,
    .vcmpiEq true 0 48 0 0, .vcmpiEq true 0 0 0 12, .vcmpiNe true 12 0 0 0, .vcmpiNe true 0 48 0 0,
    .vcmpiNe true 0 0 0 12, .vcmpiLt true 12 0 0 0, .vcmpiLt true 0 48 0 0, .vcmpiLt true 0 0 0 12,
    .vcmpiGt true 12 0 0 0, .vcmpiGt true 0 48 0 0, .vcmpiGt true 0 0 0 12, .mand true 12 0 0, .mand true 0 12 0,
    .mand true 0 0 12, .mor true 12 0 0, .mor true 0 12 0, .mor true 0 0 12] :
    List Instr).all (fun i => !i.wf)) = true := by decide +kernel

/-- Each check of `Instr.wf` refuses a term that breaks it alone, mxor to vslup. -/
theorem test_ill_formed_7 : (([.mxor true 12 0 0, .mxor true 0 12 0, .mxor true 0 0 12, .mandn true 12 0 0, .mandn true 0 12 0, .mandn true 0 0 12,
    .mpop true 32 0, .mpop true 0 12, .mfirst true 32 0, .mfirst true 0 12, .vmerge true 48 0 0 0, .vmerge true 0 48 0 0,
    .vmerge true 0 0 48 0, .vmerge true 0 0 0 15, .vmerge true 0 0 0 12, .vid true 48 0, .vid true 0 12,
    .vcompress true 48 0 0 0, .vcompress true 0 48 0 0, .vcompress true 0 0 32 0, .vcompress true 0 0 0 12,
    .vexpand true 48 0 0, .vexpand true 0 48 0, .vexpand true 0 0 12, .vperm true 48 0 0 0, .vperm true 0 48 0 0,
    .vperm true 0 0 48 0, .vperm true 0 0 0 12, .viota true 48 0 0, .viota true 0 12 0, .viota true 0 0 12,
    .vslup true 48 0 0 0] :
    List Instr).all (fun i => !i.wf)) = true := by decide +kernel

/-- Each check of `Instr.wf` refuses a term that breaks it alone, vslup to vredor. -/
theorem test_ill_formed_8 : (([.vslup true 0 48 0 0, .vslup true 0 0 32 0, .vslup true 0 0 0 12, .vsldn true 48 0 0 0, .vsldn true 0 48 0 0,
    .vsldn true 0 0 32 0, .vsldn true 0 0 0 12, .vbcast true 48 0 0, .vbcast true 0 32 0, .vbcast true 0 0 12,
    .vmov true 48 0 0 0, .vmov true 0 48 0 0, .vmov true 0 0 17 0, .vmov true 0 0 0 12, .vxlane true 48 0 0,
    .vxlane true 0 48 0, .vxlane true 0 0 32, .vredsum true 32 0 0, .vredsum true 0 48 0, .vredsum true 0 0 12,
    .vredmax true 32 0 0, .vredmax true 0 48 0, .vredmax true 0 0 12, .vredmin true 32 0 0, .vredmin true 0 48 0,
    .vredmin true 0 0 12, .vredand true 32 0 0, .vredand true 0 48 0, .vredand true 0 0 12, .vredor true 32 0 0,
    .vredor true 0 48 0, .vredor true 0 0 12] :
    List Instr).all (fun i => !i.wf)) = true := by decide +kernel

/-- Each check of `Instr.wf` refuses a term that breaks it alone, vredxor to vcsx. -/
theorem test_ill_formed_9 : (([.vredxor true 32 0 0, .vredxor true 0 48 0, .vredxor true 0 0 12, .vscansum true 48 0 0, .vscansum true 0 48 0,
    .vscansum true 0 0 12, .vscanmax true 48 0 0, .vscanmax true 0 48 0, .vscanmax true 0 0 12, .vscanmin true 48 0 0,
    .vscanmin true 0 48 0, .vscanmin true 0 0 12, .vscansumX true 48 0 0, .vscansumX true 0 48 0, .vscansumX true 0 0 12,
    .vscanmaxX true 48 0 0, .vscanmaxX true 0 48 0, .vscanmaxX true 0 0 12, .vscanminX true 48 0 0,
    .vscanminX true 0 48 0, .vscanminX true 0 0 12, .vfoldSum true 48 0 0, .vfoldSum true 0 48 0, .vfoldSum true 0 0 16,
    .vfoldMax true 48 0 0, .vfoldMax true 0 48 0, .vfoldMax true 0 0 16, .vfoldMin true 48 0 0, .vfoldMin true 0 48 0,
    .vfoldMin true 0 0 16, .vcsx true 48 0 0, .vcsx true 0 48 0] :
    List Instr).all (fun i => !i.wf)) = true := by decide +kernel

/-- Each check of `Instr.wf` refuses a term that breaks it alone, vcsx to stream. -/
theorem test_ill_formed_10 : (([.vcsx true 0 0 12, .vld true 48 0 0, .vld true 0 0 12, .vlds true 48 0 0 0, .vlds true 0 0 0 12, .vldb true 48 0 0 0,
    .vldb true 0 0 12 0, .vldw true 48 0 0 true 0, .vldw true 0 0 12 true 0, .vldwScaled true 48 0 0 0 true 0,
    .vldwScaled true 0 0 0 12 true 0, .vst true 48 0 0, .vst true 0 0 12, .vsts true 48 0 0 0, .vsts true 0 0 0 12,
    .brkv 15, .brkv 12, .vbr 12 0, .papply 48 0 0 0 true, .pscat 48 0 0 0 0, .pscat 0 0 0 12 0, .pscat 0 0 0 0 5,
    .mattach 0, .mattach 5, .mop true 48 0 0 0 0, .mop true 0 48 0 0 0, .mopa true 0 48 1 0 0, .mopa true 1 0 1 0 0,
    .mrd true 48 0 0 0, .mthr true 48 0, .stream 48 0 0 0 0 0, .stream 0 0 1 0 0 0] :
    List Instr).all (fun i => !i.wf)) = true := by decide +kernel

/-- Each check of `Instr.wf` refuses a term that breaks it alone, stream to rowsend. -/
theorem test_ill_formed_11 : (([.stream 0 0 0 0 3 0, .stream 0 0 0 0 0 3, .streamReg 48 0 0, .swalk 0 0 1 0 0 0, .swalk 0 0 0 0 3 0,
    .swalk 0 0 0 0 0 3, .scow 0 0 1 0 0 0, .scow 0 0 0 0 3 0, .scow 0 0 0 0 0 3, .ttbind 0 0 3, .rowsend 48 0 0] :
    List Instr).all (fun i => !i.wf)) = true := by decide +kernel

/-- The terms those checks start from are well formed. -/
theorem test_well_formed_1 : (([.amoswap 0 0 0 0 0 true, .amoadd 0 0 0 0 0 true, .amoand 0 0 0 0 0 true, .amoor 0 0 0 0 0 true,
    .amomax 0 0 0 0 0 true, .amomin 0 0 0 0 0 true, .amocas 0 0 0 0 0 true, .fence 1 0, .setsv true 0,
    .vadd true 0 0 0 0, .vsub true 0 0 0 0, .vmul true 0 0 0 0, .vdiv true 0 0 0 0, .vmin true 0 0 0 0,
    .vmax true 0 0 0 0, .vmulh true 0 0 0 0, .vabsd true 0 0 0 0, .vand true 0 0 0 0, .vor true 0 0 0 0,
    .vxor true 0 0 0 0, .vsll true 0 0 0 0, .vsrl true 0 0 0 0, .vsra true 0 0 0 0, .vaddi true 0 0 0 0,
    .vslli true 0 0 0 0, .vsrli true 0 0 0 0, .vsrai true 0 0 0 0, .vaddVx true 0 0 0 0, .vsubVx true 0 0 0 0,
    .vmulVx true 0 0 0 0, .vminVx true 0 0 0 0, .vmaxVx true 0 0 0 0] :
    List Instr).all (fun i => i.wf)) = true := by decide +kernel

/-- The terms those checks start from are well formed. -/
theorem test_well_formed_2 : (([.vfma true 0 0 0 0, .vfms true 0 0 0 0, .vfnma true 0 0 0 0, .vfnms true 0 0 0 0, .vrec true 0 0 0, .vrsq true 0 0 0,
    .vfexp2 true 0 0 0, .vabs true 0 0 0, .vneg true 0 0 0, .vnot true 0 0 0, .vclz true 0 0 0, .vpopc true 0 0 0,
    .vcvt true 0 0 0 0, .vwiden true 0 0 0 0, .vnarrow true 0 0 0 0, .vquant true 0 0 0, .vdeq true 0 0 14 0,
    .vcmpEq true 0 0 0 0, .vcmpNe true 0 0 0 0, .vcmpLt true 0 0 0 0, .vcmpLe true 0 0 0 0, .vcmpiEq true 0 0 0 0,
    .vcmpiNe true 0 0 0 0, .vcmpiLt true 0 0 0 0, .vcmpiGt true 0 0 0 0, .mand true 0 0 0, .mor true 0 0 0,
    .mxor true 0 0 0, .mandn true 0 0 0, .mpop true 0 0, .mfirst true 0 0, .vmerge true 0 0 0 0] :
    List Instr).all (fun i => i.wf)) = true := by decide +kernel

/-- The terms those checks start from are well formed. -/
theorem test_well_formed_3 : (([.vid true 0 0, .vcompress true 0 0 0 0, .vexpand true 0 0 0, .vperm true 0 0 0 0, .viota true 0 0 0,
    .vslup true 0 0 0 0, .vsldn true 0 0 0 0, .vbcast true 0 0 0, .vmov true 0 0 0 0, .vxlane true 0 0 0,
    .vredsum true 0 0 0, .vredmax true 0 0 0, .vredmin true 0 0 0, .vredand true 0 0 0, .vredor true 0 0 0,
    .vredxor true 0 0 0, .vscansum true 0 0 0, .vscanmax true 0 0 0, .vscanmin true 0 0 0, .vscansumX true 0 0 0,
    .vscanmaxX true 0 0 0, .vscanminX true 0 0 0, .vfoldSum true 0 0 0, .vfoldMax true 0 0 0, .vfoldMin true 0 0 0,
    .vcsx true 0 0 0, .vld true 0 0 0, .vlds true 0 0 0 0, .vldb true 0 0 0 0, .vldw true 0 0 0 true 0,
    .vldwScaled true 0 0 0 0 true 0, .vst true 0 0 0] :
    List Instr).all (fun i => i.wf)) = true := by decide +kernel

/-- The terms those checks start from are well formed. -/
theorem test_well_formed_4 : (([.vsts true 0 0 0 0, .brkv 0, .vbr 0 0, .papply 0 0 0 0 true, .pscat 0 0 0 0 0, .mattach 1, .mop true 0 0 0 0 0,
    .mopa true 0 0 1 0 0, .mrd true 0 0 0 0, .mthr true 0 0, .stream 0 0 0 0 0 0, .streamReg 0 0 0, .swalk 0 0 0 0 0 0,
    .scow 0 0 0 0 0 0, .ttbind 0 0 0, .rowsend 0 0 0] :
    List Instr).all (fun i => i.wf)) = true := by decide +kernel

/-! ### States that meet the hypotheses of the statements -/

/-- ScalarArithmeticResults, BranchesAndJumps: a flow with 32 scalar registers and no error; a JALR to each kind of address. -/
theorem wit_scalar : s0.me.s.length = 32 ∧ Claims.clean s0 [.s 6, .s 7] ∧ (s0.me.rd 6 + (4 : BitVec 14).signExtend 64).toNat % 4 = 0 ∧
    (s0.me.rd 6 + (3 : BitVec 14).signExtend 64).toNat % 4 ≠ 0 := by
  unfold Claims.clean; decide +kernel

/-- Where the core's memory at offset o lies. -/
def xlTcm (o : Nat) : Xl := ⟨tcmBase + o, 0, 0, 0, 0, false, false⟩

/-- An access translated as x says. -/
def okXl (r : Except XErr Xl) (x : Xl) : Bool :=
  match r with
  | .ok y => y == x
  | .error _ => false

theorem okXl_eq {r : Except XErr Xl} {x : Xl} (h : okXl r x = true) : r = .ok x := by
  unfold okXl at h; split at h
  · simp at h; rw [h]
  · contradiction

/-- An access refused as e says. -/
def errXl (r : Except XErr Xl) (e : XErr) : Bool :=
  match r with
  | .ok _ => false
  | .error d => d == e

theorem errXl_eq {r : Except XErr Xl} {e : XErr} (h : errXl r e = true) : r = .error e := by
  unfold errXl at h; split at h
  · contradiction
  · simp at h; rw [h]

/-- ScalarLoadResults, the value awaited: LD from the core's memory, whose bytes are good. -/
theorem wit_load : let s := sMem.beforeLoad (Claims.scalarAddr sMem 6 0) 8
    sMem.ahead = false ∧ sMem.stuck true false = false ∧ s.me.s.length = 32 ∧ Claims.clean s [.s 6] ∧
    (Claims.scalarAddr sMem 6 0).toNat % 8 = 0 ∧
    okXl (s.access (s.ctx s.me) (Claims.scalarAddr sMem 6 0).toNat .r) (xlTcm 0x100) = true ∧ s.dataBad (xlTcm 0x100).pa = none := by
  unfold Claims.clean; decide +kernel

/-- ScalarLoadResults, the value not awaited. -/
theorem wit_load_ahead : let s := { sMem with ahead := true }
    s.ahead = true ∧ s.replayOf s.me = false ∧ Claims.clean s [.s 6] ∧ (Claims.scalarAddr s 6 0).toNat % 8 = 0 ∧
    okXl (s.access (s.ctx s.me) (Claims.scalarAddr s 6 0).toNat .r) (xlTcm 0x100) = true ∧ (xlTcm 0x100).index = false := by
  unfold Claims.clean; decide +kernel

/-- StoreEffects: the last byte of an aligned word of the core's memory. -/
theorem wit_store : let u := (sMem.fenceFirst (Claims.scalarAddr sMem 6 7) 1 false).beforeStore (storeTraps 8 6 (Claims.scalarAddr sMem 6 7) 1) (Claims.scalarAddr sMem 6 7)
    Claims.clean (sMem.fenceFirst (Claims.scalarAddr sMem 6 7) 1 false) [.s 6, .s 8] ∧ (Claims.scalarAddr sMem 6 7).toNat % 1 = 0 ∧ (xlTcm 0x107).pa % 1 = 0 ∧
    okXl (u.access (u.ctx u.me) (Claims.scalarAddr sMem 6 7).toNat .w) (xlTcm 0x107) = true ∧
    u.lostByte ((List.range 1).map (fun j => (xlTcm 0x107).pa + j)) = none := by unfold Claims.clean; decide +kernel

/-- s6 is one byte off the edge of what the hardware translates; s9 into a word of the core's memory that holds an error. -/
def sEdge : State :=
  { machine (withS flow0 [(6, 0x200000000000000), (9, 0x1FFFFFFFFFC0200)]) with bad := [tcmBase + 0x200] }

/-- ScalarAccessExceptions: ALIGN, a refused address, a word with an error; of a store, a byte of a lost granule. -/
theorem wit_access_exceptions : let va (r : BitVec 5) (o : BitVec 14) : Word := Claims.scalarAddr sEdge r o
    let l (r : BitVec 5) (o : BitVec 14) : State := sEdge.beforeLoad (va r o) 2
    let u := (sEdge.fenceFirst (va 6 0) 2 false).beforeStore (storeTraps 6 6 (va 6 0) 2) (va 6 0)
    sEdge.ahead = false ∧ sEdge.stuck true false = false ∧ Claims.clean (l 6 1) [.s 6] ∧ Claims.clean (l 9 0) [.s 9] ∧ Claims.clean sEdge [.s 6, .s 9] ∧
    (va 6 1).toNat % 2 ≠ 0 ∧ (va 6 0).toNat % 2 = 0 ∧ (va 9 0).toNat % 2 = 0 ∧
    errXl ((l 6 0).access ((l 6 0).ctx (l 6 0).me) (va 6 0).toNat .r) (6, 1) = true ∧
    errXl (u.access (u.ctx u.me) (va 6 0).toNat .w) (6, 1) = true ∧
    okXl ((l 9 0).access ((l 9 0).ctx (l 9 0).me) (va 9 0).toNat .r) (xlTcm 0x200) = true ∧
    ((l 9 0).dataBad (xlTcm 0x200).pa).isSome = true := by unfold Claims.clean; decide +kernel

theorem amo_may (cas : Bool) : Claims.amoMay sMem 5 6 7 true cas (xlTcm 0x100) := by
  have ok : ∀ u ∈ [Claims.amoFirst sMem 6 true, Claims.amoState sMem 5 6 7 true cas],
      okXl (u.translate (u.ctx u.me) (sMem.me.rd 6).toNat .r) (xlTcm 0x100) = true ∧
        okXl (u.access (u.ctx u.me) (sMem.me.rd 6).toNat .w) (xlTcm 0x100) = true := by cases cas <;> decide +kernel
  have read : ∀ u ∈ [Claims.amoFirst sMem 6 true, Claims.amoState sMem 5 6 7 true cas],
      Claims.clean u ((Claims.amoRegs 5 6 7 cas).map (fun r => .s r.toNat)) := by unfold Claims.clean; cases cas <;> decide +kernel
  exact ⟨by decide +kernel, by decide +kernel, fun u hu => ⟨read u hu, ⟨_, okXl_eq (ok u hu).1⟩, _, okXl_eq (ok u hu).2⟩,
    okXl_eq (ok _ (by simp)).2⟩

/-- AmoResults: AMOADD and AMOCAS of a word of the core's memory, with nothing under way; performed at once, and left for later. -/
theorem wit_amo : Claims.amoMay sMem 5 6 7 true false (xlTcm 0x100) ∧ Claims.amoMay sMem 5 6 7 true true (xlTcm 0x100) ∧ Claims.calm sMem ∧
    sMem.me.s.length = 32 ∧ (xlTcm 0x100).pa % 4 = 0 ∧ (xlTcm 0x100).key < 256 ∧ (xlTcm 0x100).index = false ∧
    (∀ k f, regionOf (xlTcm 0x100).pa ≠ .peer k f) ∧ (∀ b, ¬Claims.leafByte sMem (sMem.me.rd 6) (xlTcm 0x100) b) ∧
    ({ sMem with ahead := true } : State).replayOf sMem.me = false := by
  have hg : regionOf (xlTcm 0x100).pa = .tcm 0 0x100 := by decide +kernel
  have ht : sMem.tlbHit (sMem.ctx sMem.me) (sMem.me.rd 6).toNat = none := by decide +kernel
  refine ⟨amo_may false, amo_may true, by unfold Claims.calm; decide +kernel, by decide +kernel, by decide +kernel, by decide +kernel, by decide +kernel,
    fun k f => by rw [hg]; simp, ?_, by decide +kernel⟩
  rintro b (⟨h, -⟩ | ⟨e, h, -⟩)
  · exact absurd h (by decide)
  · rw [ht] at h; cases h

theorem wit_amo_now : Claims.amoNow sMem 5 6 7 3 true false ∧ Claims.amoFirst sMem 6 true = sMem := by
  refine ⟨⟨by decide +kernel, by decide +kernel, fun u hu y h => ?_, by decide +kernel⟩, by decide +kernel⟩
  have ok : ∀ u ∈ [Claims.amoFirst sMem 6 true, Claims.amoState sMem 5 6 7 true false],
      okXl (u.access (u.ctx u.me) (sMem.me.rd 6).toNat .r) (xlTcm 0x100) = true ∧ u.dataBad (xlTcm 0x100).pa = none := by decide +kernel
  rw [okXl_eq (ok u hu).1] at h
  cases h; exact .inr (ok u hu).2

/-- A flow whose open convoy holds a load, under way in VQ. -/
def fVq : Flow := { flow0 with vq := [⟨true, false, true, false, 32, 1, 8, 1, 0, 0, none, none⟩] }

/-- FenceCompletes: one that waits for commands, one that waits for vector words, both kinds that do not, one in replay mode, and one
whose store is still in the strip buffer. -/
theorem wit_fence : s0.me.eq = [] ∧ Claims.calm s0 ∧ s0.me.fences = [] ∧ (0b10100 : BitVec 5).getLsbD 4 = true ∧
    (0b00100 : BitVec 5).getLsbD 4 = false ∧ s0.me.vqHolds 0b10100 = false ∧ fVq.vqHolds 0b00001 = true ∧
    ({ s0 with me := { s0.me with eq := [⟨.row 0 0 [], s0.ctx s0.me, 0⟩] } } : State).me.eq ≠ [] ∧
    ({ s0 with tenants := s0.tenants.modify 1 (fun t => { t with replay := true }) } : State).replayOf s0.me = true ∧ s0.replayOf s0.me = false ∧
    (let f := { flow0 with sb := [⟨false, 0, 0, tcmBase, 0, 0xFF, 0, 0, 0, false, false, 0, 0, false, none⟩], seq := 1 }
     (machine f).fenceWaits f ⟨1, false, true, false, true, false, 4⟩ = true) := by unfold Claims.calm; decide +kernel

/-- CsrForms: reads and writes of VTYPE and TVEC in supervisor mode, and every refusal, in user mode where it needs that. -/
theorem wit_csr : let u : State := machine { flow0 with status3 := 0 }
    (0x001, fun s : State => s.me.vtype) ∈ Claims.csrTable ∧
    Claims.supervisor s0 ∧ Claims.csrSettled s0 0x020 ∧ Claims.csrSettled s0 0x001 ∧ Claims.clean s0 [.s 6] ∧ Claims.csrMayWrite s0 0x001 0x0F02 ∧
    Claims.csrMayWrite s0 0x064 0 ∧ (∀ p ∈ Claims.csrTable, p.1 ≠ 0x005) ∧ ¬Claims.supervisor u ∧ ¬Claims.classSup 0x001 ∧
    Claims.classSup 0x060 ∧ Claims.classRs 0x000 ∧ (∃ p ∈ Claims.csrTable, p.1 = 0x010 ∧ ¬Claims.classSup p.1 ∧ ¬Claims.classRs p.1 ∧ ¬Claims.classRw p.1) ∧
    Claims.vtypeReserved ((sBin 28 0).me.rd 6) ∧ Claims.clean (sBin 28 0) [.s 6] ∧ ¬Claims.csrSettled (machine fVq) 0x000 := by
  refine ⟨by simp [Claims.csrTable], ?_, ?_, ?_, ?_, ?_, ?_, by simp [Claims.csrTable], ?_, ?_, ?_, ?_, ?_, ?_, ?_, ?_⟩
  all_goals first
    | (unfold Claims.supervisor; decide +kernel)
    | (unfold Claims.csrSettled; decide +kernel)
    | (unfold Claims.clean; decide +kernel)
    | (unfold Claims.csrMayWrite Claims.supervisor Claims.classSup Claims.classRs Claims.classRw Claims.vtypeReserved; decide +kernel)
    | (unfold Claims.classSup; decide)
    | (unfold Claims.classRs; decide)
    | (unfold Claims.vtypeReserved; decide +kernel)
    | exact ⟨(0x010, fun s => BitVec.ofNat 64 s.me.loc.fid), by simp [Claims.csrTable], rfl, by simp [Claims.classSup], by simp [Claims.classRs], by simp [Claims.classRw]⟩

/-- SysAndBrkEnterTheHandler, TrapsAndTheirReturn: a handled trap, an unhandled one with the tenant's record free and
one with it taken, ERET in both modes. -/
theorem wit_traps : Claims.handled (sHandler flow0) ∧ (alignT 0).cause ≠ 7 ∧ ¬Claims.handled s0 ∧ s0.me.tenant < s0.tenants.length ∧
    (s0.ten s0.me.tenant).ucause.getLsbD 63 = false ∧
    (let s := { s0 with tenants := s0.tenants.modify 1 (fun t => { t with ucause := 0x8000000000000005 }) }
     ¬Claims.handled s ∧ (s.ten s.me.tenant).ucause.getLsbD 63 = true) ∧
    Claims.supervisor s0 ∧ ¬Claims.supervisor (machine { flow0 with status3 := 0 }) := by
  unfold Claims.handled Claims.supervisor; decide +kernel

/-- WfeCompletesOrWaits: each of its three cases, the last in replay mode. -/
theorem wit_wfe : Claims.mayGo s0 ∧ s0.me.events = [] ∧ s0.me.preq = false ∧ ({ flow0 with preq := true } : Flow).preq = true ∧
    ¬Claims.mayGo { s0 with tenants := s0.tenants.modify 1 (fun t => { t with replay := true }) } := by unfold Claims.mayGo; decide +kernel

/-- A flow at the word 0x01298E00, ADD s5, s6, s7, in the core's memory, whose turn it is; and at four zero bytes. -/
def sWord : State := { withTcm s0 0 [0x00, 0x8E, 0x29, 0x01] with sched := [.flow ⟨1, 0⟩] }

/-- The addresses of four bytes of the core's memory. -/
def okXls (r : Except XErr (List Xl)) (xs : List Xl) : Bool :=
  match r with
  | .ok y => y == xs
  | .error _ => false

theorem okXls_eq {r : Except XErr (List Xl)} {xs : List Xl} (h : okXls r xs = true) : r = .ok xs := by
  unfold okXls at h; split at h
  · simp at h; rw [h]
  · contradiction

/-- StepRunsTheDecodedWord: that word nothing holds back; a source that is busy holds it, or a load ahead without its value. -/
theorem wit_step_ahead : let f := { flow0 with busy := [(6, 1)] }
    Claims.mayIssue sWord (.add 5 6 7) ∧ Claims.nothingAhead sWord ∧ ¬Claims.mayIssue (machine f) (.add 5 6 7) ∧
    ¬Claims.nothingAhead { sWord with ckpts := [⟨0, flow0, none, [], 1, 0, 0⟩] } := by
  unfold Claims.mayIssue Claims.nothingAhead
  refine ⟨⟨?_, by decide +kernel, ?_⟩, ?_, ?_, ?_⟩
  · exact fun r _ => ⟨fun p hp => absurd (hp : p ∈ ([] : List (Nat × Word))) List.not_mem_nil, fun hr => absurd (hr : r ∈ ([] : List Nat)) List.not_mem_nil⟩
  · intro h
    exact absurd h (by decide +kernel)
  · intro p hp
    exact absurd (hp : p ∈ ([] : List Defer)) List.not_mem_nil
  · intro h
    exact absurd rfl ((h.1 6 (by decide +kernel)).1 (6, 1) (by decide +kernel))
  · intro h
    exact absurd rfl (h _ (List.mem_singleton.2 rfl))

/-- StepRunsTheDecodedWord: a word that decodes, and one that does not; no tenant is in replay mode. -/
theorem wit_step : let s := { sWord with sched := [] }
    Claims.atWord sWord s ∧ Claims.fetches s [0x00, 0x8E, 0x29, 0x01] ∧ decodeTableWord 32 0x01298E00 = some (.add 5 6 7) ∧
    (let z : State := { sWord with mem := [] }
     Claims.atWord z { z with sched := [] } ∧ Claims.fetches { z with sched := [] } [0, 0, 0, 0]) ∧
    (List.range 17).all (fun u => (s.ten u).replay == false) = true := by
  refine ⟨?_, ⟨?_, [xlTcm 0, xlTcm 1, xlTcm 2, xlTcm 3], okXls_eq ?_, ?_, ?_⟩, ?_, ⟨?_, ⟨?_, [xlTcm 0, xlTcm 1, xlTcm 2, xlTcm 3], okXls_eq ?_, ?_, ?_⟩⟩, ?_⟩
  all_goals first
    | (unfold Claims.atWord; decide +kernel)
    | decide +kernel

/-- EncodeThenDecode, DecodedIsWellFormed: a word of three fields. -/
theorem wit_encode : (Instr.vadd true 47 46 45 11).wf = true ∧ (encodeNat (.vadd true 47 46 45 11)).isSome = true := by decide +kernel

/-- StepKeepsMemoryCanonical, StepKeepsFlowShape: a machine at a word, with a byte listed, which takes a next state. -/
theorem wit_invariants : sWord.memWf ∧ Claims.shapes sWord ∧ (match step sWord with | .next _ => true | _ => false) = true := by
  refine ⟨by unfold State.memWf; decide +kernel, ?_, by decide +kernel⟩
  unfold Claims.shapes Claims.shape; decide +kernel

/-- A vector machine with VTYPE set. -/
def sTy (vt : Word) : State := machine { sVec.me with vtype := vt }

/-- A register with an uncorrectable error. -/
def sBadV : State := machine { sVec.me with bad := [.v 5] }

/-- ConvoysAndVectorExceptions: CONVOY, TYPE (VAND under f32), GROUP (v5 under g2), a bad register. -/
theorem wit_vector_exceptions : sVec.me.convoyBad false [.a] = true ∧
    (sTy 0x0F00).me.convoyBad true [.a] = false ∧ ¬Claims.tyI (sTy 0x0F00).me.fmtc ∧
    (sTy 0x0F60).me.convoyBad true [.a] = false ∧ Claims.tyI (sTy 0x0F60).me.fmtc ∧ (∃ v ∈ [(4 : BitVec 6), 5, 6], v.toNat % (sTy 0x0F60).me.grp ≠ 0) ∧
    sBadV.me.convoyBad true [.a] = false ∧ Claims.tyN sBadV.me.fmtc ∧ (∀ v ∈ [(6 : BitVec 6), 5, 4], v.toNat % sBadV.me.grp = 0) ∧ sBadV.me.vl ≠ 0 ∧
    (Claims.vrefs sBadV 5 ++ Claims.vrefs sBadV 4 ++ Claims.mrefs 15).find? (fun r => decide (r ∈ sBadV.me.bad)) = some (.v 5) := by
  unfold Claims.tyI Claims.tyN Claims.vrefs Claims.mrefs; decide +kernel

/-- A machine under e2m1:e8 whose scales v47 holds, and the same under f32. -/
def sE8 : State := machine { (sTy 0x0F14).me with svp := 64 + 47 }
def sF32 : State := machine { (sTy 0x0F00).me with svp := 64 + 47 }

/-- ElementwiseResults, MaskAndScalarResults, PermutationResults, ScanFoldAndRankResults: a vector word of every pipe may run under i32 and
f32, masked and not; a destination that may also be read; MPOP, MFIRST and mask logic; VMERGE and permutations under e2m1:e8 with SVP's register. -/
theorem wit_vector_words :
    Claims.vecMay sVec true [.a] Claims.tyN [47, 5, 4] (Claims.vrefs sVec 5 ++ Claims.vrefs sVec 4 ++ Claims.mrefs 11) ∧
    Claims.vecMay sVec true [.a] Claims.tyI [5, 5, 5] (Claims.vrefs sVec 5 ++ Claims.vrefs sVec 5 ++ Claims.vrefs sVec 5 ++ Claims.mrefs 15) ∧
    Claims.vecMay (sTy 0x0F00) true [.a] Claims.tyF [6, 5] (Claims.vrefs (sTy 0x0F00) 5 ++ Claims.mrefs 0) ∧
    Claims.vecMay sVec true [.p] Claims.tyAny [] [.m 11, .m 0] ∧ Claims.vecMay sVec true [.p] Claims.tyI [6] (.m 11 :: Claims.mrefs 15) ∧
    Claims.vecMay sE8 true [.a] Claims.tyD [6, 5, 4] (Claims.vrefs sE8 5 ++ Claims.vrefs sE8 4 ++ Claims.mrefs 2) ∧ Claims.svpOk sE8 sE8.me.fmtc ∧
    Claims.permMay sE8 true [6, 5, 4] (Claims.vrefs sE8 5 ++ Claims.vrefs sE8 4 ++ [.s 7] ++ Claims.mrefs 2) ∧
    Claims.vecMay (sTy 0x0F60) true [.a] Claims.tyN [44, 40]
      ((List.range 4).map (fun k => RegRef.v (44 + k)) ++ (List.range 4).map (fun k => RegRef.v (40 + k)) ++ Claims.mrefs 15) ∧
    44 + 2 * (sTy 0x0F60).me.grp ≤ 48 := by
  and_intros <;> (try unfold Claims.permMay) <;> (try unfold Claims.vecMay) <;> (try unfold Claims.tyN) <;> (try unfold Claims.tyI) <;>
    (try unfold Claims.tyF) <;> (try unfold Claims.tyD) <;> (try unfold Claims.tyAny) <;> (try unfold Claims.svpOk) <;>
    (try unfold Claims.clean) <;> (try unfold Claims.vrefs) <;> (try unfold Claims.mrefs) <;> decide +kernel

/-- What the clauses on a result ask for: the group at d exists and has room for VL elements, no carried group, VL ≤ VLMAX. -/
theorem wit_room : Claims.room sVec.me 47 sVec.me.grp sVec.me.ew ∧ sVec.me.vl ≠ 0 ∧ sVec.me.isCarried 47 sVec.me.grp = false ∧ (11 : Nat) < sVec.me.m.length ∧
    sVec.me.vlN ≤ 32768 ∧
    (let f := { sVec.me with loop := some ⟨4, 0, false, 1, [(6, 0)], 1⟩ }
     f.isCarried 6 f.grp = true ∧ f.vlmaxNow * f.ew ≤ f.grp * f.view.2 ∧ Claims.room f 6 f.grp f.ew) := by
  unfold Claims.room; decide +kernel

/-- ArithmeticOfFormats: i8 codes at both ends, with SAT and without; a finite code of e4m3; the mantissa of 3.0. -/
theorem wit_formats : Claims.tyI (sTy 0x0F0A).me.fmtc ∧ efmt (sTy 0x0F0A).me.fmtc = .int 8 true ∧ 255 < 2 ^ 8 ∧ (sTy 0x0F0A).me.sat = false ∧
    (sTy 0x8F0A).me.sat = true ∧ Claims.tyI (sTy 0x8F0A).me.fmtc ∧
    (∃ f, efmt 4 = .flt f ∧ 0x7E < 2 ^ (1 + f.eb + f.mb) ∧ ∃ n m e st, f.val (0x7E * 2 ^ f.low) = .fin n m e st) ∧ (3 : Nat) ≠ 0 := by
  refine ⟨by unfold Claims.tyI; decide +kernel, by decide +kernel, by decide, by decide +kernel, by decide +kernel, by unfold Claims.tyI; decide +kernel, ?_, by decide⟩
  exact ⟨e4m3F, rfl, by decide, false, 14, 5, false, by decide +kernel⟩

/-- ConversionResults: f32 to bf16 may not VCVT but may VNARROW; e2m1:e8 to f32 by VDEQ; f32 to e2m1:e8 by VQUANT. -/
theorem wit_conversions :
    fwidth 0 ≠ (sTy 0x0F02).me.ew ∧ (sTy 0x0F02).me.ew < fwidth 0 ∧ Claims.srcOk (sTy 0x0F02) 6 (fwidth 0) ∧
    Claims.vecMay (sTy 0x0F02) true [.a] Claims.tyN [8] (Claims.srefs (sTy 0x0F02) 6 (fwidth 0) ++ Claims.mrefs 15) ∧ (sTy 0x0F02).me.convoyBad true [.a] = false ∧
    Claims.tyN (sTy 0x0F02).me.fmtc ∧ (8 : BitVec 6).toNat % (sTy 0x0F02).me.grp = 0 ∧
    fwidth 5 < (sTy 0x0F02).me.ew ∧ fwidth 3 = (sTy 0x0F02).me.ew ∧ Claims.srcOk (sTy 0x0F02) 6 (fwidth 3) ∧ Claims.srcOk (sTy 0x0F02) 6 (fwidth 5) ∧
    Claims.srcOk sF32 6 (fwidth 20) ∧ Claims.svpOk sF32 20 ∧
    Claims.vecMay sF32 true [.a] Claims.tyN [8] (Claims.srefs sF32 6 (fwidth 20) ++ Claims.mrefs 15 ++ [.v 47]) ∧
    Claims.srcOk sE8 8 (fwidth 0) ∧ Claims.svpOk sE8 sE8.me.fmtc ∧ (sE8.me.svp.toNat % 64 < (1 : BitVec 6).toNat ∨ (1 : BitVec 6).toNat + sE8.me.grp ≤ sE8.me.svp.toNat % 64) ∧
    Claims.vecMay sE8 true [.a] Claims.tyS [1] (Claims.srefs sE8 8 (fwidth 0)) ∧ sE8.me.fmtc ≠ 14 ∧ sE8.me.vl ≠ 0 ∧ sE8.me.v.length = 48 ∧
    sE8.me.view.1 + sE8.me.view.2 ≤ 16384 ∧ sE8.me.vlN * 4 ≤ 8 * sE8.me.view.2 := by
  and_intros <;> (try unfold Claims.srcOk) <;> (try unfold Claims.vecMay) <;> (try unfold Claims.tyN) <;> (try unfold Claims.tyS) <;>
    (try unfold Claims.svpOk) <;> (try unfold Claims.clean) <;> (try unfold Claims.srefs) <;> (try unfold Claims.mrefs) <;> decide +kernel

def sLane : State := machine (withS sVec.me [(7, 1)])

/-- PermutationResults: VXLANE with the flow itself and with another. -/
theorem wit_vxlane :
    Claims.permMay sLane true [6, 5] (Claims.vrefs sLane 5 ++ [.s (s5 7).toNat]) ∧ (sLane.me.rd (s5 7)).toNat % 4096 ≠ sLane.me.key.lflow ∧
    Claims.permMay sLane true [6, 5] (Claims.vrefs sLane 5 ++ [.s (s5 0).toNat]) ∧ (sLane.me.rd (s5 0)).toNat % 4096 = sLane.me.key.lflow ∧ sLane.me.par = false := by
  and_intros <;> (try unfold Claims.permMay) <;> (try unfold Claims.vecMay) <;> (try unfold Claims.tyD) <;> (try unfold Claims.svpOk) <;>
    (try unfold Claims.clean) <;> (try unfold Claims.vrefs) <;> decide +kernel

/-- A tenant without a lane group. -/
def sNoLanes : State := { sVec with tenants := sVec.tenants.modify 1 (fun t => { t with part := List.replicate 256 0 }) }

/-- GrantsAndVectorConfiguration: a request of 0, one of 100, one with no lane group to be had; SETVT of bf16. -/
theorem wit_setvl : let s := machine (withS sVec.me [(6, 100)])
    s.me.convoyBad true [] = false ∧ Claims.clean s [.s 6] ∧ s.me.loop = none ∧ s.energyDue = false ∧ s.me.preemptible = false ∧
    s.me.s.length = 32 ∧ (s.me.rd 0).toNat = 0 ∧ (s.me.rd 6).toNat ≠ 0 ∧ s.grantCap s.me ≠ 0 ∧
    (let t := { sNoLanes with me := s.me }
     t.me.convoyBad true [] = false ∧ t.energyDue = false ∧ t.me.preemptible = false ∧ t.grantCap t.me = 0) ∧
    s.me.convoyBad true [.p] = false ∧ s.me.vq.length < 32 ∧ ¬Claims.vtypeReserved ((0x0F02 : BitVec 16).setWidth 64) ∧ Claims.clean s [.s 6] := by
  refine ⟨by decide +kernel, by unfold Claims.clean; decide +kernel, by decide +kernel, by decide +kernel, by decide +kernel, by decide +kernel,
    by decide +kernel, by decide +kernel, by decide +kernel, by decide +kernel, by decide +kernel, by decide +kernel,
    by unfold Claims.vtypeReserved; decide +kernel, by unfold Claims.clean; decide +kernel⟩

/-- Four i32 elements in the core's memory from offset 0x100 on, whose address s6 holds; s7 holds a stride of 8. -/
def sVmem : State :=
  withTcm (machine (withS sVec.me [(6, 0x1FFFFFFFFFC0100), (7, 8), (8, 0x1FFFFFFFFFFFFF8)])) 0x100 [1, 0, 0, 0, 2, 0, 0, 0, 3, 0, 0, 0, 4]

/-- The bytes of the core's memory from offset o on. -/
def xlsTcm (o n : Nat) : List Xl := (List.range n).map (fun i => xlTcm (o + i))

theorem aligned_some {s : State} {w : Nat} {b x : Word} (h : b.toNat % (w / 8) = 0) (k : x.toNat % (w / 8) = 0) :
    Claims.vecAligned s w b (some x) := .inr (.inr ⟨h, fun y e => by rw [← Option.some.inj e]; exact k⟩)
theorem aligned_none {s : State} {w : Nat} {b : Word} (h : b.toNat % (w / 8) = 0) : Claims.vecAligned s w b none :=
  .inr (.inr ⟨h, fun _ e => by simp at e⟩)

/-- VectorLoadResults: the word may run, its base and stride aligned. -/
theorem wit_vector_loads :
    Claims.vecMay sVmem true [.l] Claims.tyD [12] ([.s 6, .s 7] ++ Claims.mrefs 15) ∧ Claims.svpOkMem sVmem ∧
    Claims.vecAligned sVmem sVmem.me.ew (sVmem.me.rd 6) (some (sVmem.me.rd 7)) ∧ Claims.vecAligned sVmem sVmem.me.ew (sVmem.me.rd 6) none := by
  refine ⟨?_, ?_, aligned_some (by decide +kernel) (by decide +kernel), aligned_none (by decide +kernel)⟩
  · unfold Claims.vecMay Claims.tyD Claims.clean Claims.mrefs; decide +kernel
  · unfold Claims.svpOkMem; decide +kernel

/-- Nothing of a machine's one flow has issued without its value. -/
theorem nothingAhead_of {s : State} (h : s.ckpts = []) : Claims.nothingAhead s := by
  unfold Claims.nothingAhead; rw [h]; simp

theorem wit_reads_now : Claims.readsNow sVmem := ⟨by decide +kernel, by decide +kernel, nothingAhead_of rfl⟩

/-- What a flow reads at a bit address, from one evaluation of its bytes. -/
theorem readsBits_of {s : State} {f : Flow} {ba w x o n : Nat}
    (h : okXls (s.accessBytes (s.ctx f) (ba / 8) .r ((ba % 8 + w + 7) / 8)) (xlsTcm o n) = true ∧ s.badOf (xlsTcm o n) = none ∧
      x = natLE (s.readXls f (xlsTcm o n)) / 2 ^ (ba % 8) % 2 ^ w) : Claims.readsBitsBy s f ba w x :=
  ⟨_, okXls_eq h.1, h.2.1, h.2.2⟩

/-- The state in which a unit-stride load at s6 reads. -/
def sNear : State := Claims.inReach sVmem (plainRead (.unit (sVmem.me.rd 6).toNat 0)) 15

/-- VectorLoadResults: the flow reads element i of the four, value i + 1, at unit stride. -/
theorem wit_reads : Claims.readsAll sNear 15 (Claims.unitBit (sVmem.me.rd 6).toNat 0 32) 32 (fun i => i + 1) := by
  have key : sNear.me.vlN = 4 ∧ ∀ i, i < 4 → okXls (sNear.accessBytes (sNear.ctx sNear.me)
      (Claims.unitBit (sVmem.me.rd 6).toNat 0 32 i / 8) .r ((Claims.unitBit (sVmem.me.rd 6).toNat 0 32 i % 8 + 32 + 7) / 8)) (xlsTcm (0x100 + 4 * i) 4) = true ∧
      sNear.badOf (xlsTcm (0x100 + 4 * i) 4) = none ∧
      i + 1 = natLE (sNear.readXls sNear.me (xlsTcm (0x100 + 4 * i) 4)) / 2 ^ (Claims.unitBit (sVmem.me.rd 6).toNat 0 32 i % 8) % 2 ^ 32 := by
    decide +kernel
  intro i _ hi _; exact readsBits_of (key.2 i (key.1 ▸ hi))

/-- The same load, its values left for later. -/
def sLater : State := { sVmem with ahead := true }

theorem wit_reads_later : sLater.ahead = true ∧ sLater.stuck true false = false ∧ sLater.replayOf sLater.me = false ∧
    Claims.readsAll sLater 15 (Claims.unitBit (sVmem.me.rd 6).toNat 0 32) 32 (fun i => i + 1) ∧
    (∃ j, Claims.startAt sLater.me ≤ j ∧ j < sLater.me.vlN ∧ Claims.chosen sLater 15 j = true) ∧
    ∀ j y, Claims.startAt sLater.me ≤ j → j < sLater.me.vlN → Claims.chosen sLater 15 j = true →
      ∀ k, k < spanBytes (Claims.unitBit (sVmem.me.rd 6).toNat 0 32 j) 32 →
        sLater.access (sLater.ctx sLater.me) (Claims.unitBit (sVmem.me.rd 6).toNat 0 32 j / 8 + k) .r = .ok y → y.index = false := by
  have key : sLater.me.vlN = 4 ∧ ∀ i, i < 4 → (okXls (sLater.accessBytes (sLater.ctx sLater.me)
      (Claims.unitBit (sVmem.me.rd 6).toNat 0 32 i / 8) .r ((Claims.unitBit (sVmem.me.rd 6).toNat 0 32 i % 8 + 32 + 7) / 8)) (xlsTcm (0x100 + 4 * i) 4) = true ∧
      sLater.badOf (xlsTcm (0x100 + 4 * i) 4) = none ∧
      i + 1 = natLE (sLater.readXls sLater.me (xlsTcm (0x100 + 4 * i) 4)) / 2 ^ (Claims.unitBit (sVmem.me.rd 6).toNat 0 32 i % 8) % 2 ^ 32) ∧
      spanBytes (Claims.unitBit (sVmem.me.rd 6).toNat 0 32 i) 32 = 4 ∧ ∀ k, k < 4 →
        okXl (sLater.access (sLater.ctx sLater.me) (Claims.unitBit (sVmem.me.rd 6).toNat 0 32 i / 8 + k) .r) (xlTcm (0x100 + 4 * i + k)) = true := by
    decide +kernel
  refine ⟨rfl, by decide +kernel, by decide +kernel, fun i _ hi _ => readsBits_of (key.2 i (key.1 ▸ hi)).1, ⟨0, by decide +kernel⟩, ?_⟩
  intro j y _ hj _ k hk h
  have q := key.2 j (key.1 ▸ hj)
  rw [q.2.1] at hk
  rw [okXl_eq (q.2.2 k hk)] at h
  cases h; rfl

/-- Four bytes at offset 0x100 and a scale byte at 0x110, f32 elements. -/
def sWide : State :=
  withTcm (withTcm (machine (withS (sTy 0x0F00).me [(6, 0x1FFFFFFFFFC0100), (7, 0x1FFFFFFFFFC0110)])) 0x100 [1, 2, 3, 4]) 0x110 [127]

/-- The states in which the plain and the scaled widening load read. -/
def sWideP : State := Claims.inReach sWide (widenRead (Claims.widenPlain 2) (sWide.me.rd 6).toNat none) 15
def sWideS : State := Claims.inReach sWide (widenRead (Claims.widenScaled 2) (sWide.me.rd 6).toNat (some (sWide.me.rd 7).toNat)) 15

/-- What is asked of such a state: codes 1 to 4 at s6, each in a byte of its own, and the scale byte at s7. -/
def wideReads (s : State) : Prop :=
  Claims.readsAll s 15 (Claims.unitBit (sWide.me.rd 6).toNat 0 8) 8 (fun i => i + 1) ∧
    Claims.readsAll s 15 (fun i => (8 * (sWide.me.rd 6).toNat + i * 8) / 8 * 8) 8 (fun i => i + 1) ∧
    Claims.readsAll s 15 (fun i => 8 * (((sWide.me.rd 7).toNat + i / 64) % 2 ^ 64)) 8 (fun _ => 127)

def reads8 (s : State) (ba x o : Nat) : Bool :=
  okXls (s.accessBytes (s.ctx s.me) (ba / 8) .r ((ba % 8 + 8 + 7) / 8)) (xlsTcm o 1) && s.badOf (xlsTcm o 1) == none &&
    x == natLE (s.readXls s.me (xlsTcm o 1)) / 2 ^ (ba % 8) % 2 ^ 8

theorem wideReads_of {s : State} (h4 : s.me.vlN = 4) (key : ((List.range 4).all (fun i =>
    reads8 s (Claims.unitBit (sWide.me.rd 6).toNat 0 8 i) (i + 1) (0x100 + i) &&
    reads8 s ((8 * (sWide.me.rd 6).toNat + i * 8) / 8 * 8) (i + 1) (0x100 + i) &&
    reads8 s (8 * (((sWide.me.rd 7).toNat + i / 64) % 2 ^ 64)) 127 0x110)) = true) : wideReads s := by
  have one {ba x o : Nat} (h : reads8 s ba x o = true) : Claims.readsBits s ba 8 x := by
    simp only [reads8, Bool.and_eq_true, beq_iff_eq] at h
    exact readsBits_of ⟨h.1.1, h.1.2, h.2⟩
  have k (i : Nat) (hi : i < s.me.vlN) := List.all_eq_true.1 key i (List.mem_range.2 (h4 ▸ hi))
  simp only [Bool.and_eq_true] at k
  exact ⟨fun i _ hi _ => one (k i hi).1.1, fun i _ hi _ => one (k i hi).1.2, fun i _ hi _ => one (k i hi).2⟩

/-- VectorLoadResults, the widening forms: e4m3 and e4m3:e8 codes at s6, scales at s7, with and without the matrix feed. -/
theorem wit_widening : Claims.vecMay sWide true [.l] Claims.tyN [12] ([.s 6] ++ Claims.mrefs 15) ∧
    Claims.vecMay sWide true [.l, .x] Claims.tyN [12] ([.s 6, .s 7] ++ Claims.mrefs 15) ∧ fwidth (Claims.widenPlain 2) < sWide.me.ew ∧
    fwidth (Claims.widenScaled 2) < sWide.me.ew ∧ sWide.me.fmtc ≤ 13 ∧ Claims.readsNow sWide ∧ wideReads sWideP ∧ wideReads sWideS := by
  refine ⟨?_, ?_, by decide +kernel, by decide +kernel, by decide +kernel, ⟨by decide +kernel, by decide +kernel, nothingAhead_of rfl⟩,
    wideReads_of (by decide +kernel) (by decide +kernel), wideReads_of (by decide +kernel) (by decide +kernel)⟩ <;>
  · unfold Claims.vecMay Claims.tyN Claims.clean Claims.mrefs; decide +kernel

/-- A range refused as e says. -/
def errXls (r : Except XErr (List Xl)) (e : XErr) : Bool :=
  match r with
  | .ok _ => false
  | .error d => d == e

theorem errXls_eq {r : Except XErr (List Xl)} {e : XErr} (h : errXls r e = true) : r = .error e := by
  unfold errXls at h; split at h
  · exact absurd h Bool.false_ne_true
  · rw [beq_iff_eq.1 h]

/-- s8 is 8 bytes below the end of the core's window: elements 0 and 1 can be read, element 2 cannot. -/
def sBrink : State := Claims.inReach sVmem (plainRead (.unit (sVmem.me.rd 8).toNat 0)) 15

theorem wit_vector_fault : let s := sBrink
    Claims.readsNow sVmem ∧ Claims.vecMay sVmem true [.l] Claims.tyD [12] (.s 8 :: Claims.mrefs 15) ∧ Claims.svpOkMem sVmem ∧
    Claims.vecAligned sVmem sVmem.me.ew (sVmem.me.rd 8) none ∧ Claims.startAt s.me ≤ 2 ∧ 2 < s.me.vlN ∧ Claims.chosen s 15 2 = true ∧
    (∀ i, Claims.startAt s.me ≤ i → i < 2 → Claims.chosen s 15 i = true → Claims.readsBits s (Claims.unitBit (sVmem.me.rd 8).toNat 0 32 i) 32 0) ∧
    s.accessBytes (s.ctx s.me) (Claims.unitBit (sVmem.me.rd 8).toNat 0 32 2 / 8) .r ((Claims.unitBit (sVmem.me.rd 8).toNat 0 32 2 % 8 + 32 + 7) / 8) =
      .error (6, 1) := by
  have key : ∀ i, i < 2 → okXls (sBrink.accessBytes (sBrink.ctx sBrink.me)
      (Claims.unitBit (sVmem.me.rd 8).toNat 0 32 i / 8) .r ((Claims.unitBit (sVmem.me.rd 8).toNat 0 32 i % 8 + 32 + 7) / 8)) (xlsTcm (0x3FFF8 + 4 * i) 4) = true ∧
      sBrink.badOf (xlsTcm (0x3FFF8 + 4 * i) 4) = none ∧
      0 = natLE (sBrink.readXls sBrink.me (xlsTcm (0x3FFF8 + 4 * i) 4)) / 2 ^ (Claims.unitBit (sVmem.me.rd 8).toNat 0 32 i % 8) % 2 ^ 32 := by
    decide +kernel
  refine ⟨wit_reads_now, ?_, ?_, aligned_none (by decide +kernel), by decide +kernel, by decide +kernel, by decide +kernel, ?_, ?_⟩
  · unfold Claims.vecMay Claims.tyD Claims.clean Claims.mrefs; decide +kernel
  · unfold Claims.svpOkMem; decide +kernel
  · intro i _ hi _; exact readsBits_of (key i hi)
  · exact errXls_eq (by decide +kernel)

/-- VectorStoreEffects: every address of the four elements can be written, outside a loop and inside one. -/
theorem wit_vector_stores :
    let u := sVmem.orDirtyAll (sVmem.ctx sVmem.me) (storeVas sVmem.me (.unit (sVmem.me.rd 6).toNat 0) 15 (Claims.startAt sVmem.me) sVmem.me.vlN)
    Claims.vecMay sVmem true [.s] Claims.tyD [5] (Claims.vrefs sVmem 5 ++ [.s 6] ++ [.s 7] ++ Claims.mrefs 15) ∧ sVmem.me.loop = none ∧
    Claims.svpOkMem sVmem ∧ Claims.vecAligned sVmem sVmem.me.ew (sVmem.me.rd 6) (some (sVmem.me.rd 7)) ∧
    Claims.writesAll sVmem 15 (Claims.stridedBit (sVmem.me.rd 6).toNat (sVmem.me.rd 7).toInt) 32 ∧
    Claims.writesAll sVmem 15 (Claims.unitBit (sVmem.me.rd 6).toNat 0 32) 32 ∧ u = sVmem ∧ (∀ a ∈ sVmem.me.ownStores, a.seq < sVmem.me.seq) ∧
    sVmem.me.v.length = 48 ∧ 5 + sVmem.me.grp ≤ 48 ∧ sVmem.me.vsqUsed + sVmem.me.vsqTakes ≤ 8 := by
  have key : ∀ i, i < 4 →
      okXls (sVmem.accessBytes (sVmem.ctx sVmem.me) (Claims.stridedBit (sVmem.me.rd 6).toNat (sVmem.me.rd 7).toInt i / 8) .w
        ((Claims.stridedBit (sVmem.me.rd 6).toNat (sVmem.me.rd 7).toInt i % 8 + 32 + 7) / 8)) (xlsTcm (0x100 + 8 * i) 4) = true ∧
      okXls (sVmem.accessBytes (sVmem.ctx sVmem.me) (Claims.unitBit (sVmem.me.rd 6).toNat 0 32 i / 8) .w
        ((Claims.unitBit (sVmem.me.rd 6).toNat 0 32 i % 8 + 32 + 7) / 8)) (xlsTcm (0x100 + 4 * i) 4) = true := by decide +kernel
  have h4 : sVmem.me.vlN = 4 := by decide +kernel
  refine ⟨?_, by decide +kernel, ?_, aligned_some (by decide +kernel) (by decide +kernel), ⟨.inl (by decide +kernel), ?_⟩,
    ⟨.inl (by decide +kernel), ?_⟩, if_pos (by decide +kernel), by decide +kernel, by decide +kernel, by decide +kernel, by decide +kernel⟩
  · unfold Claims.vecMay Claims.tyD Claims.clean Claims.vrefs Claims.mrefs; decide +kernel
  · unfold Claims.svpOkMem; decide +kernel
  · intro i _ hi _; exact ⟨_, okXls_eq (key i (by omega)).1⟩
  · intro i _ hi _; exact ⟨_, okXls_eq (key i (by omega)).2⟩

/-- A flow in a loop over S(4) elements, and one in a `.par` loop that carries the sum at v8. -/
def sLoop (n : Word) (par : Bool) (fr : List Frag) : State :=
  machine { (withS sVec.me [(4, n)]) with loop := some ⟨4, 0x1FFFFFFFFFC0004, par, 1, if par then [(8, 0)] else [], 1⟩, frags := fr, m := (flow0.m.set 1 0b0110).set 2 0b1111 }

/-- StripLoops: LOOPV with a grant and without, carried groups and none; ENDV with elements left and with none, BRKV with no position set
and with one, the ENDV word two words on; and the words that need a loop outside one. -/
theorem wit_loops : Claims.clean sVec [.s 4] ∧ sVec.me.loop = none ∧ sVec.energyDue = false ∧ sVec.me.preemptible = false ∧ sVec.grantCap sVec.me ≠ 0 ∧
    sVec.me.v.length = 48 ∧ sNoLanes.grantCap sNoLanes.me = 0 ∧ sNoLanes.energyDue = false ∧
    (let s := { sVec with launches := [{ launch1 with carry := 1 }] }
     s.grantCap s.me ≠ 0 ∧ s.carriedSet s.me ≠ [] ∧ s.energyDue = false) := by
  unfold Claims.clean; decide +kernel

theorem wit_endv : (sLoop 4 false []).me.frags = [] ∧ (sLoop 5 false []).me.s.length = 32 ∧ (sLoop 5 false []).me.vlN < ((sLoop 5 false []).me.rd 4).toNat ∧
    ((sLoop 4 true []).me.rd 4).toNat ≤ (sLoop 4 true []).me.vlN ∧ (sLoop 5 false []).energyDue = false ∧ (sLoop 5 false []).me.preemptible = false ∧
    Claims.clean (sLoop 5 false []) [.s 4] ∧ Claims.clean (sLoop 4 true []) [.s 4, .v 8] ∧ (sLoop 4 true []).me.granted ≠ 0 ∧
    (8 % (sLoop 4 true []).me.grp = 0 ∧ 8 + (sLoop 4 true []).me.grp ≤ 48) ∧ 0 < (sLoop 4 true []).me.vlmax1 := by
  unfold Claims.clean; decide +kernel

/-- BRKV, VBR: the vector words before them over, and one still in VQ. -/
theorem wit_drained : (sLoop 4 false []).me.vqDrained = true ∧ ({ (sLoop 4 false []).me with vq := fVq.vq } : Flow).vqDrained = false := by decide +kernel

/-- BRKV's ENDV word two words on, after one that is none. -/
def sBrk : State := withTcm (sLoop 4 false []) 4 [1, 0, 0, 0, 0xF0, 0, 0, 0x4F]

def okWord (r : Except Trap Nat) (w : Nat) : Bool :=
  match r with
  | .ok x => x == w
  | .error _ => false

theorem wit_breaks : Claims.clean sBrk (Claims.mrefs 1) ∧ Claims.places sBrk (Claims.chosen sBrk 1) = [1, 2] ∧
    Claims.places sBrk (Claims.chosen sBrk 0) = [] ∧
    okWord (sBrk.fetch sBrk.me (sBrk.me.pc + 4 + BitVec.ofNat 64 (4 * 0))) 1 = true ∧
    okWord (sBrk.fetch sBrk.me (sBrk.me.pc + 4 + BitVec.ofNat 64 (4 * 1))) 0x4F0000F0 = true ∧ Claims.clean sVec (Claims.mrefs 1) ∧ sVec.me.loop = none := by
  unfold Claims.clean Claims.mrefs; decide +kernel

/-- VectorBranches: some positions branch and some do not, all branch, the buffer is full; VJOIN at each kind of entry. -/
theorem wit_branches : let s := sLoop 4 false []
    Claims.clean s (Claims.mrefs 1) ∧ s.me.frags.length < 8 ∧ s.me.vlN ≤ 32768 ∧
    (1 < s.me.vlN ∧ Claims.active s.me 0 = true ∧ Claims.picks s.me 1 0 = false) ∧ Claims.picks s.me 1 1 = true ∧
    (∀ i, i < s.me.vlN → Claims.active s.me i = true → Claims.picks s.me 2 i = true) ∧ 8 ≤ (sLoop 4 false (List.replicate 8 (.join 0))).me.frags.length ∧
    (sLoop 4 false [.parked 6 0]).me.frags = .parked 6 0 :: [] ∧ (sLoop 4 false [.join 6]).me.frags = .join 6 :: [] := by
  unfold Claims.clean Claims.mrefs; decide +kernel

/-- A layout of one dimension of 4 bytes in v7; source, destination and completion word in s10, s12, s13. -/
def sCopy : State :=
  machine (withV { (withS flow0 [(10, 0x1000), (12, 0x2000), (13, 0x2000), (11, 0x1FFFFFFFFFC0100), (14, 5)]) with vl := 1 } 64 [(7, [4])])

def sFaulted : State := machine { sCopy.me with ctags := sCopy.me.ctags.set 3 (.faulted 6 0x1000) }

/-- CopyCommandsJoinTheQueue: STREAM, SWALK and SCOW with a Free tag; a tag with a recorded fault. -/
theorem wit_copy_commands : Claims.compOk (sCopy.me.rd 13) ∧ sCopy.me.eq.length < 16 ∧
    Claims.clean sCopy [.s 10, .s 12, .s 13, .v 7] ∧ 1 ≤ sCopy.me.vlN ∧ sCopy.me.vlN ≤ 6 ∧ Claims.dimOf sCopy 7 0 / 2 ^ 24 = 0 ∧
    ((List.range sCopy.me.vlN).map (Claims.extOf sCopy 7)).foldl (fun p e => p * e) 1 = 4 ∧
    (∀ i, i < 4 → ¬Claims.barred (srcAddr [4] [] (sCopy.me.rd 10).toNat i) ∧ ¬Claims.barred (((sCopy.me.rd 12).toNat + i) % 2 ^ 64)) ∧
    (∀ i, i < 8 → ¬Claims.barred ((sCopy.me.rd 12).toNat + i)) ∧ ¬Claims.barred (sCopy.me.rd 12).toNat ∧
    sFaulted.me.ctags.getD 3 .free = .faulted 6 0x1000 ∧ sCopy.me.vqDrained = true ∧ ({ sCopy.me with vq := fVq.vq } : Flow).vqDrained = false := by
  unfold Claims.compOk Claims.clean Claims.barred; decide +kernel

theorem wit_tag_open : Claims.tagOpen sCopy 3 := by
  intro sub e
  have h : sCopy.me.ctags.getD (3 : BitVec 4).toNat .free = .free := by decide +kernel
  rw [h]; simp

/-- A landed entry of v5's group with elements 7 and 8. -/
def landed0 : Landing := ⟨5, 1, 32, 2, 3, 3, [(0, 7), (1, 8)], false, none, true⟩

/-- TransfersLandAndCommit: STREAM of one i32 from the core's memory under a Free tag; COMMIT of a tag in each state. -/
theorem wit_transfers : let s0 : State := { sVmem with me := { sVmem.me with vl := 1 } }
    let s := Claims.inReachAt s0 (plainRead (.unit (s0.me.rd 6).toNat 0)) (s0.me.act.toNat % 2 ^ s0.me.vlN)
    Claims.tyD s0.me.fmtc ∧ (5 : BitVec 6).toNat % s0.me.grp = 0 ∧ Claims.clean s0 [.s 6] ∧ Claims.svpOkMem s0 ∧
    (s0.me.rd 6).toNat % (s0.me.ew / 8) = 0 ∧ Claims.tagFree s0 2 ∧ s0.me.eq = [] ∧ s0.stuck true false = false ∧ Claims.nothingAhead s0 ∧
    ∀ i, Claims.startAt s0.me ≤ i → i < s0.me.vlN → Claims.active s0.me i = true →
      Claims.readsBits s (Claims.unitBit (s0.me.rd 6).toNat 0 32 i) 32 1 := by
  refine ⟨by unfold Claims.tyD; decide +kernel, by decide +kernel, by unfold Claims.clean; decide +kernel, by unfold Claims.svpOkMem; decide +kernel,
    by decide +kernel, by unfold Claims.tagFree; decide +kernel, by decide +kernel, by decide +kernel, nothingAhead_of rfl, ?_⟩
  intro i _ hi _
  have h1 : ({ sVmem.me with vl := 1 } : Flow).vlN = 1 := by decide +kernel
  have hi : i = 0 := by have := h1 ▸ hi; omega
  subst hi
  exact readsBits_of (o := 0x100) (n := 4) (by decide +kernel)

theorem wit_commit : let t (x : TagSt) : Flow := { sVmem.me with tags := sVmem.me.tags.set 2 x }
    Claims.clean (machine (t .free)) [.land 2] ∧ (t .free).eq = [] ∧ (t .free).tags.getD 2 .free = .free ∧ (t .lost).tags.getD 2 .free = .lost ∧
    (t (.pending landed0)).tags.getD 2 .free = .pending landed0 ∧ (t (.landed landed0)).tags.getD 2 .free = .landed landed0 ∧ landed0.width ≠ 0 ∧
    sVmem.me.v.length = 48 ∧ landed0.dst + landed0.grp ≤ 48 ∧ sVmem.me.view.1 + sVmem.me.view.2 ≤ 16384 ∧
    sVmem.me.vlN * landed0.width ≤ sVmem.me.view.2 * landed0.grp ∧ sVmem.me.isCarried landed0.dst landed0.grp = false := by
  unfold Claims.clean; decide +kernel

/-- SwaitCompletesFaultsOrWaits: the queue is empty; a tag of each state. -/
theorem wit_swait : Claims.engineMay s0 ∧ Claims.engineMay sFaulted ∧ s0.me.ctags.getD 3 .free = .free ∧
    (let f (x : CTagSt) : Flow := { s0.me with ctags := s0.me.ctags.set 3 x }
     (f .active).ctags.getD 3 .free = .active ∧ (f .released).ctags.getD 3 .free = .released ∧ (f .active).eq = [] ∧ (f .released).eq = []) ∧
    (let f := { s0.me with eq := [⟨.row 0 0 [], s0.ctx s0.me, 0⟩] }
     f.eq ≠ [] ∧ ∀ sub e, f.ctags.getD 3 .free ≠ .faulted sub e) := by
  refine ⟨by unfold Claims.engineMay Claims.queueOpen Claims.mayGo; decide +kernel, by unfold Claims.engineMay Claims.queueOpen Claims.mayGo; decide +kernel, by decide +kernel, by decide +kernel,
    by decide +kernel, fun sub e h => ?_⟩
  exact CTagSt.noConfusion ((rfl : CTagSt.free = ({ s0.me with eq := [⟨.row 0 0 [], s0.ctx s0.me, 0⟩] } : Flow).ctags.getD 3 .free).trans h)

/-- RecordsBarriersAndEnergy: with a record and without; EVPOST to a flow that is there and to none; BAR of a member and of none, in each of
its states; ENCHK. -/
def sBar (x : Option (Nat × Nat)) (n : Nat) : State :=
  { machine { flow0 with barInst := x } with launches := [{ launch1 with groups := [(3, 0)], barDone := [(3, n)] }] }

theorem wit_records : Claims.engineMay s0 ∧ s0.me.s.length = 32 ∧ s0.me.events = [] ∧
    ({ flow0 with events := [(7, 4)] } : Flow).events = (7, 4) :: [] ∧ Claims.clean s0 [.s 6, .s 7] ∧ Claims.calm s0 ∧
    (∃ f ∈ s0.flows, f.key = ⟨s0.me.key.launch, (s0.me.rd 0).toNat % 4096⟩) ∧
    (∀ f ∈ (sBin 0 1).flows, f.key ≠ ⟨s0.me.key.launch, ((sBin 0 1).me.rd 7).toNat % 4096⟩) ∧
    (s0.launch? s0.me.key.launch) = some launch1 ∧ (3, s0.me.key.lflow) ∉ launch1.groups ∧
    ((sBar none 0).launch? 1).isSome = true ∧ (∀ l ∈ (sBar none 0).launches, (3, 0) ∈ l.groups) ∧
    (sBar none 0).me.barInst = none ∧ Claims.engineMay (sBar none 0) ∧ (sBar (some (3, 0)) 1).me.barInst = some (3, 0) ∧
    (∀ l ∈ (sBar (some (3, 0)) 1).launches, 0 < aget l.barDone 3 0) ∧ (∀ l ∈ (sBar (some (3, 0)) 0).launches, aget l.barDone 3 0 ≤ 0) ∧
    s0.me.held = [] := by
  unfold Claims.engineMay Claims.queueOpen Claims.mayGo Claims.clean Claims.calm; decide +kernel

/-- A task template in the core's memory: pc 0x400, count n, one lane group, priority 0, the flow's own die. -/
def sTask (n : Byte) : State :=
  withTcm (machine (withS flow0 [(6, 0x1FFFFFFFFFC0100), (7, 9)])) 0x100
    [0, 4, 0, 0, 0, 0, 0, 0, n, 0, 0, 0, 1, 0, 0, 0xFF, 0, 0, 0, 0, 0, 0, 0, 0, 0, 0, 0, 0, 0, 0, 0, 0]

/-- The bytes a flow reads of a range. -/
def okRange (r : Except Trap (List Byte × List Xl)) (bs : List Byte) : Bool :=
  match r with
  | .ok p => p.1 == bs
  | .error _ => false

/-- TaskWords: a template that R303 accepts, one that it does not (priority 4), a full die by its loss, and TDEC. -/
theorem wit_tasks : Claims.calm (sTask 2) ∧ Claims.clean (sTask 2) [.s 6, .s 7] ∧ ((sTask 2).me.rd 6).toNat % 8 = 0 ∧ Claims.engineMay (sTask 2) ∧
    Claims.templateOk (0x400 + 2 * 2 ^ 64 + 1 * 2 ^ 96 + 255 * 2 ^ 120) ∧ ¬Claims.templateOk (0x400 + 2 * 2 ^ 64 + 1 * 2 ^ 96 + 4 * 2 ^ 104 + 255 * 2 ^ 120) ∧
    ((sTask 2).tasks.filter (fun k => k.die == 0)).length < 16384 ∧ (sTask 2).dev.dieLost.getLsbD 0 = false ∧
    (let s := { sTask 2 with dev := { dev0 with dieLost := 2 } }
     Claims.engineMay s ∧ s.dev.dieLost.getLsbD (Claims.templateDie s (1 * 2 ^ 120)) = true) ∧
    (sTask 2).stuck true false = false ∧ (sTask 2).me.held = [] := by
  unfold Claims.calm Claims.clean Claims.engineMay Claims.queueOpen Claims.mayGo Claims.templateOk Claims.templateDie; decide +kernel

/-- What the flow reads there is that template. -/
theorem wit_template : let u := (sTask 2).reachRange ((sTask 2).me.rd 6).toNat 32
    okRange (u.readRange u.me ((sTask 2).me.rd 6).toNat 32)
      ([0, 4, 0, 0, 0, 0, 0, 0, 2, 0, 0, 0, 1, 0, 0, 0xFF] ++ List.replicate 16 0) = true ∧
    natLE ([0, 4, 0, 0, 0, 0, 0, 0, 2, 0, 0, 0, 1, 0, 0, 0xFF] ++ List.replicate 16 0) = 0x400 + 2 * 2 ^ 64 + 1 * 2 ^ 96 + 255 * 2 ^ 120 := by
  decide +kernel

/-- A device that accepted every feature. -/
def dev1 : Device := { dev0 with featAcc := [0xFFFF, 0, 0, 0] }

def featured (f : Flow) : State := { machine f with dev := dev1, launches := [{ launch1 with spmLen := 1 }] }

/-- A binding of a table of two entries, one held record of 64 bytes at 0x4000, written back or not. -/
def bind0 (wb : Bool) (chk : Option Nat) : Binding :=
  ⟨0x1000, 2, 1, [⟨0, 5, 0, 1, 0, 0, wb, 0x4000, 64, 0, false, false, 0, 0, 64, none, 0, false, false⟩], 1, [⟨0, 1, 0, 0x4000, 64, wb, false, []⟩], 0, 0,
    chk, false, [], false, false, s0.ctx s0.me⟩

def sTt (b : Option Binding) : State := featured { (withS flow0 [(6, 0x4000), (7, 64), (8, 0x2010)]) with tt := b }

/-- TimetableWords: with a binding and without, its check due and not; TTBIND of a good table, an unaligned one and none; a record that TIERFREE
frees, within and not within the range. -/
theorem wit_timetable : Claims.feature (sTt none) 3 ∧ Claims.clean (sTt none) [.s 6, .s 7] ∧ (sTt none).me.eq = [] ∧ (sTt none).me.s.length = 32 ∧
    Claims.mayGo (sTt none) ∧ Claims.mayGo (sTt (some (bind0 false none))) ∧ (sTt none).me.tt = none ∧
    (sTt none).me.rd 0 = 0 ∧ ((sTt none).me.rd 6).toNat % 32 = 0 ∧ 1 ≤ ((sTt none).me.rd 7).toNat ∧ ((sTt none).me.rd 7).toNat ≤ 65535 ∧
    (((sTt none).rest.filter (fun f => f.loc.clusterIdx == (sTt none).me.loc.clusterIdx)).filterMap (fun f => f.tt)).length < 16 ∧
    ((sTt none).me.rd 8).toNat % 32 ≠ 0 ∧ (sTt none).me.rd 8 ≠ 0 ∧ (bind0 false none).check = none ∧ Claims.calm (sTt (some (bind0 false none))) ∧
    (∀ r ∈ (bind0 false none).recs, Claims.recIn r 0x4000 64 = true ∧ r.wb = false) ∧ (∀ r ∈ (bind0 true none).recs, Claims.recIn r 0x4001 64 = false) := by
  unfold Claims.feature Claims.clean Claims.mayGo Claims.calm; decide +kernel

/-- The flow sends v5 as f32 to the row at 0x40 of cluster 0; s9 points into the launch's scratchpad, s10 to a replica table. -/
def sRow : State :=
  withTcm (featured { (withS (sTy 0x0F00).me [(6, 0x1FFFFFFFFFC0200), (7, 8), (8, 5), (9, 0x1FFFFFFFF800000), (10, 0x1FFFFFFFFFC0100)]) with
    log := ⟨0, [(0, 11, 22)], 1, false⟩ }) 0x100 ([4, 0, 0, 0, 0, 0, 0, 0, 0, 0, 0, 0, 0, 0, 0, 0, 5, 0, 0, 0, 0, 0, 0, 0x80])

def withSpm (s : State) (bs : List Byte) : State :=
  { s with mem := (List.range bs.length).foldl (fun m i => m.set (spmBase + i) (bs.getD i 0)) s.mem }

def xlSpm : Xl := ⟨spmBase, 0, 0, 0, 0, false, false⟩

/-- The arrival counter at s9's address, where that byte sequence of the scratchpad holds bs. -/
def counts (bs : List Byte) (p : Nat → Bool) : Bool :=
  let s := withSpm sRow bs
  match State.counterOf { s with me := { s.me with qGo := false } } (s.me.rd 9) with
  | some (u, y, c) => p c && y == xlSpm && u.dataBad y.pa == none
  | none => false

/-- RoutingWords: ROWSEND of a row, ROWACK with one refused row kept, ARRWAIT with its counter reached, short and stopped, REPLSEL of a bank. -/
theorem wit_routing : Claims.feature sRow 4 ∧ Claims.clean sRow [.s 6, .s 7] ∧ sRow.me.s.length = 32 ∧ sRow.me.fmtc = 0 ∧
    (5 : BitVec 6).toNat % sRow.me.grp = 0 ∧ Claims.clean sRow (Claims.vrefs sRow 5) ∧ (sRow.me.rd 7).toNat % 8 = 0 ∧
    (sRow.me.rd 7).toNat / 2 ^ 22 % 8 = 0 ∧ sRow.me.eq.length < 16 ∧ sRow.me.vqDrained = true ∧
    (sRow.me.rd 6).toNat % 8 = 0 ∧ sRow.me.eq = [] ∧ sRow.me.log.pending = 0 ∧ (∀ a ∈ sRow.me.ownStores, a.seq < sRow.me.seq) ∧
    sRow.dev.dieLost = 0 ∧ Claims.calm sRow ∧ sRow.stuck true false = false ∧
    (sRow.me.rd 9).toNat % 8 = 0 ∧ 0x1FFFFFFFF800000 ≤ (sRow.me.rd 9).toNat ∧ (sRow.me.rd 9).toNat + 8 ≤ 0x1FFFFFFFFC00000 ∧ Claims.engineMay sRow ∧
    okXl (sRow.access (sRow.ctx sRow.me) (sRow.me.rd 9).toNat .r) xlSpm = true ∧
    counts [] (fun c => c / 2 ^ 56 % 2 == 0 && decide (c % 2 ^ 32 < 5)) = true ∧ counts [5] (fun c => c / 2 ^ 56 % 2 == 0 && decide (5 ≤ c % 2 ^ 32)) = true ∧
    counts [5, 0, 0, 0, 0, 0, 0, 1] (fun c => c / 2 ^ 56 % 2 == 1) = true ∧ (sRow.me.rd 8).toNat % 2 ^ 32 = 5 := by
  unfold Claims.feature Claims.clean Claims.vrefs Claims.engineMay Claims.queueOpen Claims.mayGo Claims.calm; decide +kernel

theorem wit_rowack : let n := 16 * sRow.me.log.refs.length
    let u := sRow.orDirtyAll (sRow.ctx sRow.me) ((List.range n).map (fun i => ((sRow.me.rd 6).toNat + i) % 2 ^ 64))
    ∀ j, j < n → ∃ y, u.access (u.ctx u.me) (((sRow.me.rd 6).toNat + j) % 2 ^ 64) .w = .ok y := by
  intro n u j hj
  have hu : u = sRow := if_pos (by decide +kernel)
  have key : ∀ j, j < 16 → okXl (sRow.access (sRow.ctx sRow.me) (((sRow.me.rd 6).toNat + j) % 2 ^ 64) .w) (xlTcm (0x200 + j)) = true := by decide +kernel
  exact ⟨_, hu ▸ okXl_eq (key j hj)⟩

theorem wit_replsel : let u := (sRow.reachRange (sRow.me.rd 10).toNat 4).reachRange ((sRow.me.rd 10).toNat + 8 + 8 * (5 % 2)) 8
    (sRow.me.rd 10).toNat % 64 = 0 ∧ (sRow.me.rd 8).toNat % 128 = 5 ∧ okRange (u.readRange u.me (sRow.me.rd 10).toNat 4) [4, 0, 0, 0] = true ∧
    okRange (u.readRange u.me ((sRow.me.rd 10).toNat + 8 + 8 * (5 % 2)) 8) [5, 0, 0, 0, 0, 0, 0, 0x80] = true := by
  decide +kernel

/-- A flow with 64 rows attached: slot 0 holds f32 sums, slot 1 i32 sums, slot 2 a ranked list of 1, slot 3 is linked to slot 2. -/
def sMx (vt : Word) : State :=
  let z := Slot.init 64
  featured { (withS (sTy vt).me [(6, 0x1FFFFFFFFFC0100), (7, 1)]) with
    qm := 1, slots := [z, { z with kind := 1 }, { z with kind := 2, k := 1 }, { z with link := some 2, p := true }] ++ List.replicate 12 z }

/-- MatrixAttachmentAndSlots: MATTACH with rows held and without, the words of an attached flow, MDECL of a ranked slot. -/
theorem wit_matrix_words : Claims.feature (sMx 0x0F00) 1 ∧ (sMx 0x0F00).me.slots.length = 16 ∧ (sMx 0x0F00).me.eq = [] ∧ Claims.mayGo (sMx 0x0F00) ∧
    Claims.rowsOf (sMx 0x0F00).me ≠ 0 ∧ Claims.rowsOf (featured flow0).me = 0 ∧ Claims.feature (featured flow0) 1 ∧
    (featured flow0).me.slots.length = 16 ∧ Claims.mayGo (featured flow0) ∧ (sMx 0x0F00).me.mxq = [] ∧ Claims.clean (sMx 0x0F00) [.s 7] ∧
    1 ≤ ((sMx 0x0F00).me.rd 7).toNat ∧ ((sMx 0x0F00).me.rd 7).toNat ≤ 64 ∧ Claims.mxMay (sMx 0x0F00) true [.x] [] ∧
    (let s := sMx 0x0F00
     Claims.calm s ∧ s.me.fences = [] ∧ s.dev.dieLost = 0 ∧ s.tlb = [] ∧ s.bad = [] ∧ s.badCache = [] ∧ s.stuck true false = false) ∧
    (let f := { (sMx 0x0F00).me with vl := 0 }
     f.convoyBad true [.x] = false ∧ f.vl = 0 ∧ f.vq.length < 32) := by
  unfold Claims.mxMay Claims.feature Claims.clean Claims.mayGo Claims.calm; decide +kernel

/-- OuterProductResults: MOP under bf16 into an f32 slot and under i8 into an i32 slot; MOPA of slot 0; a pruned MOP. -/
theorem wit_mop :
    (sMx 0x0F02).me.fmtc ≤ 27 ∧ Claims.mxMay (sMx 0x0F02) true (Claims.mopPipes (sMx 0x0F02) true 4)
      ((if (0 : BitVec 5) = 0 then [] else [.s 0]) ++ Claims.vrefs (sMx 0x0F02) 5 ++ Claims.vrefs (sMx 0x0F02) 4 ++ [.acc 0]) ∧
    (Claims.slotOf (sMx 0x0F02) 0).kind = 0 ∧ ¬Claims.pruned (sMx 0x0F02) 0 0 ∧ Claims.svpOk (sMx 0x0F02) (sMx 0x0F02).me.fmtc ∧
    Claims.mxMay (sMx 0x0F0A) true (Claims.mopPipes (sMx 0x0F0A) true 4) (Claims.vrefs (sMx 0x0F0A) 5 ++ Claims.vrefs (sMx 0x0F0A) 4 ++ [.acc 1]) ∧
    (Claims.slotOf (sMx 0x0F0A) 1).kind = 1 ∧ 9 ≤ (sMx 0x0F0A).me.fmtc ∧ (sMx 0x0F0A).me.fmtc ≤ 13 ∧ ¬Claims.pruned (sMx 0x0F0A) 1 0 ∧
    Claims.mxMay (sMx 0x0F02) true (Claims.mopPipes (sMx 0x0F02) true 4) (Claims.vrefs (sMx 0x0F02) 4 ++ [.acc 4, .acc 0]) ∧
    (sMx 0x0F02).me.fmtc ≤ 8 ∧ (Claims.slotOf (sMx 0x0F02) 4).kind = 0 ∧ ¬Claims.pruned (sMx 0x0F02) 4 0 ∧
    Claims.pruned (sMx 0x0F02) 3 7 ∧
    Claims.mxMay (sMx 0x0F02) true (Claims.mopPipes (sMx 0x0F02) true 4)
      ([.s 7] ++ Claims.vrefs (sMx 0x0F02) 5 ++ Claims.vrefs (sMx 0x0F02) 4 ++ [.acc 3]) := by
  and_intros <;> (try unfold Claims.mxMay) <;> (try unfold Claims.feature) <;> (try unfold Claims.clean) <;> (try unfold Claims.vrefs) <;>
    (try unfold Claims.pruned) <;> (try unfold Claims.svpOk) <;> decide +kernel

/-- RankAndMoveResults: MRANK into slot 2 from slot 0 and from slot 3, whose P is set; MTHR; MRD of a row, of a ranked row and of the counts. -/
theorem wit_rank :
    (Claims.slotOf (sMx 0x0F00) 2).kind = 2 ∧ (Claims.slotOf (sMx 0x0F00) 0).kind ≠ 2 ∧ (Claims.slotOf (sMx 0x0F00) 0).p = false ∧
    (Claims.slotOf (sMx 0x0F00) 3).kind ≠ 2 ∧ (Claims.slotOf (sMx 0x0F00) 3).p = true ∧
    Claims.mxMay (sMx 0x0F00) true [.x] [.s 6, .acc 0, .acc 2] ∧ Claims.mxMay (sMx 0x0F00) true [.x] [.s 6, .acc 3, .acc 2] ∧
    Claims.tyF (sMx 0x0F00).me.fmtc ∧ Claims.tyN (sMx 0x0F00).me.fmtc ∧ (8 : BitVec 6).toNat % (sMx 0x0F00).me.grp = 0 ∧
    Claims.mxMay (sMx 0x0F00) true [.x, .l] [.s 6, .acc 2] ∧ ((sMx 0x0F00).me.rd 6).toNat % 8 = 0 ∧ ((sMx 0x0F00).me.rd 0).toNat % 8 = 0 ∧
    Claims.mxMay (sMx 0x0F00) true [.x, .l] [.s 6, .s 0] ∧ Claims.mxMay (sMx 0x0F00) true [.x, .s] [.s 6, .s 0, .acc 2] ∧
    (sMx 0x0F00).dev.dieLost = 0 ∧ Claims.tagFree (sMx 0x0F00) 1 ∧ ((sMx 0x0F00).me.rd 7).toNat < Claims.rowsOf (sMx 0x0F00).me ∧ (sMx 0x0F00).me.fmtc = 0 := by
  and_intros <;> (try unfold Claims.mxMay) <;> (try unfold Claims.feature) <;> (try unfold Claims.clean) <;> (try unfold Claims.tyF) <;>
    (try unfold Claims.tyN) <;> (try unfold Claims.tagFree) <;> decide +kernel

theorem rowAt_zero (b r : Nat) (h : b < 2 ^ 64) : Claims.rowAt b 0 r = b := by unfold Claims.rowAt; omega

/-- What the flow reads of a range, from one evaluation. -/
theorem okRange_eq {r : Except Trap (List Byte × List Xl)} {bs : List Byte} (h : okRange r bs = true) : ∃ xs, r = .ok (bs, xs) := by
  unfold okRange at h; split at h
  · exact ⟨_, by rw [← beq_iff_eq.1 h]⟩
  · exact absurd h Bool.false_ne_true

/-- The row of n bytes at address b is in reach of the flow, may be read and written, and holds zeros. -/
def zeroRow (s : State) (b n : Nat) : Bool :=
  s.reachRange b n == s && okRange (s.readRange s.me b n) (List.replicate n 0) &&
    (List.range n).all (fun j => okXl (s.access (s.ctx s.me) ((b + j) % 2 ^ 64) .r) (xlTcm ((b + j) % 2 ^ 18)) &&
      okXl (s.access (s.ctx s.me) ((b + j) % 2 ^ 64) .w) (xlTcm ((b + j) % 2 ^ 18)))

theorem foldl_fixed {α : Type} {g : State → α → State} {s : State} (l : List α) (h : ∀ x ∈ l, g s x = s) : l.foldl g s = s := by
  induction l with
  | nil => rfl
  | cons x l ih => rw [List.foldl_cons, h x List.mem_cons_self]; exact ih fun y hy => h y (List.mem_cons_of_mem _ hy)

/-- Where each row does, a word reads them all, as the machine stands. -/
theorem rows_of {s : State} {b n : Nat} {stride : Int} (h : ∀ r, r < Claims.rowsOf s.me → zeroRow s (Claims.rowAt b stride r) n = true) :
    Claims.rowsReach s b stride n = s ∧ Claims.rowsRead s b stride n (fun _ => List.replicate n 0) ∧ Claims.rowsMay s b stride n .r ∧
      Claims.rowsMay s b stride n .w := by
  simp only [zeroRow, Bool.and_eq_true, beq_iff_eq, List.all_eq_true, List.mem_range] at h
  exact ⟨foldl_fixed _ fun r hr => (h r (List.mem_range.1 hr)).1.1, fun r hr => okRange_eq (h r hr).1.2,
    fun r j hr hj => ⟨_, okXl_eq ((h r hr).2 j hj).1⟩, fun r j hr hj => ⟨_, okXl_eq ((h r hr).2 j hj).2⟩⟩

/-- The bytes in memory: MLDA and MSTA of an f32 slot and of a ranked one at stride 0, MRMERGE of rows 8 bytes apart. -/
theorem wit_rank_rows : let s := sMx 0x0F00
    ∀ q ∈ [((0 : Int), 512), (0, 8), (8, 8)], Claims.rowsReach s 0x1FFFFFFFFFC0100 q.1 q.2 = s ∧
      Claims.rowsRead s 0x1FFFFFFFFFC0100 q.1 q.2 (fun _ => List.replicate q.2 0) ∧ Claims.rowsMay s 0x1FFFFFFFFFC0100 q.1 q.2 .r ∧
      Claims.rowsMay s 0x1FFFFFFFFFC0100 q.1 q.2 .w ∧ s.orDirtyAll (s.ctx s.me) (Claims.rowBytesOf s 0x1FFFFFFFFFC0100 q.1 q.2) = s := by
  have h64 : Claims.rowsOf (sMx 0x0F00).me = 64 := by decide +kernel
  have near (n : Nat) (k : zeroRow (sMx 0x0F00) 0x1FFFFFFFFFC0100 n = true) (r : Nat) (_ : r < Claims.rowsOf (sMx 0x0F00).me) :
      zeroRow (sMx 0x0F00) (Claims.rowAt 0x1FFFFFFFFFC0100 0 r) n = true := by rw [rowAt_zero _ _ (by decide)]; exact k
  have apart : ∀ r, r < 64 → zeroRow (sMx 0x0F00) (Claims.rowAt 0x1FFFFFFFFFC0100 8 r) 8 = true := by decide +kernel
  have clear (l : List Nat) : (sMx 0x0F00).orDirtyAll ((sMx 0x0F00).ctx (sMx 0x0F00).me) l = sMx 0x0F00 := if_pos (by decide +kernel)
  intro s q hq
  have zero : ∀ r, r < Claims.rowsOf s.me → zeroRow s (Claims.rowAt 0x1FFFFFFFFFC0100 q.1 r) q.2 = true := by
    simp only [List.mem_cons, List.mem_nil_iff, or_false] at hq
    obtain rfl | rfl | rfl := hq
    · exact near 512 (by decide +kernel)
    · exact near 8 (by decide +kernel)
    · exact fun r hr => apart r (h64 ▸ hr)
  obtain ⟨reach, read, may⟩ := rows_of zero
  exact ⟨reach, read, may.1, may.2, clear _⟩

/-- The state after an instruction that gives one. -/
def got (i : Instr) (s : State) : State :=
  match exec i s with
  | .next t => t
  | _ => s

/-- Index words 2, 0, 2, 1 and a table of 10, 20, 30 in the launch's scratchpad; a shape of four elements of 4 bytes bounded by 3; the
tenant's arena is 1 MiB at 0x200000. -/
def sPlan0 : State :=
  let s := featured { (withS (sTy 0x0F20).me
      [(6, 0x1FFFFFFFF800000), (7, 0x300040004), (8, 0x1FFFFFFFF800100), (9, 0), (10, 0x1FFFFFFFF800200)]) with vl := 4 }
  { s with
    mem := [(spmBase, 2), (spmBase + 8, 2), (spmBase + 12, 1), (spmBase + 0x100, 10), (spmBase + 0x104, 20), (spmBase + 0x108, 30)]
    tenants := s.tenants.modify 1 (fun t => { t with arena := 0x10000200000 }) }

/-- The object of R228 that its build leaves at the arena's start, by offset: Watch-lost, as no watch stands on a scratchpad word. -/
def planCells : List (Nat × Byte) :=
    [(0, 4), (17, 1), (18, 128), (19, 255), (20, 255), (21, 255), (22, 255), (23, 1), (24, 4), (26, 4), (28, 3), (36, 1), (42, 128), (43, 255), (44, 255)] ++
    [(45, 255), (46, 255), (47, 1), (48, 4), (64, 242), (65, 169), (66, 134), (67, 72), (68, 158), (69, 147), (70, 225), (80, 2), (88, 3), (92, 1), (97, 1)] ++
    [(100, 24), (101, 1), (104, 40), (105, 1), (108, 56), (109, 1), (112, 72), (113, 1), (117, 2), (264, 1), (272, 2), (280, 2), (288, 2), (292, 1), (296, 1)] ++
    [(300, 3), (308, 2), (316, 1), (320, 2), (329, 1), (330, 128), (331, 255), (332, 255), (333, 255), (334, 255), (335, 1), (336, 1)]

/-- The plan over them, built; its object in another state; and just made, its build under way. -/
def plan0 : PlanRec := ⟨1, 0, 1, 512, 3, 0⟩
def sPlan2 : State :=
  { sPlan0 with
    mem := planCells.map (fun p => (0x200000 + p.1, p.2)) ++ sPlan0.mem
    plans := [plan0]
    me := { sPlan0.me with pc := 0x1FFFFFFFFFC0004 }.wr 8 0x10000000000
    resident := [(0, 1, 0)]
    nextId := 3 }
def sPlanIn (code sub cause : Nat) : State := sPlan2.setPlanState 1 0 code sub cause
def sPlan1 : State := { sPlanIn 1 0 0 with jobs := [⟨1, 0, 0, 1, ⟨1, 0⟩, { sPlan0.ctx sPlan0.me with core := none }, .build ⟨0, false, none, [], [], [], none⟩⟩] }

/-- R225, R228, R240: PLAN, its build's four reads and its end make just that object. -/
theorem test_plan_build : let t := got (.evPlanBuildComplete 1) ((List.range 4).foldl (fun s _ => got (.evEaccess 1 false) s) (got (.plan 8 6 7 false) sPlan0))
    t.mem = sPlan2.mem ∧ t.plans = sPlan2.plans ∧ t.me.rd 8 = sPlan2.me.rd 8 ∧ t.me.pc = sPlan2.me.pc := by decide +kernel

def hPlan : Word := 0x10000000000

/-- The index bytes of a plan's two sources, read again. -/
def rehashed (s : State) (p : PlanRec) : Except Trap (List Byte) := do
  let x ← s.rehash s.me (s.pSources p).a (s.pSources p).wa (s.pSources p).na 0
  let y ← s.rehash s.me (s.pSources p).b (s.pSources p).wb (s.pSources p).nb 0
  pure (x ++ y)

/-- The bytes that a result holds pass f; none where it is an error. -/
def bytesAre (r : Except Trap (List Byte)) (f : List Byte → Bool) : Bool :=
  match r with
  | .ok bs => f bs
  | .error _ => false

/-- A watched index word that a store of the flow covers. -/
def sCovered : State :=
  { sPlanIn 2 0 0 with
    me := { sPlan2.me with sb := [⟨false, 0, 0, spmBase, 0, 0xFF, 0, 0, 0, false, false, 0, 0, false, none⟩], seq := 1 }
    watches := [⟨spmBase, 0x1FFFFFFFF800000, 1, 0, 0⟩] }

/-- PrepareByState: no plan, and a plan in each state, with its word covered and not, its index the same, changed and unreadable. -/
theorem wit_prepare : sPlan2.planOf 1 0 = none ∧ sPlan2.planOf 1 hPlan = some plan0 ∧ sPlan2.readErr ((sPlan2.ten 1).arenaPa 0) hPlan = none ∧
    sPlan2.stuck true false = false ∧ sPlan2.ready true false = sPlan2 ∧ sPlan1.pCode plan0 = 1 ∧ sPlan1.planOf 1 hPlan = some plan0 ∧ (sPlanIn 2 0 0).pCode plan0 = 2 ∧
    (sPlanIn 2 0 0).covered sPlan2.me plan0 = false ∧ (sPlanIn 3 1 8).pCode plan0 = 3 ∧ (sPlanIn 5 2 6).pCode plan0 = 5 ∧ sPlan2.me.rebuilt = false ∧
    sPlan2.pCode plan0 = 4 ∧ sPlan2.covered sPlan2.me plan0 = false ∧ sPlan2.builderFree sPlan2.me.loc.clusterIdx = true := by decide +kernel

theorem wit_prepare_more : Claims.calm (sPlanIn 3 1 8) ∧ (sPlanIn 3 1 8).planOf 1 hPlan = some plan0 ∧ (sPlanIn 3 1 8).ready true false = sPlanIn 3 1 8 ∧
    sCovered.pCode plan0 = 2 ∧ sCovered.covered sCovered.me plan0 = true ∧ sCovered.planOf 1 hPlan = some plan0 ∧ sCovered.stuck true false = false ∧ sCovered.ready true false = sCovered ∧
    bytesAre (rehashed sPlan2 plan0) (fun bs => crc64 bs == sPlan2.planGet plan0 0x40 8) = true ∧
    bytesAre (rehashed (withSpm sPlan2 [1]) plan0) (fun bs => crc64 bs != (withSpm sPlan2 [1]).planGet plan0 0x40 8) = true ∧
    (withSpm sPlan2 [1]).pCode plan0 = 4 ∧
    (match rehashed { sPlan2 with launches := [launch1] } plan0 with | .error _ => true | .ok _ => false) = true ∧
    { sPlan2 with launches := [launch1] }.pCode plan0 = 4 := by
  unfold Claims.calm; decide +kernel

/-- What Prepare gives, where it passes a check on the plan's state after use. -/
def prepOk (r : Prep) (f : State → PlanRec → Bool) : Bool :=
  match r with
  | .ok t p => f (t.useplan t.me.loc.clusterIdx p) p
  | _ => false

theorem prepared_of {s : State} {h : Word} {r : Bool} {f : State → PlanRec → Bool} (k : prepOk (s.prepare h r) f = true) :
    ∃ s1 p, Claims.prepared s h r s1 p ∧ f s1 p = true := by
  unfold prepOk at k
  split at k
  · rename_i t p e; exact ⟨_, p, ⟨t, e, rfl⟩, k⟩
  · contradiction

/-- PlansAreBuiltAndFreed: a good range with room, and with none; ranges that R225 bars; derived plans of a plan over one source, and of a
derived one; a plan, no plan, and a build under way in the cluster. -/
theorem wit_plan : Claims.feature sPlan0 2 ∧ Claims.clean sPlan0 [.s 6, .s 7, .s 8] ∧ Claims.planRoom sPlan0 4 0 ∧ Claims.engineMay sPlan0 ∧
    1 ≤ (sPlan0.me.rd 7).toNat % 2 ^ 17 ∧ (sPlan0.me.rd 7).toNat / 2 ^ 17 % 2 ^ 4 = 2 ∧ (sPlan0.me.rd 7).toNat / 2 ^ 21 % 2 ^ 11 = 0 ∧
    (sPlan0.me.rd 6).toNat % 4 = 0 ∧ (∀ i, i < 4 * 4 → ¬Claims.barred ((sPlan0.me.rd 6).toNat + i)) ∧ ¬Claims.barred (sPlan0.me.rd 8).toNat ∧
    Claims.calm sPlan0 ∧ sPlan0.me.s.length = 32 ∧
    ((sMx 0).me.rd 0).toNat % 2 ^ 17 = 0 ∧ (sMx 0).arenaFind 1 (Claims.sizeOf 4) = none := by
  and_intros <;> (try unfold Claims.feature) <;> (try unfold Claims.clean) <;> (try unfold Claims.planRoom) <;> (try unfold Claims.engineMay) <;>
    (try unfold Claims.mayGo) <;> (try unfold Claims.calm) <;> (try unfold Claims.barred) <;> decide +kernel

theorem wit_derived : Claims.feature sPlan2 2 ∧ Claims.clean sPlan2 [.s 8, .s 10] ∧ sPlan2.me.eq = [] ∧ sPlan2.me.rd 8 = hPlan ∧
    (∃ s1 p, Claims.prepared (sPlanIn 2 0 0) hPlan false s1 p ∧ ((s1.pSources p).kind = 0 && s1.me.eq.isEmpty && s1.planGet p 0x50 8 < s1.pN p &&
      (s1.arenaFind 1 (Claims.sizeOf 3) == some 512) && (s1.planGet p 0x58 4 == 3) && (s1.arenaFind 1 (Claims.sizeOf 4) == some 512) &&
      s1.builderFree 0 && !s1.replayOf s1.me) = true) ∧
    (∃ s1 p, Claims.prepared { sPlanIn 2 0 0 with mem := (sPlanIn 2 0 0).mem.set 0x200020 1 } hPlan false s1 p ∧ ((s1.pSources p).kind == 1) = true) := by
  refine ⟨by unfold Claims.feature; decide +kernel, by unfold Claims.clean; decide +kernel, by decide +kernel, by decide +kernel, prepared_of ?_, prepared_of ?_⟩
  · decide +kernel
  · decide +kernel

/-- The plan Ready, and one whose table's second element lies past the launch's scratchpad. -/
def sReady : State := sPlanIn 2 0 0
def sShort : State :=
  { sReady with
    mem := (sReady.mem.set 0x200010 0xFC).set 0x200011 0x0F
    me := { sReady.me with act := 0b1010 } }

/-- Whether the table element of position i of the plan can be read. -/
def canGather (s1 : State) (p : PlanRec) (i : Nat) : Bool :=
  let s2 := Claims.inReachAt s1 (planRead p 0) (s1.me.act.toNat % 2 ^ s1.me.vlN)
  match s2.readRange s2.me (s2.pTarget p (s2.pRank p i)) (2 ^ s2.pE p) with
  | .ok _ => true
  | .error _ => false

/-- PlansAreGathered: a plan whose four elements can be read, for a register and for the scratchpad; too many positions; i8 against elements of four
bytes; a position that fails after one that does not. -/
theorem wit_papply : Claims.tyD sReady.me.fmtc ∧ Claims.feature sReady 2 ∧ sReady.me.eq = [] ∧ (12 : BitVec 6).toNat % sReady.me.grp = 0 ∧
    Claims.clean sReady [.s 8, .s 9, .s 10] ∧ Claims.svpOk sReady sReady.me.fmtc ∧ Claims.tagFree sReady 1 ∧
    (∃ s1 p, Claims.prepared sReady (sReady.me.rd 8) false s1 p ∧
      ((sReady.me.rd 9).toNat + s1.me.vlN ≤ s1.pN p && s1.me.ew == 8 * 2 ^ s1.pE p && (s1.me.tags == sReady.me.tags) && s1.landRoom s1.me 1 16 && !s1.stuck true false && s1.ckpts.isEmpty &&
        (List.range 4).all (canGather s1 p) && s1.pN p < 1 + s1.me.vlN) = true) ∧
    (∃ s1 p, Claims.prepared { sReady with me := { sReady.me with vtype := 0x0F0A } } hPlan false s1 p ∧ (s1.me.ew != 8 * 2 ^ s1.pE p) = true) ∧
    (∃ s1 p, Claims.prepared sShort hPlan false s1 p ∧ (Claims.startAt s1.me == 0 && Claims.active s1.me 1 && canGather s1 p 1 &&
      !Claims.active s1.me 2 && Claims.active s1.me 3 && !canGather s1 p 3) = true) := by
  refine ⟨by unfold Claims.tyD; decide +kernel, by unfold Claims.feature; decide +kernel, by decide +kernel, by decide +kernel,
    by unfold Claims.clean; decide +kernel, by unfold Claims.svpOk; decide +kernel, by unfold Claims.tagFree; decide +kernel, prepared_of ?_, prepared_of ?_, prepared_of ?_⟩ <;> decide +kernel

theorem wit_papply_spm : 0x1FFFFFFFF800000 ≤ (sReady.me.rd 10).toNat ∧ (sReady.me.rd 10).toNat + 4 * 4 ≤ 0x1FFFFFFFFC00000 ∧
    (sReady.me.rd 10).toNat % min 4 8 = 0 ∧ (∀ c ∈ sReady.me.ownStores, c.seq < sReady.me.seq) ∧
    (∃ s1 p, Claims.prepared sReady hPlan false s1 p ∧ (
      let s2 := (s1.ready true true).reachPlaces (spmPositions s1 s1.me p 0 (s1.me.rd 10).toNat 4 0 15).2.1
      !s1.stuck true true && s2.pE p == s1.pE p && (List.range 4).all (fun i =>
        match s2.readRange s2.me (s2.pTarget p (s2.pRank p i)) 4 with | .ok _ => true | .error _ => false) && (List.range 16).all (fun j =>
      okXl (s2.access (s2.ctx s2.me) ((s1.me.rd 10).toNat + j) .w) ⟨spmBase + 0x200 + j, 0, 0, 0, 0, false, false⟩)) = true) := by
  refine ⟨by decide +kernel, by decide +kernel, by decide +kernel, by decide +kernel, prepared_of ?_⟩
  decide +kernel

/-- The scratchpads lie above every other part of the model's memory. -/
theorem regionOf_spm {pa : Nat} (h : spmBase ≤ pa) : ∃ a b, regionOf pa = .spm a b := by
  simp only [spmBase] at h
  unfold regionOf spmBase tcmBase
  iterate 7 rw [if_neg (Nat.not_lt.2 (by omega))]
  exact ⟨_, _, rfl⟩

/-- An address of the launch's scratchpad, whatever else the machine holds. -/
theorem access_spm (u : State) (c : Ctx) (va o pa : Nat) (acc : Acc) (hv : va = 0x1FFFFFFFF800000 + o) (h : c.spmLo ≤ o) (k : o < c.spmHi)
    (l : o < 2 ^ 22) (hp : pa = spmBase + c.cluster * 2 ^ 22 + o) : u.access c va acc = .ok ⟨pa, 0, 0, 0, 0, false, false⟩ := by
  have e : va - 0x1FFFFFFFF800000 = o := by omega
  have t : u.translate c va acc = .ok ⟨pa, 0, 0, 0, 0, false, false⟩ := by
    unfold State.translate
    rw [if_neg (by omega), if_neg (by omega), if_neg (by omega), if_pos (by omega)]
    simp only [e, h, k, and_self, if_true, hp]
  obtain ⟨a, b, r⟩ := regionOf_spm (pa := pa) (by omega)
  have hl : u.homeLost pa = none := by unfold State.homeLost; rw [r]
  unfold State.access
  rw [t]
  simp only [hl, r, Bool.false_eq_true, if_false]

/-- Tenants that differ in what they spent alone place their arenas alike. -/
theorem ten_same {u s : State} (h : u.tenants.map (fun (x : Tenant) => { x with spent := 0 }) = s.tenants.map (fun (x : Tenant) => { x with spent := 0 }))
    (t n : Nat) : (u.ten t).arenaPa n = (s.ten t).arenaPa n ∧ (u.ten t).rootKey = (s.ten t).rootKey := by
  have e (v : State) : (v.tenants.map (fun (x : Tenant) => { x with spent := 0 })).getD t Tenant.init = { v.ten t with spent := 0 } := by
    unfold State.ten; simp only [List.getD, List.getElem?_map]; cases v.tenants[t]? <;> rfl
  have k : ({ u.ten t with spent := 0 } : Tenant) = { s.ten t with spent := 0 } := by rw [← e u, ← e s, h]
  exact ⟨congrArg (fun x => x.arenaPa n) k, congrArg (fun x => x.rootKey) k⟩

/-- A field of a plan's object reads the same where memory below the scratchpads does. -/
theorem planGet_same {u s : State} {p : PlanRec} (ha : ∀ n, (u.ten p.tenant).arenaPa n = (s.ten p.tenant).arenaPa n)
    (hk : (u.ten p.tenant).rootKey = (s.ten p.tenant).rootKey) (hm : ∀ c, c < spmBase → u.mem.get c = s.mem.get c ∧ u.memKey.get c = s.memKey.get c)
    (o n : Nat) (b : (s.ten p.tenant).arenaPa (p.off + o) + n ≤ spmBase) : u.planGet p o n = s.planGet p o n := by
  unfold State.planGet State.keyBytes
  simp only [ha, hk]
  refine congrArg natLE (List.map_congr_left fun i hi => ?_)
  have := hm ((s.ten p.tenant).arenaPa (p.off + o) + i) (by have := List.mem_range.1 hi; omega)
  unfold State.keyByte byteUnder; rw [this.1, this.2]

/-- The state in which the Ready plan is applied, and where byte j of its table element k lies. -/
def sUsed : State := sReady.useplan sReady.me.loc.clusterIdx plan0
def elemAt (k j : Nat) : Xl := ⟨spmBase + 0x100 + 4 * k + j, 0, 0, 0, 0, false, false⟩

theorem ranks {k : Nat} (h : Claims.ranked sUsed plan0 0 15 k ≠ []) : k < 3 := by
  have key : ∀ i, i < sUsed.me.vlN → sUsed.pRank plan0 (0 + i) < 3 := by decide +kernel
  obtain ⟨i, hi⟩ := List.exists_mem_of_ne_nil _ h
  unfold Claims.ranked Claims.places at hi
  simp only [List.mem_filter, List.mem_range, Bool.and_eq_true, decide_eq_true_eq] at hi
  rw [← hi.2.2]; exact key i hi.1

/-- PlansAreScattered: the Ready plan with every target writable and steady, nothing else under way. -/
theorem wit_pscat : Claims.tyD sReady.me.fmtc ∧ Claims.tyN sReady.me.fmtc ∧ (5 : BitVec 6).toNat % sReady.me.grp = 0 ∧ Claims.feature sReady 2 ∧
    Claims.clean sReady ([.s 8, .s 9] ++ Claims.vrefs sReady 5 ++ Claims.mrefs 15) ∧ sReady.me.eq = [] ∧ Claims.mayGo sUsed ∧
    (sReady.me.rd 9).toNat = 0 ∧ 0 + sUsed.me.vlN ≤ sUsed.pN plan0 ∧ sUsed.me.ew = 8 * 2 ^ sUsed.pE plan0 ∧ sUsed.dev.dieLost = 0 ∧ Claims.calm sReady ∧ Claims.svpOk sReady sReady.me.fmtc ∧
    sUsed.stuck true true = false ∧ sUsed.stuck false true = false ∧ sUsed.me.vqDrained = true ∧ sUsed.ckpts = [] ∧ sUsed.ready true true = sUsed ∧
    sUsed.ready false true = sUsed := by
  and_intros <;> (try unfold Claims.tyD) <;> (try unfold Claims.tyN) <;> (try unfold Claims.feature) <;> (try unfold Claims.clean) <;>
    (try unfold Claims.vrefs) <;> (try unfold Claims.mrefs) <;> (try unfold Claims.svpOk) <;> (try unfold Claims.mayGo) <;> (try unfold Claims.calm) <;> decide +kernel

theorem wit_pscat_prepared : Claims.prepared sReady hPlan false sUsed plan0 := by
  have k : (match sReady.prepare hPlan false with | .ok t p => t == sReady && p == plan0 | _ => false) = true := by decide +kernel
  split at k
  · rename_i t p e
    simp only [Bool.and_eq_true, beq_iff_eq] at k
    exact ⟨t, k.2 ▸ e, by rw [k.1]; rfl⟩
  · contradiction

/-- Targets of four bytes each in the scratchpad from 0x100 on are steady. -/
theorem steady_of {s : State} (hr : ∀ k, Claims.ranked s plan0 0 15 k ≠ [] → k < 3)
    (ht : ∀ k, k < 3 → s.pTarget plan0 k = 0x1FFFFFFFF800000 + (0x100 + 4 * k)) (hc : s.ctx s.me = ⟨1, false, some 0, 0, 0, 4096⟩)
    (he : 2 ^ s.pE plan0 = 4) (hw : (s.ten 1).wbase.toNat = 0) (hab : (s.ten 1).arenaBase = 0x200000) (h60 : s.planGet plan0 0x60 4 = 0x100)
    (hb : s.bad.isEmpty = true) (hbc : s.badCache = []) :
    (∀ k j acc, k < 3 → j < 4 → s.access (s.ctx s.me) ((s.pTarget plan0 k + j) % 2 ^ 64) acc = .ok (elemAt k j)) ∧
      Claims.steadyTargets s plan0 0 15 elemAt := by
  have acc (u : State) (k j : Nat) (hk : k < 3) (hj : j < 4) (a : Acc) :
      u.access (s.ctx s.me) ((s.pTarget plan0 k + j) % 2 ^ 64) a = .ok (elemAt k j) := by
    rw [ht k hk, hc]
    exact access_spm u _ _ (0x100 + 4 * k + j) _ a (by omega) (Nat.zero_le _) (by show _ < 4096; omega) (by omega) (by show _ = spmBase + 0 * 2 ^ 22 + _; omega)
  have hs (n : Nat) : (s.ten 1).arenaPa n = 0x200000 + n := by unfold Tenant.arenaPa; rw [hw, hab, Nat.zero_add]
  refine ⟨fun k j a hk hj => acc s k j hk hj a, fun k j hk hj => ⟨⟨rfl, rfl, ?_, ?_⟩, ?_⟩, ?_⟩
  · obtain ⟨a, b, e⟩ := regionOf_spm (pa := (elemAt k j).pa) (by show spmBase ≤ spmBase + 0x100 + 4 * k + j; omega)
    rw [e]; trivial
  · intro u hu hten hm _
    have hk := hr k hk
    rw [he] at hj
    have low : ∀ c, c < spmBase → u.mem.get c = s.mem.get c ∧ u.memKey.get c = s.memKey.get c := by
      intro c h; apply hm; rintro ⟨k', j', _, _, e⟩
      have e : spmBase + 0x100 + 4 * k' + j' = c := e
      omega
    have get (o n : Nat) (b : o + n < 2 ^ 40) : u.planGet plan0 o n = s.planGet plan0 o n := by
      refine planGet_same (p := plan0) (fun n => (ten_same hten 1 n).1) (ten_same hten 1 0).2 low o n ?_
      show (s.ten 1).arenaPa (0 + o) + n ≤ spmBase
      rw [hs]; unfold spmBase; omega
    refine ⟨acc u k j hk hj .w, ?_, ?_⟩
    · unfold State.pTarget State.pTbase State.pUnique State.pE
      rw [get 0x10 8 (by decide), get 0x60 4 (by decide), get 0x18 8 (by decide), h60, get _ 8 (by omega)]
    · unfold State.pE; rw [get 0x18 8 (by decide)]
  · unfold State.dataBad; rw [hbc, if_pos hb]; rfl
  · intro k j k' j' hk hk' hj hj' e
    rw [he] at hj hj'
    have e : spmBase + 0x100 + 4 * k + j = spmBase + 0x100 + 4 * k' + j' := e
    omega

theorem wit_pscat_targets : (∀ i, i < sUsed.me.vlN → sUsed.pRank plan0 (0 + i) < 3) ∧ Claims.steadyTargets sUsed plan0 0 15 elemAt := by
  obtain ⟨few, place, ctx, wide, base, arena, uniq, fine, cached⟩ : (∀ i, i < sUsed.me.vlN → sUsed.pRank plan0 (0 + i) < 3) ∧
      (∀ k, k < 3 → sUsed.pTarget plan0 k = 0x1FFFFFFFF800000 + (0x100 + 4 * k)) ∧ sUsed.ctx sUsed.me = ⟨1, false, some 0, 0, 0, 4096⟩ ∧
      2 ^ sUsed.pE plan0 = 4 ∧ (sUsed.ten 1).wbase.toNat = 0 ∧ (sUsed.ten 1).arenaBase = 0x200000 ∧ sUsed.planGet plan0 0x60 4 = 0x100 ∧
      sUsed.bad.isEmpty = true ∧ sUsed.badCache = [] := by decide +kernel
  exact ⟨few, (steady_of (fun k => ranks) place ctx wide base arena uniq fine cached).2⟩

/-- PlansAreBuiltAndFreed, the words over a live plan: no build of it in the cluster. -/
theorem wit_pstat : Claims.feature sReady 2 ∧ Claims.clean sReady [.s 8] ∧ sReady.me.eq = [] ∧ sReady.planOf 1 hPlan = some plan0 ∧
    sReady.planOf 1 0 = none ∧ sReady.stuck true false = false ∧ sReady.ready true false = sReady ∧ Claims.mayGo sReady ∧ sReady.jobs = [] := by
  unfold Claims.feature Claims.clean Claims.mayGo; decide +kernel

/-! ### What becomes of words and accesses -/

def key0 : FlowKey := ⟨1, 0⟩
def vword : VWork := ⟨true, true, false, false, 32, 1, 8, 1, 0, 0, none, none⟩
def convoy0 : RunConvoy := ⟨[vword], [0, 0, 0, 0, 0, 0, 0, 0], [1, 0, 0, 0, 0, 0, 0, 0]⟩

/-- A flow with a convoy to start, one that advances, a result under way, a complete entry, and a matrix word whose store has left. -/
def fWork : Flow :=
  { flow0 with vq := [vword], cv := some { convoy0 with done := [1, 0, 0, 0, 0, 0, 0, 0] }, busy := [(5, 9)], tags := flow0.tags.set 2 (.pending landed0), mxq := [some 3] }

/-- Two flows of a launch that exchange v5 for v6 and v7 for v4. -/
def fPair : Flow := { sVec.me with status := .waiting (.vxlane 1 0 6 5) }
def fPair2 : Flow := { sVec.me with key := ⟨1, 1⟩, loc := ⟨0, 0, 0, 1⟩, status := .waiting (.vxlane 0 0 7 4) }

/-- WordsProceedAfterIssue: each clause but the last. -/
theorem wit_proceed : (machine fWork).flow? key0 = some fWork ∧ fWork.vq = vword :: [] ∧
    (∀ j, j < 8 → nth0 [1, 0, 0, 0, 0, 0, 0, 0] j ≤ nth0 [1, 0, 0, 0, 0, 0, 0, 0] j) ∧ fWork.convoy.isOpen = false ∧
    (let f := { flow0 with cv := some convoy0 }
     (machine f).flow? key0 = some f ∧ f.cv = some convoy0 ∧ f.loc.coreIdx = 0 ∧ nth0 convoy0.done 0 < nth0 convoy0.total 0 ∧
       ∀ g ∈ (machine f).flows, g = f) ∧
    (5, 9) ∈ fWork.busy ∧ fWork.s.length = 32 ∧ fWork.tags.getD 2 .free = .pending landed0 ∧ landed0.complete = true ∧
    fWork.mxq = some 3 :: [] ∧ fWork.sb = [] ∧
    (let s := { machine fPair with rest := [fPair2] }
     s.flow? ⟨1, 0⟩ = some fPair ∧ s.flow? ⟨1, 1⟩ = some fPair2) ∧ fPair.par = false ∧ fPair2.par = false ∧ fPair.vgnt = fPair2.vgnt ∧
    fPair.vtype = fPair2.vtype ∧ fPair.vl = fPair2.vl ∧ fPair.vq.length < 32 ∧ fPair2.vq.length < 32 ∧ 7 + fPair.grp ≤ 48 ∧ fPair.v.length = 48 ∧
    fPair.vlN * fPair.ew ≤ fPair.grp * fPair.view.2 := by
  decide +kernel

/-- Every wait that can be over is, for some flow. -/
theorem wit_waits : Claims.waitOver s0 { flow0 with status := .waiting .wfe, preq := true } ∧
    Claims.waitOver s0 { flow0 with status := .waiting (.grant true) } ∧
    Claims.waitOver (sBar none 1) { flow0 with status := .waiting (.bar 3 0) } ∧
    Claims.waitOver s0 { flow0 with status := .waiting (.commit 2) } ∧ Claims.waitOver s0 { flow0 with status := .waiting (.swait 3 false) } ∧
    Claims.waitOver (withSpm sRow [5]) { flow0 with status := .waiting (.arrwait 0x1FFFFFFFF800000 5) } := by
  refine ⟨?wfe, ?grant, ?bar, ?commit, ?swait, ?arrwait⟩
  case wfe => left; decide +kernel
  case grant => right; left; exact ⟨true, by decide +kernel⟩
  case bar => iterate 2 right
              left; exact ⟨3, 0, { launch1 with groups := [(3, 0)], barDone := [(3, 1)] }, rfl, by decide +kernel, by decide +kernel⟩
  case commit =>
    iterate 3 right
    left; refine ⟨2, rfl, fun e h => ?_⟩
    have k : flow0.tags.getD 2 .free = .free := by decide +kernel
    rw [show ({ flow0 with status := .waiting (.commit 2) } : Flow).tags = flow0.tags from rfl, k] at h
    cases h
  case swait => iterate 4 right
                left; exact ⟨3, false, rfl, .inl (by decide +kernel)⟩
  case arrwait =>
    iterate 5 right
    refine ⟨0x1FFFFFFFF800000, 5, rfl, fun u x c h => ?_⟩
    have k : (match ((withSpm sRow [5]).swapIn flow0.key).counterOf (BitVec.ofNat 64 0x1FFFFFFFF800000) with
        | some (_, _, c) => counterReady c 5
        | none => true) = true := by decide +kernel
    rw [show ({ flow0 with status := .waiting (.arrwait 0x1FFFFFFFF800000 5) } : Flow).key = flow0.key from rfl] at h
    rw [h] at k; exact k

/-- A store of the whole word at the start of the core's memory, a load of its first four bytes, and an AMOADD of them. -/
def acc0 : Access := ⟨false, 0, 0, tcmBase, 0x1122334455667788, 0xFFFFFFFFFFFFFFFF, 0, 0, 8, false, false, 0, 0, false, none⟩
def lacc0 : Access := ⟨true, 0, 0, tcmBase, 0, 0, 0, 5, 4, true, true, 0, 0, false, none⟩
def amo0 : AmoReq := ⟨.add, 1, 0, false, false, 4⟩
def aacc0 : Access := { lacc0 with fill := false, amo := some amo0 }

/-- A flow whose load has issued without its value; its access still to leave, its block in the core's L1; and on its way. -/
def waits0 : Defer := ⟨0, flow0, none, [], 1, 0, 0⟩
def sTake (a : Access) : State := { machine { flow0 with sb := [a] } with ckpts := [waits0], l1 := [⟨0, tcmBase, 0, 1, 0xF, 0x04030201, 0, true⟩] }
def sLoad (path : List QueueId) (a : Access) : State :=
  { machine flow0 with net := [⟨path, a, .flow key0 0⟩], ckpts := [waits0] }

theorem reads_well {s : State} {a : Access}
    (h : (List.range a.size).all (fun j => s.homeLost (a.addr + j) == none && s.dataBad (a.addr + j) == none) = true) : Claims.accessMay s a := by
  intro j hj
  have := List.all_eq_true.1 h j (List.mem_range.2 hj)
  simp only [Bool.and_eq_true, beq_iff_eq] at this
  exact this

/-- AbstractMachineSteps: a store that may ENTER; a load that may be TAKEn, from a block of the L1, or SENT, and one whose byte has an error;
an AMO that may be SENT; a store in the core's queue. -/
theorem wit_accesses :
    (let f := { flow0 with sb := [acc0] }
     let s := machine f
     s.flow? key0 = some f ∧ f.sb[0]? = some acc0 ∧ (s.settleFences key0 0).flow? key0 = some f ∧ acc0.load = false ∧
       (s.settleFences key0 0).mayLeave f acc0 = true ∧ (s.settleFences key0 0).replayOf f = false ∧ acc0.addr % 8 = 0) ∧
    (let s := sTake lacc0
     let t := s.settleFences key0 0
     s.flow? key0 = some s.me ∧ s.me.sb[0]? = some lacc0 ∧ t.flow? key0 = some s.me ∧ lacc0.load = true ∧ t.loadMayGo s.me lacc0 = true ∧
       t.canTake s.me lacc0 = true ∧ s.me.coversLoad lacc0 = false ∧ t.defer? key0 0 = some waits0) ∧
    (let s := { sTake lacc0 with bad := [tcmBase], tenants := (sHandler flow0).tenants }
     let t := s.settleFences key0 0
     t.flow? key0 = some s.me ∧ t.loadMayGo s.me lacc0 = true ∧ t.canTake s.me lacc0 = true ∧ key0 = s.me.key ∧ (t.accErr lacc0).isSome = true ∧
       t.defer? key0 0 = some waits0 ∧ s.me.status3.getLsbD 2 = false ∧ (t.ten s.me.tenant).tvec ≠ 0) ∧
    ((sTake aacc0).settleFences key0 0).amoMayGo (sTake aacc0).me aacc0 amo0 = true ∧ Claims.ownPlace aacc0.addr ∧
    ({ flow0 with cq := [acc0] } : Flow).cq = acc0 :: [] := by
  have h : regionOf aacc0.addr = .tcm 0 0 := by decide +kernel
  refine ⟨by decide +kernel, by decide +kernel, by decide +kernel, by decide +kernel, ?_, by decide +kernel⟩
  unfold Claims.ownPlace; rw [h]; trivial

theorem wit_reads_well : Claims.accessMay ((sTake lacc0).settleFences key0 0) lacc0 ∧ Claims.accessMay (sLoad [.tcm 0] lacc0) lacc0 ∧
    Claims.accessMay (sLoad [.tcm 0] aacc0) aacc0 :=
  ⟨reads_well (by decide +kernel), reads_well (by decide +kernel), reads_well (by decide +kernel)⟩

/-- A load, an AMO and a store at the last queue of their path, one with a queue to go; a block that may drop, a dirty byte of a reached peer. -/
theorem wit_flights :
    (∀ a ∈ [lacc0, aacc0], let s := sLoad [.tcm 0] a
     s.net[0]? = some ⟨[.tcm 0], a, .flow key0 0⟩ ∧ s.headsQueue 0 ⟨[.tcm 0], a, .flow key0 0⟩ = true ∧ s.flow? key0 = some flow0 ∧ a.load = true ∧
       s.defer? key0 a.seq = some waits0 ∧ waits0.left = 1 ∧ s.watches = [] ∧ a.key < 256 ∧ a.size = 4 ∧ a.addr % a.size = 0 ∧ s.peerCopies = []) ∧
    (let s := sLoad [.tcm 0] acc0
     s.net[0]? = some ⟨[.tcm 0], acc0, .flow key0 0⟩ ∧ s.headsQueue 0 ⟨[.tcm 0], acc0, .flow key0 0⟩ = true ∧ s.homeLost acc0.addr = none ∧ s.watches = [] ∧ acc0.key < 256) ∧
    (let s := sLoad [.dieLink 0 1, .slice 1 0] acc0
     s.net[0]? = some ⟨[.dieLink 0 1, .slice 1 0], acc0, .flow key0 0⟩ ∧ s.headsQueue 0 ⟨[.dieLink 0 1, .slice 1 0], acc0, .flow key0 0⟩ = true) ∧
    (sTake lacc0).canDrop 0 tcmBase = true ∧
    (let p := 0x4000000000000 + 7 * 2 ^ 40 + 5
     let c : PeerByte := ⟨p, 0, 9, true, [], [], 0, 5, 1, 1⟩
     let s : State := { machine flow0 with
       peerCopies := [c]
       dev := { dev0 with domEn := true, peers := [⟨7, [0], [(5, 0, 64)]⟩], ports := dev0.ports.set 0 ⟨true, 0, 0, 0⟩ } }
     s.peerByte? p 0 = some c ∧ regionOf p = .peer 7 5 ∧ s.dev.domEn = true ∧ s.dev.reaches 7 = true ∧ s.dev.peerServes 7 c.tag 5 = true ∧ s.net = [] ∧ s.badCache = [] ∧
       ({ dev0 with domEn := false } : Device).domEn = false ∧ dev0.elEn = false) := by decide +kernel

theorem wit_own_place : Claims.ownPlace acc0.addr ∧ Claims.l1Uniq (sTake lacc0) := by
  have h : regionOf acc0.addr = .tcm 0 0 := by decide +kernel
  refine ⟨?_, List.pairwise_singleton _ _⟩
  unfold Claims.ownPlace; rw [h]; trivial

/-- A load of a vector word under way: what arrives of a group of two elements. -/
theorem wit_delivered : let d : Defer := { waits0 with vec := some ⟨5, 15, 0, [(0, [tcmBase]), (0, [tcmBase + 1])]⟩, before := { flow0 with vl := 2 } }
    (∀ e, d.vec = some e → e.elems.length = d.before.vlN - e.start) ∧ flow0.v.length = 48 ∧ flow0.view = d.before.view := by
  refine ⟨?_, by decide +kernel, by decide +kernel⟩
  intro e h; cases h; decide +kernel

/-- A leaf of 1 GiB for addresses from 0 on, through three tables at 0x8000, 0x9000 and 0xA000, its D bit clear. -/
def sPages : State :=
  { featured flow0 with
    mem := [(0x8000, 0x01), (0x8001, 0x90), (0x9000, 0x01), (0x9001, 0xA0), (0xA000, 0x1F)]
    tenants := (featured flow0).tenants.modify 1 (fun t => { t with ptroot := 0x8000 }) }

def okWalk (r : Except XErr (Nat × Nat × Nat)) (w : Nat × Nat × Nat) : Bool :=
  match r with
  | .ok x => x == w
  | .error _ => false
def errWalk (r : Except XErr (Nat × Nat × Nat)) : Bool :=
  match r with
  | .ok _ => false
  | .error _ => true

/-- A walk that finds its leaf and one that does not; an access through it gives the physical address, its D bit to be set. -/
theorem wit_walk : okWalk (sPages.walk 0 1 0x123456) (0x1F, 0xA000, 2 ^ 30) = true ∧ errWalk (sPages.walk 0 1 0x40000000) = true ∧
    okXl (sPages.access (sPages.ctx sPages.me) 0x123456 .w) ⟨0x123456, 0, 0, 0, 0xA000, true, false⟩ = true ∧
    errXl (sPages.access (sPages.ctx sPages.me) 0x40000000 .w) (6, 2) = true := by decide +kernel

/-! ### Engines -/

/-- A copy of 8 bytes within the launch's scratchpad, with the flow's tag 3, events at both points; its chunk as a lane takes it, with its
read sent, its bytes there, its write sent, and a failure. -/
def copy0 : Copy := newCopy 3 (.stream [8] [] 0x1FFFFFFFF800000) .move 0x1FFFFFFFF800100 8 0x7000000002000 1 1
def spmAt (o : Nat) : Xl := ⟨spmBase + o, 0, 0, 0, 0, false, false⟩
def chunk0 : Chunk := ⟨0, 8, 0x1FFFFFFFF800000, some (spmAt 0), 0x1FFFFFFFF800100, spmAt 0x100, [(0, 8)], [], [(0, 8)], none⟩
def chunkIn : Chunk := { chunk0 with reads := [], got := (List.range 8).map (fun i => (i, BitVec.ofNat 8 i)) }
def copyAt (k : Chunk) : Copy := { copy0 with next := 8, begun := [(0, 8)], chunks := [k] }

def eCtx : Ctx := ⟨1, false, none, 0, 0, 4096⟩

def job0 (c : Copy) : Job := ⟨1, 0, 0, 1, key0, eCtx, .copy c⟩

def sJob (c : Copy) : State := { featured { flow0 with ctags := flow0.ctags.set 3 .active } with jobs := [job0 c], nextId := 2 }

/-- The read of the chunk on its way, at its bank. -/
def readOut : Access := ⟨true, 0, 0, spmBase, 0, 0, 0, 0, 8, false, false, 0x1FFFFFFFF800000, 0, false, none⟩
def bank0 : QueueId := .bank 0 0
def sReadOut : State := { sJob (copyAt { chunk0 with reads := [] }) with net := [⟨[bank0], readOut, .job 1⟩] }

/-- CopiesProceed: a command to accept, and what a job of the flow asks of the machine in every clause. -/
theorem wit_accept :
    (let e : EqEnt := ⟨.stream 3 [8] [] 0x1FFFFFFFF800000 0x1FFFFFFFF800100 0x7000000002000 1 1, eCtx, 0⟩
     let f := { flow0 with eq := [e] }
     let s := featured f
     s.flow? key0 = some f ∧ s.engineFree key0 = true ∧ s.orderLets f 0 = true ∧ e.cmd.toCopy = some copy0 ∧
       (s.copies f.loc.clusterIdx).length < 64 ∧ f.ctags.getD copy0.tag .free = .free ∧ s.jobs = []) ∧
    ∀ c ∈ [copy0, copyAt chunk0, copyAt chunkIn, { copyAt chunkIn with phase := .lock }, { copyAt chunkIn with phase := .retry }],
      (sJob c).job? 1 = some (job0 c) ∧ (sJob c).engineFree (job0 c).flow = true ∧ ∀ x ∈ c.chunks, x.err = none := by
  decide +kernel

/-- CopiesProceed: a lane takes a chunk, sends a read, and a write; the copy ends; the read brings its bytes. -/
theorem wit_copies :
    (let s := sJob copy0
     let t (o : Nat) := State.orDirty { s with freeCtr := s.freeCtr + 3 } eCtx (0x1FFFFFFFF800100 + o)
     copy0.phase = .move ∧ copy0.readsLeft = [] ∧ s.laneFree (job0 copy0) copy0 = true ∧ copy0.held = [] ∧ s.dev.dieLost = 0 ∧
       copy0.gaps = [0] ∧ ∀ o < 8, copy0.source o = (some (0x1FFFFFFFF800000 + o), 8 - o) ∧
       okXl ((t o).access eCtx (0x1FFFFFFFF800100 + o) .w) (spmAt (0x100 + o)) = true ∧
       okXl ((t o).access eCtx (0x1FFFFFFFF800000 + o) .r) (spmAt o) = true) ∧
    ((copyAt chunk0).readsLeft ≠ [] ∧ (sJob (copyAt chunk0)).laneFree (job0 (copyAt chunk0)) (copyAt chunk0) = false ∧
      ∀ q ∈ (copyAt chunk0).readsLeft, q.1.src ≠ none) ∧
    (copyAt chunkIn).writesLeft ≠ [] ∧
    (let c := copyAt { chunkIn with writes := [] }
     c.next = c.total ∧ (∀ x ∈ c.chunks, x.arrived = true ∧ x.writes = []) ∧ c.form = .stream [8] [] 0x1FFFFFFFF800000) ∧
    sReadOut.net[0]? = some ⟨[bank0], readOut, .job 1⟩ ∧ sReadOut.headsQueue 0 ⟨[bank0], readOut, .job 1⟩ = true ∧ readOut.load = true := by
  decide +kernel

theorem wit_copy_read : Claims.accessMay sReadOut readOut := reads_well (by decide +kernel)

/-- CopiesProceed: a failure met; each point; a lock to be tried again. -/
theorem wit_copy_ends :
    (let c := { copyAt chunkIn with rel := 0 }
     (sJob c).job? 1 = some (job0 c) ∧ (sJob c).flow? key0 = some (sJob c).me ∧ c.next = c.total ∧ c.released = false) ∧
    (let c := copyAt { chunk0 with err := some (2, 0x1FFFFFFFF800000) }
     (sJob c).flow? key0 = some (sJob c).me ∧ c.chunks.findSome? (fun x => x.err) = some (2, 0x1FFFFFFFF800000) ∧ c.lock = none) ∧
    (let c := copyAt chunkIn
     c.phase = .move ∧ c.next = c.total ∧ (∀ x ∈ c.chunks, x.arrived = true) ∧ c.released = false ∧ c.rel = 1 ∧ (sJob c).net = []) ∧
    (let c := { copyAt { chunkIn with writes := [] } with phase := .done, released := true }
     c.rel = 1 ∧ c.vis = 1 ∧ (sJob c).jobPerformed 1 c.scope = true ∧ (sJob c).flow? key0 = some (sJob c).me) := by
  decide +kernel

/-- A copy that waits for the lock of the table at 0x40 of the scratchpad, which is free, or held by another. -/
def copyLock : Copy := newCopy 3 (.walk 0x1FFFFFFFF800040 0 1 0 0 0 []) .lock 0x1FFFFFFFF800100 0 0x7000000002000 1 1
def sLock (n : Byte) : State := withSpm (sJob copyLock) (List.replicate 0x68 0 ++ [n])

def okXls2 (r : Except (Nat × Nat) (List Xl)) (xs : List Xl) : Bool :=
  match r with
  | .ok y => y == xs
  | .error _ => false

/-- CopiesProceed: the lock taken, and refused. -/
theorem wit_lock : ∀ n ∈ [(0 : Byte), 7], let s := sLock n
    let ys := (List.range 8).map (fun i => spmAt (0x68 + i))
    s.job? 1 = some (job0 copyLock) ∧ copyLock.phase = .lock ∧ copyLock.desc = some 0x1FFFFFFFF800040 ∧ s.net = [] ∧ s.watches = [] ∧
      s.jobs = [job0 copyLock] ∧ copyLock.lock = none ∧
      okXls2 (s.jobXls (job0 copyLock) 0x1FFFFFFFF800068 8 .r) ys = true ∧ okXls2 (s.jobXls (job0 copyLock) 0x1FFFFFFFF800068 8 .w) ys = true ∧
      (spmAt 0x68).dClear = false ∧ (spmAt 0x68).pa % 8 = 0 ∧ natLE (s.keyBytes (spmAt 0x68).pa (spmAt 0x68).key 8) = n.toNat := by
  decide +kernel

/-- An entry that moves 64 bytes from 0x4000 into the scratchpad at 0x200: Queued, Running with a chunk in hand or none, and at its end. -/
def ent0 (st moved : Nat) (lane : Option Lane) : TtEnt := ⟨0, st, 0, 1, 0, 8, false, 0x4000, 64, 0x200, false, false, 0, 0, moved, lane, 0, false, false⟩
def homeAt (a : Nat) : Xl := ⟨a, 0, 0, 0, 0xA000, true, false⟩

def bindOf (mode : Nat) (es : List TtEnt) (chk : Option Nat) : Binding := ⟨0x1000, 1, mode, es, es.length, [], 0, 0, chk, false, [], false, false, eCtx⟩

def sEnt (b : Binding) : State :=
  { sPages with me := { sPages.me with tt := some b } }

def okMove (r : Except Nat State) : Bool :=
  match r with
  | .ok _ => true
  | .error _ => false

/-- EnginesProceed: a line to read, an entry to start, to take a chunk of, to move, to fail and to end, and a check with nothing missed, and with
an entry missed in trap mode. -/
theorem wit_timetable_engine :
    (let b := bindOf 1 [] none
     (sEnt b).flow? key0 = some (sEnt b).me ∧ (sEnt b).engineFree key0 = true ∧ b.stopping = false ∧ b.next < b.count ∧ b.next < b.lowUnchecked + 65 ∧
       (sEnt b).net = []) ∧
    (let b := bindOf 1 [ent0 3 0 none] none
     b.ents.find? (fun x => x.idx == 0) = some (ent0 3 0 none) ∧ (sEnt b).ttReady (sEnt b).me b (ent0 3 0 none) = true) ∧
    (let e := ent0 4 0 none
     let b := bindOf 1 [e] none
     b.moves e = true ∧ e.moved < e.len ∧ e.lane = none ∧ (sEnt b).me.saving = false ∧ e.inward = true ∧
       okXl ((sEnt b).access eCtx 0x4000 .r) (homeAt 0x4000) = true) ∧
    (let e := ent0 4 8 (some ⟨0, 64, homeAt 0x4000⟩)
     let b := bindOf 1 [e] none
     b.moves e = true ∧ e.moved < e.len ∧ (sEnt b).net = [] ∧ okMove ((sEnt b).ttPiece (sEnt b).me eCtx e.tier (e.doff + 8) (homeAt 0x4008) 8 true) = true ∧
       okMove (State.ttPiece { sEnt b with bad := [0x4008] } (sEnt b).me eCtx e.tier (e.doff + 8) (homeAt 0x4008) 8 true) = false) ∧
    (ent0 4 64 none).len ≤ (ent0 4 64 none).moved ∧ (ent0 4 64 none).inward = true ∧
    (let b := bindOf 1 [ent0 5 64 none] (some 1)
     b.check = some 1 ∧ b.readFor 1 = true ∧ b.begun = false ∧ (∀ e ∈ b.checked 1, e.st = 5 ∨ e.st = 6) ∧ (b.ents.map (fun e => e.idx)).Nodup) ∧
    (let b := bindOf 0 [ent0 4 8 none] (some 1)
     b.readFor 1 = true ∧ b.mode = 0 ∧ (∃ e ∈ b.checked 1, e.st ≠ 5 ∧ e.st ≠ 6)) ∧
    Claims.handled { sEnt (bindOf 0 [ent0 4 8 none] (some 1)) with tenants := (sHandler flow0).tenants } := by
  unfold Claims.handled; decide +kernel

/-- A byte's move has a price that no two homes exceed. -/
theorem movePrice_le (cl h t pa : Nat) : movePrice cl h t pa ≤ 2 * (priceHbm + priceL2 + priceSpm) + 2 * priceDie := by
  have hp (n : Nat) : tierPrice n ≤ priceHbm + priceL2 + priceSpm := by unfold tierPrice; split <;> (try split) <;> omega
  have h1 := hp (tierOf h)
  have h2 := hp t
  unfold movePrice
  dsimp only
  split <;> split <;> (try split) <;> omega

/-- The entry's charge fits its tenant's window whichever die its home lies on. -/
theorem wit_timetable_fits : let b := bindOf 1 [ent0 3 0 none] none
    (sEnt b).ttFits (sEnt b).me b (ent0 3 0 none) = true := by
  intro b
  have cuts : allCuts (ent0 3 0 none).va.toNat ((sEnt b).localPa b.ctx (ent0 3 0 none).tier (ent0 3 0 none).doff) (ent0 3 0 none).len = [(0, 64)] := by
    decide +kernel
  have ok : okXl ((sEnt b).translate b.ctx ((ent0 3 0 none).va.toNat + 0) .r) (homeAt 0x4000) = true := by decide +kernel
  have room : 64 * (2 * (priceHbm + priceL2 + priceSpm) + 2 * priceDie) ≤ ((sEnt b).ten (sEnt b).me.tenant).enbudget * 10 ^ 9 := by decide +kernel
  unfold State.ttFits State.ttCharge
  simp only [cuts, List.map_cons, List.map_nil, okXl_eq ok, Bool.or_eq_true, decide_eq_true_eq]
  refine .inr (Nat.le_trans ?_ room)
  show 0 + 64 * _ ≤ _
  rw [Nat.zero_add]
  exact Nat.mul_le_mul_left _ (movePrice_le _ _ _ _)

/-- The build of the plan as PLAN leaves it: an index word to read; all read and in its range; its watched word written; out of bounds. -/
def built (b : Build) : State := { sPlan1 with jobs := [⟨1, 0, 0, 1, key0, eCtx, .build b⟩] }
def build0 : Build := ⟨0, false, none, [], [], [], none⟩

theorem wit_build :
    (built build0).job? 1 = some ⟨1, 0, 0, 1, key0, eCtx, .build build0⟩ ∧ (built build0).engineFree key0 = true ∧ (built build0).net = [] ∧
    (built build0).builds ⟨1, 0, 0, 1, key0, eCtx, .build build0⟩ build0 = some plan0 ∧
    (build0.nextRead ((built build0).pSources plan0) ((built build0).buildBound plan0)).isSome = true ∧
    (match (built build0).idxBytes eCtx 0x1FFFFFFFF800000 4 0 with | .ok bs => bs == [2, 0, 0, 0] | .error _ => false) = true ∧
    (∀ b ∈ [{ build0 with outer := [2, 0, 2, 1] }, { build0 with outer := [2, 0, 2, 1], hit := true }, { build0 with err := some (9, 1, 0) }],
      (b.nextRead ((built b).pSources plan0) ((built b).buildBound plan0)).isNone = true) ∧
    (match ({ build0 with outer := [2, 0, 2, 1] } : Build).result ((built build0).pSources plan0) with
      | .ok l => l == [2, 0, 2, 1] && decide (Claims.sizeOf l.length ≤ (built build0).pSize plan0)
      | .error _ => false) = true ∧
    (match ({ build0 with err := some (9, 1, 0) } : Build).result ((built build0).pSources plan0) with | .ok _ => false | .error _ => true) = true := by
  decide +kernel

/-- A row of one word to the scratchpad at 0x40, counted at 8, its header good; of another round; for a page no launch holds; for a lost die;
written; and answered. -/
def row0 (hdr : Nat) (dst : Word) (st : RowSt) : Row := ⟨1, key0, 1, BitVec.ofNat 64 hdr, dst, [1, 2, 3, 4, 5, 6, 7, 8], st⟩
def sRowed (r : Row) : State := { featured flow0 with rows := [r], nextId := 2 }
def dst0 : Word := BitVec.ofNat 64 (0x40 * 2 ^ 22 + 8)

theorem wit_rows :
    (let r := row0 (rowHeader 0 0 0) dst0 .sent
     (sRowed r).rows.find? (fun q => q.id == r.id) = some r ∧ (sRowed r).engineFree r.sender = true ∧ dstDev r.dst = (sRowed r).dev.domDev.toNat ∧
       (sRowed r).spmAllocated 1 (dstDie r.dst) (dstRow r.dst) 16 = true ∧ (sRowed r).spmAllocated 1 (dstDie r.dst) (dstCtr r.dst) 8 = true ∧
       (sRowed r).dev.dieLost.getLsbD (dstDie r.dst) = false ∧ rowCrc r.hdr.toNat = r.hdr.toNat % 256 ∧ r.hdr.toNat / 2 ^ 22 % 128 = 0 ∧
       natLE ((sRowed r).keyBytes (dstBase r.dst + dstCtr r.dst) 0 8) / 2 ^ 57 % 128 = 0) ∧
    rowCrc 1 ≠ 1 % 256 ∧
    (let h := BitVec.ofNat 64 (rowHeader 0 0 (9 * 2 ^ 22))
     h.toNat / 2 ^ 22 % 128 = 9 ∧ rowCrc h.toNat = h.toNat % 256) ∧
    (sRowed (row0 0 0 .sent)).spmAllocated 1 0 0x1000 16 = false ∧
    ({ dev1 with dieLost := 1 } : Device).dieLost.getLsbD (dstDie dst0) = true ∧
    dstDev (dst0 + 2 ^ 54) ≠ dev1.domDev.toNat ∧ dev1.domEn = false ∧
    (let r := row0 (rowHeader 0 0 0) dst0 .written
     (∀ fl ∈ (sRowed r).net, fl.origin ≠ .row r.id) ∧ (sRowed r).watches = [] ∧ r.st = .written) ∧
    (row0 0 0 (.answered 1)).st = .answered 1 ∧ ((sRowed (row0 0 0 (.answered 1))).flow? key0).isSome = true ∧
    (let f := { flow0 with eq := [⟨.row 0 dst0 [], eCtx, 0⟩] }
     (featured f).flow? key0 = some f ∧ (featured f).engineFree key0 = true ∧ (featured f).orderLets f 0 = true ∧ f.log.pending < 64) := by
  decide +kernel

/-! ### Tasks, launches, contexts -/

def fIdle : Flow := { flow0 with status := .idle, vgnt := 0 }

/-- A Ready task of the launch, and it Running. -/
def task0 (st : TaskSt) : Task := ⟨0, 5, 1, st, 0x1FFFFFFFFFC0400, 77, 1, 1, 0, 0, 1, [], 0, 0, none, 3⟩

def sTaskReady : State := { machine fIdle with tasks := [task0 .ready] }

/-- A flow at the return sentinel, its task Running. -/
def fEnd : Flow := { flow0 with pc := 0xFFFFFFFFFFFFFFF0, task := BitVec.ofNat 64 (2 ^ 16 + 5) }

def sEnd : State := { machine fEnd with tasks := [task0 .running] }

def sSent (n : Nat) : State := { machine { flow0 with events := List.replicate n (7, 4) } with evFlight := [⟨key0, 9, 4⟩] }

/-- The launch's flow has arrived at the group's next instance. -/
def sArr : State := { s0 with launches := [{ launch1 with groups := [(3, 0)], barArr := [((0, 3), 1)] }] }

/-- Replay: the flow's quantum has ended. -/
def sQuantum : State := { machine { flow0 with qEnd := true } with tenants := State.reset.tenants.set 1 { ten1 with replay := true } }

/-- TasksRunEndAndAreSaved: dispatch, the end of a task, a record with room and without, a barrier reached, a boundary due. -/
theorem wit_task_runs :
    sTaskReady.nextTask 0 = some (task0 .ready, fIdle) ∧ sTaskReady.flow? fIdle.key = some fIdle ∧ sTaskReady.launch? (task0 .ready).launch = some launch1 ∧
    sEnd.flow? key0 = some fEnd ∧ fEnd.status = .running ∧ fEnd.pc = 0xFFFFFFFFFFFFFFF0 ∧ fEnd.point = none ∧ sEnd.wordsDone fEnd = true ∧
    sEnd.engineFree key0 = true ∧ fEnd.tt = none ∧ sEnd.tasks.find? (fun x => x.st == .running && x.handle == fEnd.task) = some (task0 .running) ∧
    (task0 .running).done = 0 ∧
    (sSent 0).evFlight[0]? = some ⟨key0, 9, 4⟩ ∧ (sSent 0).flow? key0 = some (sSent 0).me ∧ (sSent 0).me.events.length < 32 ∧
    (sSent 32).flow? key0 = some (sSent 32).me ∧ 32 ≤ (sSent 32).me.events.length ∧
    (∃ l ∈ sArr.launches, sArr.launch? 1 = some l ∧ (3, 0) ∈ l.groups ∧ ∀ p ∈ l.groups, p.1 = 3 → aget l.barDone 3 0 < aget l.barArr (p.2, 3) 0) ∧
    Claims.calm sArr ∧ sQuantum.boundaryDue 1 = true ∧ (∃ f ∈ sQuantum.flows, f.tenant = 1 ∧ f.status ≠ .free) := by
  unfold Claims.calm; decide +kernel

/-- A flow asked to save at its LOOPV's next strip; one that is asked and stands at no point; an arena without room. -/
def arened (f : Flow) : State := { machine f with tenants := State.reset.tenants.set 1 { ten1 with arena := 2 ^ 40 } }
def sPre : State := arened { (withS flow0 [(5, 0x55)]) with preq := true, point := some .setvl }
def sForce : State := arened { flow0 with preq := true }
def sFull : State := machine sPre.me

/-- TasksRunEndAndAreSaved: a save at a point with room and without, and a forced one. -/
theorem wit_saves :
    sPre.flow? key0 = some sPre.me ∧ sPre.me.preq = true ∧ sPre.me.tt = none ∧ sPre.me.pointOf = some .setvl ∧ sPre.me.holdsTag = false ∧
    sPre.saveReady sPre.me = true ∧ sPre.saveRoom sPre.me .setvl = some 0 ∧ sFull.saveRoom sFull.me .setvl = none ∧ sPre.me.cq = [] ∧ sPre.watches = [] ∧ sPre.me.s.length = 32 ∧
    sForce.flow? key0 = some sForce.me ∧ sForce.me.status = .running ∧ sForce.me.point = none ∧ sForce.me.pc ≠ 0xFFFFFFFFFFFFFFF0 ∧
    sForce.saveReady sForce.me = true ∧
    ((sForce.modFlow key0 Flow.loseTags).saveRoom sForce.me.loseTags .forced).isSome = true := by decide +kernel


def stateOf (r : Res) : State :=
  match r with
  | .next u => u
  | _ => s0

/-- The first as its save leaves it. -/
def sSaved : State := stateOf (execEvPreemptSave key0 sPre)

/-- TasksRunEndAndAreSaved: the saved flow can resume, and its record is as the save wrote it. -/
theorem wit_resume : (match sSaved.nextResume with
    | some (r, p) => r.key == key0 && (sSaved.flow? key0).isSome && (sSaved.launch? 1).isSome &&
        (let bs := sSaved.recordOf r
         natLE ((bs.drop 0x70).take 8) == 0 && vtypeBad (BitVec.ofNat 64 (natLE ((bs.drop 0x30).take 8))) == false &&
           natLE ((bs.drop (0x80 + 8 * 5)).take 8) == 0x55) && p.core == 0
    | none => false) = true ∧ (∀ f ∈ sSaved.flows, f.busy = [] ∧ f.tt = none) := by decide +kernel

/-- ContextsAreSetAndEnded: the same flows there; a boundary with a flow in it. -/
theorem wit_context_runs : sPre.me.holdsTag = false ∧ sPre.net = [] ∧ sForce.me.preq = true ∧ sForce.me.tt = none ∧ sQuantum.boundaryDue 1 = true ∧
    s0.replayQ = [] := by decide +kernel

/-- Bytes with some set. -/
def putAt (bs : List Byte) (xs : List (Nat × Byte)) : List Byte := xs.foldl (fun b p => b.set p.1 p.2) bs

/-- A launch record of n flows on die 0, its descriptor at 0xB000, LGREQ 1; one whose descriptor's address is no multiple of 64. -/
def lrec0 (n : Byte) : List Byte := putAt (List.replicate 64 0) [(1, 0xB0), (0x20, n), (0x3C, 0x80)]
def lrecBad : List Byte := putAt (lrec0 1) [(0, 1)]

def ten2 (q : List (List Byte)) (x : Tenant) : Tenant := { x with queue := q }

/-- The descriptor there: entry 0x400, VLLO 1, VLHI 8. -/
def sQueue (q : List (List Byte)) : State :=
  { sPages with mem := sPages.mem ++ [(0xB001, 4), (0xB00E, 0x81)], tenants := sPages.tenants.modify 1 (ten2 q), nextId := 2 }

/-- The tenant has one core, one of whose flows is taken. -/
def sScant : State :=
  let s := sQueue [lrec0 16]
  { s with tenants := s.tenants.modify 1 (fun x => { x with part := x.part.zipIdx.map (fun p => if p.2 = 0 then p.1 else 0) }) }

def placed (r : Route) (t : Nat) : Bool :=
  match r with
  | .place _ _ _ _ ls => t == 0 && ls.length == 1
  | .refuse _ _ n => t == 1 && n == 1
  | .lacks _ _ => t == 2
  | .wait => t == 3

/-- LaunchRecordsAreQueuedPlacedAndEnded: a port with room and without; a head placed, refused, short of flows, and none; a launch of idle flows. -/
theorem wit_launches : (s0.ten 1).queue.length < 64 ∧ 64 ≤ ((sQueue (List.replicate 64 (lrec0 1))).ten 1).queue.length ∧ (lrec0 1).length = 64 ∧
    ((sQueue [lrec0 1]).ten 1).live = true ∧ ((List.range 4).all (fun p => p == 0 || !((sQueue [lrec0 1]).routeHead 1 p).acts)) = true ∧
    placed ((sQueue [lrec0 1]).routeHead 1 0) 0 = true ∧ (sQueue [lrec0 1]).savedFirst 0 = false ∧
    (match (sQueue [lrec0 1]).routeHead 1 0 with | .place _ r _ _ ls => !r.roots && ls.all (fun p => ((sQueue [lrec0 1]).freeEntry p.die).isSome) | _ => false) = true ∧
    placed ((sQueue [lrecBad]).routeHead 1 0) 1 = true ∧ (lrecOf lrecBad).done = 0 ∧ placed (sScant.routeHead 1 0) 2 = true ∧
    (sScant.flows.map (·.key)).Nodup ∧ placed ((sQueue []).routeHead 1 0) 3 = true ∧
    (machine fIdle).launch? 1 = some launch1 ∧ (machine fIdle).launchBusy launch1 = false ∧ Claims.still (machine fIdle) ∧ launch1.done = 0 := by
  unfold Claims.still; decide +kernel

/-- A tenant's record that may be set live, under key 5 for its tables. -/
def sDead (n : Nat) : State :=
  { machine flow0 with tenants := (machine flow0).tenants.set 2 { Tenant.init with wbase := 0x2000000, wlimit := 0x3000000, ptroot := 5 * 2 ^ 52, keys := 5, share := n } }


/-- ContextsAreSetAndEnded: a tenant that may be set live, one that may not, one to end; a request for tenant 1 and for none. -/
theorem wit_contexts : ((1 : Word).getLsbD 3 = false ∧ (1 : Word).getLsbD 0 = true ∧ ((sDead 0).ten 2).live = false ∧ (sDead 0).liveOk 2 = true) ∧
    ({ sDead 0 with tenants := (sDead 0).tenants.modify 2 (fun x => { x with wlimit := 0 }) } : State).liveOk 2 = false ∧
    ((9 : Word).getLsbD 3 = true ∧ (s0.ten 1).live = true ∧ Claims.still s0) ∧
    (∀ l ∈ s0.launches, l.tenant = 1) ∧ s0.flow? key0 = some s0.me ∧ s0.me.status = .running ∧ s0.me.tenant = 1 ∧ (2 : Word).getLsbD s0.me.tenant = true ∧
    (1 : Word).getLsbD s0.me.tenant = false := by
  unfold Claims.still; decide +kernel

/-- RegisterWritesReachTheirRegisters: a boot that failed and one that did not, HDM enabled and not, offsets that no rule lists, every tenant live and
none. -/
theorem wit_registers : ({ dev0 with bootResult := 1 } : Device).bootResult ≠ 0 ∧ s0.dev.bootResult = 0 ∧ s0.dev.hdmEn = false ∧
    ({ dev0 with hdmEn := true } : Device).hdmEn = true ∧ (1 : Word).getLsbD 0 = true ∧ (0 : Word).getLsbD 0 = false ∧ (∃ x ∈ s0.tenants, x.live = true) ∧
    (3 : Word).toNat ∉ [0, 2, 4, 6, 8] ∧ (∀ x ∈ State.reset.tenants, x.live = false) ∧ (8 : Word).toNat ∈ [0, 2, 4, 6, 8] := by
  decide +kernel

/-! ### The host and the device -/

def shoot0 : Shoot := ⟨0x5000, 2, 3, 9, false⟩

/-- Shootdowns queued for tenant 1, n of them. -/
def sShoot (n : Nat) : State := { s0 with tenants := s0.tenants.modify 1 (fun x => { x with sdq := List.replicate n shoot0 }) }

/-- A command of 32 bytes for two pages at 0x5000, and one whose address is unaligned. -/
def shootCmd : List Byte := putAt (List.replicate 32 0) [(1, 0x50), (8, 2)]

/-- HDM of 1 GiB from 0 on, its bias table at 0x100000, the link up; and its first page in host bias. -/
def devHdm : Device := { dev1 with hdmEn := true, hdmSize := 1, biasBase := 0x100000, hostUp := true, hostCxl := true }
def sHdm : State := { s0 with dev := devHdm }
def sHostBias (cs : List BiasCmd) : State := { sHdm with mem := [(0x100000, 1)], coh := { Coherence.init with holders := [0x40], flips := cs } }

/-- A flip of the page at 0x1000, started, with a line to wait for and without. -/
def flip0 (ws : List Nat) : BiasCmd := ⟨0x1000, false, 7, true, ws⟩

/-- HostCommandsTakeEffect: a shootdown bad, without room and with; at the head; a flip likewise; the enables; repairs of each kind. -/
theorem wit_host_commands : shootCmd.length = 32 ∧ recNat shootCmd 0 8 % 4096 = 0 ∧ recNat shootCmd 12 4 / 16 = 0 ∧ recNat shootCmd 24 8 = 0 ∧
    recNat (shootCmd.set 0 1) 0 8 % 4096 ≠ 0 ∧ 16 ≤ ((sShoot 16).ten 1).sdq.length ∧ ((sShoot 1).ten 1).sdq = shoot0 :: [] ∧ Claims.calm (sShoot 1) ∧
    (∀ f ∈ (sShoot 1).flows, f.tenant = 1 → f.tt = none) ∧ (sShoot 1).jobs = [] ∧ ((sShoot 2).ten 1).sdq = shoot0 :: [shoot0] ∧ (s0.ten 1).sdq = [] ∧
    1 < s0.tenants.length ∧ (∀ e ∈ (bind0 false none).ents, e.lane = none) ∧ (sTt (some (bind0 false none))).me.tenant = 1 ∧
    (let p := recNat (bytesLE 8 0x1000 ++ bytesLE 8 7) 0 8
     p = p % 2 ^ 52 / 4096 * 4096 + p % 2 ∧ devHdm.inHdm (p % 2 ^ 52 / 4096 * 4096) = true) ∧ dev0.inHdm 0x1000 = false ∧
    sHdm.coh.flips = [] ∧ 16 ≤ (sHostBias (List.replicate 16 (flip0 []))).coh.flips.length ∧ (sHostBias [flip0 []]).coh.flips = flip0 [] :: [] ∧
    (¬Claims.feature s0 6 ∧ Claims.feature sHdm 6 ∧ sHdm.dev.hostCxl = true ∧ sHdm.dev.hdmEn = true) ∧
    (let d := { devHdm with hdmEn := false }
     Claims.feature { s0 with dev := d } 6 ∧ d.hostCxl = true ∧ d.hdmEn = false) ∧
    (2 ^ 63 : Word).getLsbD 63 = true ∧ (0 : Word).getLsbD 63 = false ∧ ¬Claims.feature s0 7 ∧ Claims.feature sHdm 7 ∧ dev0.elEn = false ∧
    ({ dev0 with repairs := [⟨0x2000, true, 5⟩] } : Device).repairs = ⟨0x2000, true, 5⟩ :: [] := by
  unfold Claims.calm Claims.feature; decide +kernel

/-- HostReachesDeviceMemory: a line served, in host bias and in device bias; a line not served; an answer to a flip that waits and to none; a snoop. -/
theorem wit_host_memory : Claims.served sHdm 0x40 ∧ sHdm.net = [] ∧ (∀ i, i < 8 → sHdm.dataBad (0x40 + 8 * i) = none) ∧ sHdm.hostBias 0x40 = false ∧ sHdm.watches = [] ∧
    Claims.served (sHostBias []) 0x40 ∧ (sHostBias []).hostBias 0x40 = true ∧ s0.hostServed (0x40 / 64 * 64) = false ∧
    (sHostBias []).held 0x40 = true ∧ sHdm.held 0x40 = false ∧
    (let s := sHostBias [⟨0, false, 7, true, [0x40]⟩]
     s.held 0x40 = true ∧ s.coh.flips = ⟨0, false, 7, true, [0x40]⟩ :: [] ∧ 0x40 ∈ [0x40]) ∧
    s0.dev.hostCxl = false ∧ sHdm.dev.hostCxl = true ∧ (∀ i, i < 8 → sHdm.dataBad (0x8000000000000 + 8 * i) = none) := by
  unfold Claims.served; decide +kernel

/-- A granule of die 0, requested by die 1; its entry in a state; a message under way; its transaction. -/
def gran0 : Granule := ⟨0, 0x10000, 128, 0⟩
def sDir (st : DirSt) (ps : List Nat) (ms : List CMsg) (ts : List DirTxn) (cs : List (Nat × Granule × DirSt)) : State :=
  { s0 with coh := { Coherence.init with dir := [⟨gran0, st, ps, 2, false⟩], msgs := ms, txns := ts, copies := cs } }
def txn0 : DirTxn := ⟨gran0, .rds, 1, 1, true, false⟩

/-- DirectoryMovesNoByte: an L1 without two blocks of one address, and a byte it holds. -/
theorem wit_l1 : Claims.l1Uniq (sTake lacc0) ∧ (sTake lacc0).viewByte? 0 tcmBase 0 = some 1 := ⟨wit_own_place.2, by decide +kernel⟩

/-- The same granule with the home that it has, and a directory that holds it in a state. -/
def gran1 (h : Nat) : Granule := { gran0 with home := h }
def sDir1 (h : Nat) (st : DirSt) : State := { s0 with coh := { Coherence.init with dir := [⟨gran1 h, st, [3], 2, false⟩] } }

theorem home_lt : homeDie 0x10000 < 4 := by
  have few : rankOf Config.homeDie 960 (0x10000 / 2 ^ 30) < 960 := by
    have := List.length_filter_lt_length_iff_exists (l := List.range 960)
      (p := fun j => decide (Config.homeDie j < Config.homeDie 0 ∨ (Config.homeDie j = Config.homeDie 0 ∧ j < 0))) |>.2 ⟨0, List.mem_range.2 (by omega), by simp⟩
    rw [List.length_range] at this
    exact this
  have hr : regionOf 0x10000 = .hbm := by decide +kernel
  unfold homeDie; rw [hr]
  exact Nat.div_lt_of_lt_mul few

theorem opens_home : let h := homeDie 0x10000
    let d := (h + 1) % 4
    let g := gran1 h
    (Claims.opens s0 d g ∧ (s0.dirOf g).st = .i) ∧ ∀ st : DirSt, Claims.opens (sDir1 h st) d g ∧ ((sDir1 h st).dirOf g).st = st := by
  have all : ∀ h, h < 4 → ∀ st ∈ [DirSt.i, .s, .e, .m, .o], h ≠ (h + 1) % 4 ∧ s0.dirVictim (gran1 h) = none ∧ (s0.dirOf (gran1 h)).st = .i ∧
      (sDir1 h st).dirVictim (gran1 h) = none ∧ ((sDir1 h st).dirOf (gran1 h)).st = st := by decide +kernel
  have up : ∀ d, d < 4 → s0.dev.dieLost.getLsbD d = false := by decide +kernel
  have g : Claims.isGranule (gran1 (homeDie 0x10000)) := ⟨.inl (by decide +kernel), congrArg homeDie (rfl : 0x10000 = gran0.addr), by decide, by decide⟩
  have none (t : DirTxn) (h : t ∈ ([] : List DirTxn)) : False := List.not_mem_nil h
  have at' (st : DirSt) := all _ home_lt st (by cases st <;> decide)
  have lt : (homeDie 0x10000 + 1) % 4 < 4 := Nat.mod_lt _ (by decide)
  exact ⟨⟨⟨g, lt, (at' .i).1, up _ lt, up _ home_lt, fun t h => (none t h).elim, (at' .i).2.1⟩, (at' .i).2.2.1⟩,
    fun st => ⟨⟨g, lt, (at' st).1, up _ lt, up _ home_lt, fun t h => (none t h).elim, (at' st).2.2.2.1⟩, (at' st).2.2.2.2⟩⟩

/-- DirectoryMovesNoByte: a request that opens, in every state; every message; an owner and a sharer that evict. -/
theorem wit_directory :
    (∃ h d, let g := gran1 h
      (Claims.opens s0 d g ∧ (s0.dirOf g).st = .i) ∧ ∀ st : DirSt, Claims.opens (sDir1 h st) d g ∧ ((sDir1 h st).dirOf g).st = st) ∧
    (∀ m : CMsg, (sDir .m [] [m] [txn0] []).coh.msgs[0]? = some m) ∧ (sDir .m [] [] [txn0] []).txn? gran0 = some txn0 ∧
    (sDir .m [] [] [txn0] []).copyOf 2 gran0 = none ∧ (sDir .m [] [] [] [(2, gran0, .m)]).copyOf 2 gran0 = some .m ∧
    ((sDir .m [] [] [] [(2, gran0, .m)]).dirOf gran0).own = 2 ∧ ((sDir .o [] [] [] [(2, gran0, .o)]).dirOf gran0).pres = [] ∧
    ((sDir .o [1] [] [] [(2, gran0, .o)]).dirOf gran0).pres ≠ [] ∧ (sDir .s [1] [] [] [(1, gran0, .s)]).copyOf 1 gran0 = some .s ∧
    ((sDir .s [1] [] [] [(1, gran0, .s)]).dirOf gran0).own ≠ 1 := by
  refine ⟨⟨_, _, opens_home⟩, fun _ => rfl, ?_⟩
  decide +kernel

/-- A peer of device 3 that may reach tenant 1's memory under tag 6. -/
def sPeer (en : Bool) : State :=
  { s0 with dev := { dev1 with domEn := en }, tenants := s0.tenants.modify 1 (fun x => { x with dtag := 6 }) }
def peerReq (op : PeerOp) : PeerReq := ⟨3, 6, 0x2000, 8, op⟩
def vport (up : Bool) : VexPort := ⟨up, 5, 0, 0⟩

/-- LinksPeersAndErrors: a port up and down, each flit; a request served, of a domain that is off, of no tenant; each training; each register and none. -/
theorem wit_links :
    (∀ up, ({ dev0 with ports := dev0.ports.set 2 (vport up) } : Device).ports[2]? = some (vport up)) ∧ (vport true).nextSeq = 5 ∧ (vport true).nextSeq ≠ 6 ∧
    (sPeer false).dev.domEn = false ∧ (sPeer true).dev.domEn = true ∧ (sPeer true).peerTenant (peerReq (.store (List.replicate 8 1))) = some 1 ∧
    s0.peerTenant (peerReq .load) = none ∧ (sPeer true).dataBad 0x2000 = none ∧ (List.replicate 8 (1 : Byte)).length = 8 ∧ (sPeer true).watches = [] ∧
    Claims.calm (sPeer true) ∧ 0x2000 % 8 = 0 ∧
    16 ∈ [16, 8, 4, 2, 1] ∧ 64 ∈ [128, 64, 32, 16, 8, 5, 2] ∧ 3 ∉ [16, 8, 4, 2, 1] ∧ s0.flow? key0 = some s0.me ∧
    decide ((5 : Nat) ≠ 0 ∧ 5 < 32) = true ∧ decide ((0 : Nat) ≠ 0 ∧ 0 < 32) = false ∧ s0.dev.elEn = false ∧ regionOf (0x40 / 32 * 32) = .hbm ∧
    s0.dataBad 0x40 = none ∧ regionOf (tcmBase / 32 * 32) ≠ .hbm := by
  unfold Claims.calm; decide +kernel

/-- The same: a load of a peer, a plan that watches host memory, and a place of each table that parity protects. -/
theorem wit_parity :
    (peerReq .load).op = .load ∧ 0 < (peerReq .load).size ∧ (sPeer true).peerTenant (peerReq .load) = some 1 ∧
    regionOf 0x8000000000000 = .host 0 ∧ (∀ x ∈ s0.watches, x.addr = 0) ∧
    (let s := { s0 with
       tlb := [⟨.core 0, 1, 0, 4096, 0, 0⟩]
       walks := [⟨0, 1, 0, 0, 0⟩]
       resident := [(0, 1, 0)]
       l1 := [⟨0, 0, 0, 0, 1, 0, 0, false⟩]
       reg := [⟨0, 0, 64 * homeDie 0, 1⟩] }
     0 < s.tlb.length ∧ 0 < s.walks.length ∧ 0 < s.resident.length ∧ (s.l1Blk? 0 0 0).isSome ∧ s.dev.elEn = false ∧
       s.reg[0]? = some ⟨0, 0, 64 * homeDie 0, 1⟩) ∧
    (⟨0, 0, 64 * homeDie 0, 1⟩ : RegEnt).tabled = true := by
  have h : regionOf 0 = .hbm := by decide +kernel
  refine ⟨rfl, by decide, by decide +kernel, by decide +kernel, by decide +kernel, ?_, ?_⟩
  · refine ⟨by decide, by decide, by decide, by decide +kernel, by decide +kernel, rfl⟩
  · unfold RegEnt.tabled; rw [h]; simp

/-- PowerResetsAndDieLoss: power off and on; no image that boots; a boot that ended; nothing under way; tenants live and not; dies lost, lonely and linked. -/
theorem wit_power :
    (let s := { s0 with dev := { dev0 with power := false } }
     s.dev.power = false ∧ s.sched = [] ∧ ({ s.dev with fusedKey := 1 } : Device).takes s.dev.flashA = false ∧ ({ s.dev with fusedKey := 1 } : Device).takes s.dev.flashB = false) ∧
    ({ dev0 with bootStage := 6 } : Device).bootStage ≠ 0 ∧ s0.net = [] ∧ s0.peerCopies = [] ∧ s0.coh.hca = [] ∧ Claims.still s0 ∧
    (s0.ten 1).live = true ∧ (s0.ten 2).live = false ∧ dev0.dieLost.getLsbD 0 = false ∧ dev0.dieLost.getLsbD 1 = false ∧
    ({ dev0 with dieLost := 2 } : Device).dieLost.getLsbD 1 = true ∧ dev0.cutOff 1 = false ∧ dev0.cutOff 2 = false ∧
    ({ dev0 with linkDown := [(0, 1), (1, 2), (1, 3)] } : Device).cutOff 1 = true ∧ ({ dev0 with linkDown := [(0, 2), (1, 2), (2, 3)] } : Device).cutOff 1 = false ∧
    ({ dev0 with linkDown := [(0, 2), (1, 2), (2, 3)] } : Device).cutOff 2 = true := by
  unfold Claims.still; decide +kernel

/-- The same: an image whose signature verifies boots; ML-DSA's result has no value here (log 13). -/
theorem wit_boots (sig : List Byte) (h : Config.mldsaVerify (sha3 []) sig [] = true) :
    ({ dev0 with fusedKey := sha3 [], flashA := ⟨[], sig, [], 0, 0, false⟩ } : Device).takes ⟨[], sig, [], 0, 0, false⟩ = true := by
  change (sha3 [] == sha3 [] && Config.mldsaVerify (sha3 []) sig [] && decide ((0 : Nat) ≤ 0)) = true
  rw [h, BEq.rfl]; rfl

/-- SpdmRequestsAreAnswered: a device that booted and one that did not. -/
theorem wit_spdm : s0.dev.bootResult = 0 ∧ ({ dev0 with bootResult := 1 } : Device).bootResult ≠ 0 := by decide +kernel

/-! ### Hypotheses beside those -/

/-- A word in EQ that the flow's engine has not taken. -/
def fQueued : Flow := { flow0 with eq := [⟨.row 0 0 [], s0.ctx flow0, 0⟩] }

/-- RecordsBarriersAndEnergy, and the words that EQ holds: a word that has to stand in EQ, and one that has not. -/
theorem wit_standing : ¬Claims.queueOpen (machine fQueued) ∧ (machine fQueued).replayOf fQueued = false ∧ fQueued.eq.length < 16 ∧
    Claims.clean (machine fQueued) [.s 6, .s 7] ∧ Claims.queueOpen s0 ∧ Claims.queueFree s0 := by
  unfold Claims.queueOpen Claims.queueFree Claims.clean; decide +kernel

/-- TimetableWords: a cluster that is retired and one that is not. -/
theorem wit_retired : ({ sTt none with dev := { dev1 with retcl := 1 } } : State).dev.retcl.getLsbD (sTt none).me.loc.clusterIdx = true ∧
    (sTt none).dev.retcl.getLsbD (sTt none).me.loc.clusterIdx = false := by decide +kernel

/-- StripLoops, VectorBranches: a mask that no word under way writes, and one that a word of VQ, or of the convoy that runs, does. -/
theorem wit_settled : Claims.maskSettled s0 3 ∧ ¬Claims.maskSettled (machine { flow0 with vq := [{ vword with mdst := some 3 }] }) 3 ∧
    Claims.maskSettled (machine { flow0 with vq := [{ vword with mdst := some 3 }] }) 4 ∧
    ¬Claims.maskSettled (machine { flow0 with cv := some { convoy0 with ws := [{ vword with mdst := some 3 }] } }) 3 := by
  refine ⟨by unfold Claims.maskSettled; decide +kernel, ?_, by unfold Claims.maskSettled; decide +kernel, ?_⟩
  · exact fun h => h.1 _ (List.mem_singleton.2 rfl) rfl
  · exact fun h => h.2.elim (fun k => absurd k (by decide +kernel)) (fun k => k _ rfl _ (List.mem_singleton.2 rfl) rfl)

/-- PrepareByState, and the words over a plan: an object that can be read and one with an error. -/
theorem wit_object : sPlan2.planErr plan0 [(0, 0x78)] hPlan = none ∧ ({ sPlan2 with bad := [0x200008] } : State).planErr plan0 [(0, 0x78)] hPlan ≠ none ∧
    sReady.planErr plan0 [(sReady.planGet plan0 0x68 4, 4 * sReady.pN plan0), (sReady.planGet plan0 0x6C 4, 4 * sReady.planGet plan0 0x58 4)] hPlan = none ∧
    sReady.planErr plan0 [(sReady.planGet plan0 0x60 4, 8 * sReady.planGet plan0 0x58 4), (sReady.planGet plan0 0x64 4, 4 * sReady.pN plan0)] hPlan = none := by
  decide +kernel

/-- PlansAreGathered, PlansAreScattered: the words of the body that every position needs. -/
theorem wit_body (sel : Nat → Bool) : Claims.bodyRead sUsed plan0 0 0 sel := fun _ _ _ _ _ => if_pos (by decide +kernel)

/-- PlansAreScattered: every target may be read and written, and setting D bits changes nothing here. -/
theorem wit_targets : let vas := (Claims.places sUsed (Claims.chosen sUsed 15)).map (fun i => sUsed.pTarget plan0 (sUsed.pRank plan0 (0 + i)))
    (∀ va ∈ vas, ∀ j, j < 4 → ∀ acc ∈ [Acc.w, Acc.r], ∃ y, sUsed.access (sUsed.ctx sUsed.me) ((va + j) % 2 ^ 64) acc = .ok y) ∧
      sUsed.orDirtyAll (sUsed.ctx sUsed.me) vas = sUsed ∧ sUsed.dev.dieLost = 0 := by
  have key : ∀ va ∈ (Claims.places sUsed (Claims.chosen sUsed 15)).map (fun i => sUsed.pTarget plan0 (sUsed.pRank plan0 (0 + i))), ∀ j, j < 4 →
      ∀ acc ∈ [Acc.w, Acc.r], okXl (sUsed.access (sUsed.ctx sUsed.me) ((va + j) % 2 ^ 64) acc) ⟨spmBase + (va + j - 0x1FFFFFFFF800000), 0, 0, 0, 0, false, false⟩ = true := by
    decide +kernel
  exact ⟨fun va h j hj acc ha => ⟨_, okXl_eq (key va h j hj acc ha)⟩, if_pos (by decide +kernel), by decide +kernel⟩

/-- WordsProceedAfterIssue: another flow of the core, with nothing to run; no load is out, or no word of the convoy has a price to come. -/
theorem wit_advance : let f := { flow0 with cv := some convoy0 }
    let g := { flow0 with key := ⟨1, 1⟩, loc := ⟨0, 0, 0, 1⟩ }
    let s := { machine f with rest := [g] }
    g ∈ s.flows ∧ g.loc.coreIdx = 0 ∧ g ≠ f ∧ g.vq = [] ∧ g.cv = none ∧ s.ckpts = [] ∧ ∀ w ∈ convoy0.ws, w.due = none := by decide +kernel

/-- A machine that reaches peer 7, which serves a byte of it at 5 under tag 9, or under no tag; a byte of W_n that comes back to it. -/
def peerAt : Nat := 0x4000000000000 + 7 * 2 ^ 40 + 5
def devPeer : Device := { dev0 with domEn := true, peers := [⟨7, [0], [(5, 0, 64)]⟩], ports := dev0.ports.set 0 ⟨true, 0, 0, 0⟩ }
def backAcc : Access := ⟨false, 0, 0, peerAt, 5, 255, 0, 0, 1, false, false, 0, 0, false, none⟩
def flies (fl : Flight) : State := { machine flow0 with net := [fl], dev := devPeer }

/-- AbstractMachineSteps: room in an L1; a plain store, a vector's posted write, and a byte of a peer that is taken there and that is not; the
oldest dirty byte of an address; a leaf that serves and one whose key the tenant does not hold. -/
theorem wit_steps : Claims.l1HasRoom (machine flow0) 0 ∧ (⟨[.tcm 0], acc0, .flow key0 0⟩ : Flight).isBack = false ∧
    (let fl := dev0.msi 1 3
     (flies fl).net[0]? = some fl ∧ (flies fl).headsQueue 0 fl = true ∧ fl.path.length ≤ 1 ∧ fl.acc.load = false ∧ (flies fl).homeLost fl.acc.addr = none ∧
       fl.origin = .msi 1 3) ∧
    (∀ tag ∈ [5, 9], let fl : Flight := ⟨[.peer 7], backAcc, .back [] tag 1⟩
     let s := flies fl
     s.net[0]? = some fl ∧ s.headsQueue 0 fl = true ∧ fl.path.length ≤ 1 ∧ fl.acc.load = false ∧ regionOf fl.acc.addr = .peer 7 5 ∧ s.dev.domEn = true ∧
       s.dev.reaches 7 = true ∧ s.dev.peerServes 7 tag 5 = decide (tag = 5) ∧ s.badCache = []) ∧
    (let c : PeerByte := ⟨peerAt, 0, 9, true, [], [], 0, 5, 1, 1⟩
     ({ machine flow0 with peerCopies := [c] } : State).peerCopies.find? (fun p => p.addr == peerAt && p.dirty) = some c) ∧
    sPages.leafServes 1 0x1F (2 ^ 30) 0x123456 = true ∧ sPages.leafServes 1 (0x1F + 3 * 2 ^ 52) (2 ^ 30) 0x123456 = false := by
  unfold Claims.l1HasRoom; decide +kernel

/-- CopiesProceed, EnginesProceed: both sides of a chunk before D bits are set; homes that are there; nothing is watched. -/
theorem wit_engines : (let s1 : State := { sJob copy0 with freeCtr := (sJob copy0).freeCtr + 1 }
     okXl (s1.access eCtx 0x1FFFFFFFF800100 .w) (spmAt 0x100) = true ∧ okXl (s1.access eCtx 0x1FFFFFFFF800000 .r) (spmAt 0) = true) ∧
    (∀ q ∈ (copyAt chunkIn).writesLeft, (sJob (copyAt chunkIn)).homeLost (q.1.dst.pa + q.2.1) = none) ∧ sReadOut.watches = [] ∧
    (built build0).watches = [] ∧ (built build0).objLost plan0 = false ∧
    (built build0).homeLost (((built build0).ten plan0.tenant).arenaPa plan0.off) = none ∧ (sEnt (bindOf 1 [] none)).watches = [] := by decide +kernel

/-- TasksRunEndAndAreSaved, ContextsAreSetAndEnded: a save refused for room at a point; a flow that may be forced, and one that may not after that. -/
theorem wit_saves_more : sPre.dev.dieLost = 0 ∧ sPre.net = [] ∧ sFull.me.point ≠ none ∧ sForce.me.noRoom = false ∧ sForce.me.fetch = none ∧
    (machine { sForce.me with pc := 0xFFFFFFFFFFFFFFF0 }).me.noRoom = false ∧ sSaved.watches = [] ∧ sSaved.net = [] := by decide +kernel

/-- LaunchRecordsAreQueuedPlacedAndEnded, RegisterWritesReachTheirRegisters, HostCommandsTakeEffect: a function that a boot that stopped leaves
out, and one that is there; a record that is bad; a launch that ends with no byte of a peer held and no cluster retired. -/
theorem wit_functions : ((1 : Nat) ≠ 0 ∧ ({ s0 with dev := { dev0 with bootResult := 1 } } : State).dev.bootResult ≠ 0) ∧ s0.dev.bootResult = 0 ∧
    (lrecOf lrecBad).bad = true ∧ (machine fIdle).peerCopies = [] ∧ (machine fIdle).dev.retcl = 0 := by decide +kernel

/-- HostCommandsTakeEffect: HDM enabled with nothing to recall; a cluster that a write of RETCL leaves without work, and one with a flow. -/
theorem wit_retirement : ({ s0 with dev := { devHdm with hdmEn := false } } : State).reg = [] ∧ s0.amoRuns = [] ∧ s0.coh.dir = [] ∧ s0.coh.holders = [] ∧
    s0.coh.allHeld = false ∧ s0.watches = [] ∧ s0.dev.dieLost = 0 ∧ s0.dev.elEn = false ∧ Claims.powersDown s0 3 1 ∧ ¬Claims.powersDown s0 3 0 := by
  unfold Claims.powersDown
  refine ⟨by decide +kernel, by decide +kernel, by decide +kernel, by decide +kernel, by decide +kernel, by decide +kernel, by decide +kernel, by decide +kernel,
    ⟨by decide +kernel, by decide +kernel, by decide +kernel⟩, fun h => ?_⟩
  exact absurd (h.2.1 flow0 (by decide +kernel) (by decide +kernel)) (by decide +kernel)

/-- A snoop that the host has not answered, and a conflict it has been told of. -/
def sSnoop (inv : Bool) (acks : List Nat) : State :=
  { sHdm with coh := { Coherence.init with holders := [0x40], snoops := [⟨0x40, inv, 0⟩], acks := acks } }

/-- HostReachesDeviceMemory: a line the host has a copy of and one it has not; a snoop to answer, of each kind and of a flip, and none. -/
theorem wit_snoops : Claims.served (sHostBias []) 0x80 ∧ 0x40 ∈ (sHostBias []).coh.holders ∧ 0x80 ∉ (sHostBias []).coh.holders ∧
    (sHostBias []).coh.holders.length < 1048576 ∧ (sHostBias []).hostBias 0x80 = true ∧ Claims.noneLost sHdm ∧ sHdm.watches = [] ∧
    ¬Claims.snoopOut sHdm 0x40 false ∧ Claims.snoopOut (sSnoop false []) 0x40 false ∧ ¬Claims.snoopOut (sSnoop false []) 0x40 true ∧
    Claims.snoopOut (sSnoop true []) 0x40 true ∧ Claims.snoopOut (sHostBias [flip0 [0x40]]) 0x40 true ∧ 0x40 ∉ (sSnoop true []).coh.acks ∧
    0x40 ∈ (sSnoop true [0x40]).coh.acks := by
  refine ⟨by unfold Claims.served; decide +kernel, by decide +kernel, by decide +kernel, by decide +kernel, by decide +kernel, .inl (by decide +kernel),
    by decide +kernel, ?_, .inr ⟨_, List.mem_singleton.2 rfl, rfl, rfl, nofun⟩, ?_, .inr ⟨_, List.mem_singleton.2 rfl, rfl, rfl, fun _ => rfl⟩,
    .inl ⟨_, _, rfl, by decide⟩, by decide +kernel, by decide +kernel⟩
  · rintro (⟨c, rest, h, _⟩ | ⟨p, h, _⟩)
    · cases h
    · exact absurd h List.not_mem_nil
  · rintro (⟨c, rest, h, _⟩ | ⟨p, h, _, _, k⟩)
    · cases h
    · rw [List.mem_singleton.1 h] at k; exact absurd (k rfl) (by decide)

/-- LinksPeersAndErrors: the boot's last stage, a boot that stopped and one that has not come so far; places that a cache can hold and one that none
does; an entry of a directory. -/
theorem wit_links_more : ({ dev0 with bootStage := 6 } : Device).bootStage = 6 ∧ ({ dev0 with bootStage := 2 } : Device).bootStage ≠ 6 ∧ dev0.bootResult = 0 ∧
    ({ dev0 with bootResult := 1 } : Device).bootResult ≠ 0 ∧ regionOf 0x40 = .hbm ∧ regionOf peerAt = .peer 7 5 ∧ regionOf tcmBase = .tcm 0 0 ∧
    (∃ e ∈ (sDir .s [1] [] [] []).coh.dir, e.g.home = 0 ∧ e.g.key = 0 ∧ e.g.addr / 512 = 0x10000 / 512) ∧ (0x2000 : Nat) + 8 ≤ 0xF000000000 := by
  decide +kernel

/-- PowerResetsAndDieLoss: power applied before a boot, and after one; both ends of a link cut off at once, and one of them. -/
theorem wit_power_more : (let d := { dev0 with bootStage := 0, bootResult := 0 }
     d.power = true ∧ d.bootStage = 0 ∧ d.bootResult = 0) ∧ s0.badCache = [] ∧
    (let d := { dev0 with linkDown := [(2, 3), (0, 2), (1, 2), (0, 3), (1, 3)] }
     d.cutOff 2 = true ∧ d.cutOff 3 = true ∧ d.cutOff 0 = false) ∧
    (let d := { dev0 with linkDown := [(2, 3), (0, 2), (1, 2), (0, 3)] }
     d.cutOff 2 = true ∧ d.cutOff 3 = false) := by decide +kernel

end Sys2Proof.Tests
end

/-! PROOF. Scalar arithmetic, branches and jumps (R96 to R102): the results in plain arithmetic, the fields of the words, what a
word that begins on the scalar sequencer leaves unchanged, and the two statements of the family. -/

namespace Sys2Proof.Machine

/-! ### Words in plain arithmetic -/

theorem shiftLeft_eq_ofNat (a : Word) (n : Nat) : a <<< n = BitVec.ofNat 64 (a.toNat * 2 ^ n) :=
  BitVec.eq_of_toNat_eq (by rw [BitVec.toNat_shiftLeft, Nat.shiftLeft_eq, BitVec.toNat_ofNat])

theorem ushiftRight_eq_ofNat (a : Word) (n : Nat) : a >>> n = BitVec.ofNat 64 (a.toNat / 2 ^ n) :=
  BitVec.eq_of_toNat_eq (by
    rw [BitVec.toNat_ushiftRight, Nat.shiftRight_eq_div_pow, BitVec.toNat_ofNat,
      Nat.mod_eq_of_lt (Nat.lt_of_le_of_lt (Nat.div_le_self _ _) a.isLt)])

theorem sshiftRight_eq_ofInt (a : Word) (n : Nat) : a.sshiftRight n = BitVec.ofInt 64 (a.toInt / 2 ^ n) := by
  rw [BitVec.sshiftRight, Int.shiftRight_eq_div_pow, Int.natCast_pow]; rfl

/-- A sign-extended field moved up n bits (R27). -/
theorem signExtend_shiftLeft {w : Nat} (x : BitVec w) (n : Nat) :
    x.signExtend 64 <<< n = BitVec.ofInt 64 (x.toInt * 2 ^ n) := by
  have power : BitVec.twoPow 64 n = BitVec.ofInt 64 (2 ^ n) := by
    have cast : (2 : Int) ^ n = ((2 ^ n : Nat) : Int) := (Int.natCast_pow 2 n).symm
    rw [cast, BitVec.ofInt_natCast]
    exact BitVec.eq_of_toNat_eq (by rw [BitVec.toNat_twoPow, BitVec.toNat_ofNat])
  rw [BitVec.ofInt_mul, ← power, BitVec.mul_twoPow_eq_shiftLeft, BitVec.signExtend]

theorem wAdd_eq (a b : Word) : wAdd a b = BitVec.ofNat 64 (a.toNat + b.toNat) := by
  rw [BitVec.ofNat_add, BitVec.ofNat_toNat, BitVec.ofNat_toNat, BitVec.setWidth_eq, BitVec.setWidth_eq]; rfl

theorem wSub_eq (a b : Word) : wSub a b = BitVec.ofInt 64 (a.toInt - b.toInt) := by
  rw [Int.sub_eq_add_neg, BitVec.ofInt_add, BitVec.ofInt_neg, BitVec.ofInt_toInt, BitVec.ofInt_toInt]
  exact BitVec.sub_eq_add_neg a b

theorem wMul_eq (a b : Word) : wMul a b = BitVec.ofNat 64 (a.toNat * b.toNat) := by
  rw [BitVec.ofNat_mul, BitVec.ofNat_toNat, BitVec.ofNat_toNat, BitVec.setWidth_eq, BitVec.setWidth_eq]; rfl

theorem wMin_eq (a b : Word) : wMin a b = BitVec.ofInt 64 (min a.toInt b.toInt) := by
  unfold wMin; split
  · rw [Int.min_eq_right (by omega), BitVec.ofInt_toInt]
  · rw [Int.min_eq_left (by omega), BitVec.ofInt_toInt]

theorem wMax_eq (a b : Word) : wMax a b = BitVec.ofInt 64 (max a.toInt b.toInt) := by
  unfold wMax; split
  · rw [Int.max_eq_right (by omega), BitVec.ofInt_toInt]
  · rw [Int.max_eq_left (by omega), BitVec.ofInt_toInt]

theorem wMinu_eq (a b : Word) : wMinu a b = BitVec.ofNat 64 (min a.toNat b.toNat) := by
  unfold wMinu; split
  · rw [Nat.min_eq_right (by omega), BitVec.ofNat_toNat, BitVec.setWidth_eq]
  · rw [Nat.min_eq_left (by omega), BitVec.ofNat_toNat, BitVec.setWidth_eq]

theorem wMaxu_eq (a b : Word) : wMaxu a b = BitVec.ofNat 64 (max a.toNat b.toNat) := by
  unfold wMaxu; split
  · rw [Nat.max_eq_right (by omega), BitVec.ofNat_toNat, BitVec.setWidth_eq]
  · rw [Nat.max_eq_left (by omega), BitVec.ofNat_toNat, BitVec.setWidth_eq]

/-- The one quotient that does not fit, −2^63 / −1, wraps to a (R98). -/
theorem wDiv_eq (a b : Word) : wDiv a b = if b = 0 then BitVec.ofInt 64 (-1)
    else if a.toInt = -2 ^ 63 ∧ b.toInt = -1 then a else BitVec.ofInt 64 (a.toInt.tdiv b.toInt) := by
  unfold wDiv
  split
  · rfl
  · split
    · rename_i h
      obtain ⟨ha, hb⟩ := h
      have least : a = BitVec.ofInt 64 (-2 ^ 63) := by rw [← ha, BitVec.ofInt_toInt]
      rw [ha, hb, least]; rfl
    · rfl

theorem wDivu_eq (a b : Word) :
    wDivu a b = if b = 0 then BitVec.ofNat 64 (2 ^ 64 - 1) else BitVec.ofNat 64 (a.toNat / b.toNat) := rfl

theorem wRem_eq (a b : Word) :
    wRem a b = if b = 0 then a else BitVec.ofInt 64 (a.toInt - b.toInt * a.toInt.tdiv b.toInt) := by
  unfold wRem; rw [Int.tmod_def]

theorem wRemu_eq (a b : Word) :
    wRemu a b = if b = 0 then a else BitVec.ofNat 64 (a.toNat - b.toNat * (a.toNat / b.toNat)) := by
  unfold wRemu w64; rw [Nat.mod_eq_sub_mul_div]

theorem upper19_eq (i : BitVec 19) : upper19 i = BitVec.ofInt 64 (i.toInt * 2 ^ 13) := signExtend_shiftLeft i 13

/-! ### Counts -/

theorem isClz_clzN (a : Word) : Claims.isClz a (clzN 64 a.toNat) := by
  unfold Claims.isClz clzN
  split
  · rename_i h; rw [h]; exact ⟨Nat.le_refl 64, Nat.one_pos, fun k => absurd k (Nat.lt_irrefl 64)⟩
  · rename_i h
    have top : Nat.log2 a.toNat < 64 := (Nat.log2_lt h).2 a.isLt
    have below : 64 - (64 - 1 - Nat.log2 a.toNat) = Nat.log2 a.toNat + 1 := by omega
    have atTop : 63 - (64 - 1 - Nat.log2 a.toNat) = Nat.log2 a.toNat := by omega
    rw [below, atTop]
    exact ⟨by omega, Nat.lt_log2_self, fun _ => Nat.log2_self_le h⟩

/-- The search for the lowest one from i ends in [i, i + n], past zeros only, at a one unless it reaches i + n. -/
theorem firstOne_spec (x : Nat) : ∀ n i, firstOne n i x ≤ i + n ∧ (∀ j, i ≤ j → j < firstOne n i x → x.testBit j = false) ∧
    (firstOne n i x < i + n → x.testBit (firstOne n i x) = true)
  | 0, i => ⟨Nat.le_refl i, fun j h k => absurd (Nat.lt_of_le_of_lt h k) (Nat.lt_irrefl i), fun h => absurd h (Nat.lt_irrefl i)⟩
  | n + 1, i => by
    obtain ⟨bound, zeros, one⟩ := firstOne_spec x n (i + 1)
    unfold firstOne
    split
    · rename_i h
      exact ⟨by omega, fun j h k => absurd h (by omega), fun _ => h⟩
    · rename_i h
      refine ⟨by omega, fun j hj k => ?_, fun k => one (by omega)⟩
      rcases Nat.eq_or_lt_of_le hj with rfl | later
      · exact Bool.eq_false_iff.2 h
      · exact zeros j later k

theorem isCtz_ctzN (a : Word) : Claims.isCtz a (ctzN 64 a.toNat) := by
  obtain ⟨bound, zeros, one⟩ := firstOne_spec a.toNat 64 0
  rw [Nat.zero_add] at bound one
  exact ⟨bound, fun i h => zeros i (Nat.zero_le i) h, one⟩

theorem popN_eq_length (x : Nat) : ∀ n, popN n x = ((List.range n).filter (fun i => x.testBit i)).length
  | 0 => rfl
  | n + 1 => by
    rw [popN, popN_eq_length x n, List.range_succ, List.filter_append, List.length_append]
    unfold b2n bit
    cases h : x.testBit n
    · rw [List.filter_cons_of_neg (by rw [h]; decide)]; rfl
    · rw [List.filter_cons_of_pos h]; rfl

theorem isPopc_popN (a : Word) : Claims.isPopc a (popN 64 a.toNat) := popN_eq_length a.toNat 64

/-! ### Fields of the words -/

/-- A word with fields at bits 19, 14 and 0: the SI and B layouts (R76). -/
theorem pack_three (op x y z : Nat) :
    pack (op * 2 ^ 24) [(x, 19), (y, 14), (z, 0)] = op * 2 ^ 24 + x * 2 ^ 19 + y * 2 ^ 14 + z := by
  simp only [pack]; omega

/-- A word with fields at bits 19 and 0: the J layout (R76). -/
theorem pack_two (op x z : Nat) : pack (op * 2 ^ 24) [(x, 19), (z, 0)] = op * 2 ^ 24 + x * 2 ^ 19 + z := by
  simp only [pack]; omega

/-! ### What a scalar word leaves unchanged -/

/-- g is f but for scalar registers, the results under way to them, their error marks, and the pc. -/
def Flow.scalarOnly (f g : Flow) : Prop := g = { f with s := g.s, busy := g.busy, bad := g.bad, pc := g.pc }

theorem Flow.scalarOnly.tenant {f g : Flow} (h : f.scalarOnly g) : g.tenant = f.tenant := by rw [h]

theorem Flow.scalarOnly.loc {f g : Flow} (h : f.scalarOnly g) : g.loc = f.loc := by rw [h]

theorem Flow.scalarOnly.ownStores {f g : Flow} (h : f.scalarOnly g) : g.ownStores = f.ownStores := by rw [h]; rfl

theorem Flow.scalarOnly_pc (f : Flow) (p : Word) : f.scalarOnly { f with pc := p } := rfl

theorem Flow.scalarOnly_wr (f : Flow) (d : BitVec 5) (x p : Word) : f.scalarOnly { f.wr d x with pc := p } := by
  unfold Flow.scalarOnly Flow.wr; split <;> rfl

/-- A charge does not change a context's replay mode. -/
theorem State.charge_replay (s : State) (t l fj n : Nat) : ((s.charge t l fj).ten n).replay = (s.ten n).replay := by
  unfold State.ten State.charge
  simp only [State.modLaunch_tenants, State.modTen_tenants, List.getD_eq_getElem?_getD, List.getElem?_modify]
  cases s.tenants[n]? with
  | none => rfl
  | some x => simp only [Option.map_eq_map, Option.map_some, Option.getD_some]; split <;> rfl

/-- A scalar word that has begun sees every byte as before: it changes neither memory nor its own stores (R162, R209). -/
theorem State.sameBytes_begun (s : State) {g : Flow → Flow} (hg : ∀ f : Flow, f.scalarOnly (g f)) :
    Claims.sameBytes s (s.beginScalar.modMe g) := by
  have flow := hg s.beginScalar.me
  have tenant : (g s.beginScalar.me).tenant = s.me.tenant := flow.tenant
  have loc : (g s.beginScalar.me).loc = s.me.loc := flow.loc
  have stores : (g s.beginScalar.me).ownStores = s.me.ownStores := flow.ownStores
  have replay : (s.beginScalar.modMe g).replayOf (g s.beginScalar.me) = s.replayOf s.me := by
    unfold State.replayOf; rw [tenant]; exact s.charge_replay _ s.me.key.launch _ _
  refine fun a key fill => ⟨rfl, ?_⟩
  rw [State.modMe_me, stores]
  unfold State.seenByte
  rw [replay, tenant, loc]
  rfl

/-- A scalar word that has begun, been charged and changed only its scalar registers and pc keeps the frame (R79, R209, R363). -/
theorem State.scalarFrame_begun (s : State) {g : Flow → Flow} (hg : ∀ f : Flow, f.scalarOnly (g f)) :
    Claims.scalarFrame s (s.beginScalar.modMe g) :=
  ⟨rfl, ⟨rfl, rfl⟩, s.sameBytes_begun hg, hg s.beginScalar.me⟩

/-- The registers after a word that has begun and writes sd, wherever it goes next. -/
theorem State.wrote_begun {s : State} (h : s.me.s.length = 32) (d : BitVec 5) (x : Word) (p : Flow → Word) :
    Claims.wrote s (s.beginScalar.modMe (fun f => { f.wr d x with pc := p f })) d x := by
  have regs (r : BitVec 5) : (s.beginScalar.modMe (fun f => { f.wr d x with pc := p f })).me.rd r =
      if r = d then (if d = 0 then 0 else x) else s.me.rd r := Flow.rd_wr (f := s.beginScalar.me) h d r x
  exact ⟨(regs d).trans (if_pos rfl), fun r hr => (regs r).trans (if_neg hr)⟩

/-- The word completes: sd holds x, the pc moves to the next word, and nothing else changes. -/
def Completes (s : State) (r : Res) (d : BitVec 5) (x : Word) : Prop :=
  ∃ t, r = .next t ∧ Claims.wrote s t d x ∧ t.me.pc = s.me.pc + 4 ∧ Claims.scalarFrame s t

/-- A scalar word that raises nothing and writes v of the flow as it stands to sd. -/
theorem scalarWord_wr_completes {s : State} (h : s.me.s.length = 32) {cks : List (Bool × Trap)} (raises : firstTrap cks = none)
    (d : BitVec 5) (v : Flow → Word) : Completes s (scalarWord s cks (fun f => f.wr d (v f))) d (v s.beginScalar.me) := by
  refine ⟨_, scalarWord_of_none raises, ?_, ?_, ?_⟩
  · exact s.wrote_begun h d _ fun f => (f.wr d _).pc + 4
  · exact congrArg (· + 4) (Flow.wr_pc s.beginScalar.me d _)
  · exact s.scalarFrame_begun fun f => f.scalarOnly_wr d _ _

theorem alu2_completes {s : State} (h : s.me.s.length = 32) {a b : BitVec 5} (read : Claims.clean s (sRefs [a, b])) (d : BitVec 5)
    (op : Word → Word → Word) : Completes s (alu2 s d a b op) d (op (s.me.rd a) (s.me.rd b)) := by
  unfold alu2
  rw [regErr_nil read]
  exact scalarWord_wr_completes h firstTrap_nil d fun f => op (f.rd a) (f.rd b)

theorem alu1_completes {s : State} (h : s.me.s.length = 32) {a : BitVec 5} (read : Claims.clean s (sRefs [a])) (d : BitVec 5)
    (op : Word → Word) : Completes s (alu1 s d a op) d (op (s.me.rd a)) := by
  unfold alu1
  rw [regErr_nil read]
  exact scalarWord_wr_completes h firstTrap_nil d fun f => op (f.rd a)

/-! ### Each form is one operation -/

/-- The forms with two sources (R97, R98). -/
theorem exec_aluTable : ∀ p ∈ Claims.aluTable, ∃ op : Word → Word → Word,
    (∀ d a b s, exec (p.1 d a b) s = alu2 s d a b op) ∧ ∀ x y, op x y = p.2 x y := by
  simp only [Claims.aluTable, List.forall_mem_cons]
  exact ⟨⟨wAdd, fun _ _ _ _ => rfl, wAdd_eq⟩, ⟨wSub, fun _ _ _ _ => rfl, wSub_eq⟩,
    ⟨wAnd, fun _ _ _ _ => rfl, fun _ _ => rfl⟩, ⟨wOr, fun _ _ _ _ => rfl, fun _ _ => rfl⟩, ⟨wXor, fun _ _ _ _ => rfl, fun _ _ => rfl⟩,
    ⟨wSll, fun _ _ _ _ => rfl, fun x y => shiftLeft_eq_ofNat x (y.toNat % 64)⟩,
    ⟨wSrl, fun _ _ _ _ => rfl, fun x y => ushiftRight_eq_ofNat x (y.toNat % 64)⟩,
    ⟨wSra, fun _ _ _ _ => rfl, fun x y => sshiftRight_eq_ofInt x (y.toNat % 64)⟩,
    ⟨wSlt, fun _ _ _ _ => rfl, fun _ _ => rfl⟩, ⟨wSltu, fun _ _ _ _ => rfl, fun _ _ => rfl⟩,
    ⟨wMin, fun _ _ _ _ => rfl, wMin_eq⟩, ⟨wMax, fun _ _ _ _ => rfl, wMax_eq⟩,
    ⟨wMinu, fun _ _ _ _ => rfl, wMinu_eq⟩, ⟨wMaxu, fun _ _ _ _ => rfl, wMaxu_eq⟩,
    ⟨wMul, fun _ _ _ _ => rfl, wMul_eq⟩, ⟨wMulh, fun _ _ _ _ => rfl, fun _ _ => rfl⟩, ⟨wMulhu, fun _ _ _ _ => rfl, fun _ _ => rfl⟩,
    ⟨wDiv, fun _ _ _ _ => rfl, wDiv_eq⟩, ⟨wDivu, fun _ _ _ _ => rfl, wDivu_eq⟩,
    ⟨wRem, fun _ _ _ _ => rfl, wRem_eq⟩, ⟨wRemu, fun _ _ _ _ => rfl, wRemu_eq⟩, List.forall_mem_nil _⟩

/-- The immediate forms (R99). -/
theorem exec_aluImmTable : ∀ p ∈ Claims.aluImmTable, ∃ op : Word → Word → Word,
    (∀ d a i s, exec (p.1 d a i) s = alu1 s d a (fun x => op x (i.signExtend 64))) ∧ ∀ x y, op x y = p.2 x y := by
  simp only [Claims.aluImmTable, List.forall_mem_cons]
  exact ⟨⟨wAdd, fun _ _ _ _ => rfl, wAdd_eq⟩, ⟨wAnd, fun _ _ _ _ => rfl, fun _ _ => rfl⟩, ⟨wOr, fun _ _ _ _ => rfl, fun _ _ => rfl⟩,
    ⟨wXor, fun _ _ _ _ => rfl, fun _ _ => rfl⟩, ⟨wSlt, fun _ _ _ _ => rfl, fun _ _ => rfl⟩,
    ⟨wSltu, fun _ _ _ _ => rfl, fun _ _ => rfl⟩, List.forall_mem_nil _⟩

/-- A shift amount of fn[5:0] is itself below 64 (R96). -/
theorem shiftAmount_toNat (n : BitVec 6) : (n.setWidth 64).toNat % 64 = n.toNat := by
  have := n.isLt
  rw [BitVec.toNat_setWidth]; omega

/-- The shifts by fn[5:0] (R97). -/
theorem exec_shiftImmTable : ∀ p ∈ Claims.shiftImmTable, ∃ op : Word → Nat → Word,
    (∀ d a n s, exec (p.1 d a n) s = alu1 s d a (fun x => op x ((n.setWidth 64).toNat % 64))) ∧ ∀ x n, op x n = p.2 x n := by
  simp only [Claims.shiftImmTable, List.forall_mem_cons]
  exact ⟨⟨fun x n => x <<< n, fun _ _ _ _ => rfl, shiftLeft_eq_ofNat⟩, ⟨fun x n => x >>> n, fun _ _ _ _ => rfl, ushiftRight_eq_ofNat⟩,
    ⟨fun x n => x.sshiftRight n, fun _ _ _ _ => rfl, sshiftRight_eq_ofInt⟩, List.forall_mem_nil _⟩

/-- The counts (R97). -/
theorem exec_countTable : ∀ p ∈ Claims.countTable, ∃ count : Word → Nat,
    (∀ d a s, exec (p.1 d a) s = alu1 s d a (fun x => w64 (count x))) ∧ ∀ x, p.2 x (count x) := by
  simp only [Claims.countTable, List.forall_mem_cons]
  exact ⟨⟨fun x => clzN 64 x.toNat, fun _ _ _ => rfl, isClz_clzN⟩, ⟨fun x => ctzN 64 x.toNat, fun _ _ _ => rfl, isCtz_ctzN⟩,
    ⟨fun x => popN 64 x.toNat, fun _ _ _ => rfl, isPopc_popN⟩, List.forall_mem_nil _⟩

theorem execLih_completes {s : State} (h : s.me.s.length = 32) (d : BitVec 5) (i : BitVec 19) :
    Completes s (execLih d i s) d (BitVec.ofInt 64 (i.toInt * 2 ^ 13)) := by
  rw [← upper19_eq]
  exact scalarWord_wr_completes h firstTrap_nil d fun _ => upper19 i

theorem execAuipc_completes {s : State} (h : s.me.s.length = 32) (d : BitVec 5) (i : BitVec 19) :
    Completes s (execAuipc d i s) d (BitVec.ofInt 64 (s.me.pc.toInt + i.toInt * 2 ^ 13)) := by
  rw [BitVec.ofInt_add, BitVec.ofInt_toInt, ← upper19_eq]
  exact scalarWord_wr_completes h firstTrap_nil d fun f => f.pc + upper19 i

/-- Settles O1: each form is one of two shared words with its operation, and each operation has its result in plain arithmetic. -/
theorem scalarArithmeticResults : Obligations.ScalarArithmeticResults := by
  refine ⟨fun s h d a b => ⟨fun p hp read => ?_, fun p hp i read => ?_, fun p hp n read => ?_, fun p hp read => ?_⟩,
    fun s d i h => ⟨execLih_completes h d i, execAuipc_completes h d i⟩, fun d a i j => ⟨?_, ?_⟩⟩
  · obtain ⟨op, run, result⟩ := exec_aluTable p hp
    rw [run, ← result]
    exact alu2_completes h read d op
  · obtain ⟨op, run, result⟩ := exec_aluImmTable p hp
    rw [run, ← result]
    exact alu1_completes h read d fun x => op x (i.signExtend 64)
  · obtain ⟨op, run, result⟩ := exec_shiftImmTable p hp
    rw [run, ← result, shiftAmount_toNat]
    exact alu1_completes h read d fun x => op x n.toNat
  · obtain ⟨count, run, result⟩ := exec_countTable p hp
    obtain ⟨t, done, rest⟩ := alu1_completes h read d fun x => w64 (count x)
    exact ⟨t, _, (run d a s).trans done, result _, rest⟩
  · simp only [List.forall_mem_cons]
    exact ⟨congrArg some (pack_three 2 _ _ _), congrArg some (pack_three 3 _ _ _), congrArg some (pack_three 4 _ _ _),
      congrArg some (pack_three 5 _ _ _), congrArg some (pack_three 6 _ _ _), congrArg some (pack_three 7 _ _ _), List.forall_mem_nil _⟩
  · simp only [List.forall_mem_cons]
    exact ⟨congrArg some (pack_two 8 _ _), congrArg some (pack_two 9 _ _), List.forall_mem_nil _⟩

/-! ### Branches and jumps -/

/-- A word at a displacement of x words from the pc (R101, R102). -/
theorem signExtend_shiftLeft_two {w : Nat} (x : BitVec w) : x.signExtend 64 <<< 2 = BitVec.ofInt 64 (4 * x.toInt) := by
  rw [signExtend_shiftLeft, Int.mul_comm]; rfl

/-- The branch goes to its target where c holds, else to the next word; nothing else changes. -/
def Branches (s : State) (r : Res) (o : BitVec 14) (c : Prop) : Prop :=
  ∃ t, r = .next t ∧ (c → t.me.pc = s.me.pc + BitVec.ofInt 64 (4 * o.toInt)) ∧ (¬c → t.me.pc = s.me.pc + 4) ∧
    t.me.s = s.me.s ∧ t.me.busy = s.me.busy ∧ t.me.bad = s.me.bad ∧ Claims.scalarFrame s t

/-- Where a branch goes. -/
def Flow.branchTarget (f : Flow) (a b : BitVec 5) (o : BitVec 14) (cond : Word → Word → Bool) : Word :=
  if cond (f.rd a) (f.rd b) then f.pc + BitVec.ofInt 64 (4 * o.toInt) else f.pc + 4

/-- A branch that raises nothing only moves the pc. -/
theorem branch_of_clean {s : State} {a b : BitVec 5} (read : Claims.clean s (sRefs [a, b])) (o : BitVec 14) (cond : Word → Word → Bool) :
    branch s a b o cond = .next (s.beginScalar.modMe (fun f => { f with pc := f.branchTarget a b o cond })) := by
  have moves : (fun f : Flow => if cond (f.rd a) (f.rd b) then { f with pc := f.pc + (o.signExtend 64) <<< 2 } else f.next) =
      fun f => { f with pc := f.branchTarget a b o cond } := by
    funext f
    unfold Flow.branchTarget
    rw [signExtend_shiftLeft_two]
    split <;> rfl
  unfold branch
  rw [regErr_nil read, moves]
  exact run_of_none firstTrap_nil

theorem branch_branches {s : State} {a b : BitVec 5} (read : Claims.clean s (sRefs [a, b])) (o : BitVec 14) (cond : Word → Word → Bool)
    {c : Prop} (decides : cond (s.me.rd a) (s.me.rd b) = true ↔ c) : Branches s (branch s a b o cond) o c :=
  ⟨_, branch_of_clean read o cond, fun yes => if_pos (decides.2 yes), fun no => if_neg fun holds => no (decides.1 holds),
    rfl, rfl, rfl, s.scalarFrame_begun fun f => f.scalarOnly_pc _⟩

/-- The word goes to p and sd holds the address of the word after it; nothing else changes. -/
def Links (s : State) (r : Res) (d : BitVec 5) (p : Word) : Prop :=
  ∃ t, r = .next t ∧ t.me.pc = p ∧ Claims.wrote s t d (s.me.pc + 4) ∧ Claims.scalarFrame s t

/-- A jump that raises nothing, to p of the flow as it stands. -/
theorem run_links {s : State} (h : s.me.s.length = 32) {cks : List (Bool × Trap)} (raises : firstTrap cks = none)
    (d : BitVec 5) (p : Flow → Word) :
    Links s (run s cks (fun s => s.beginScalar.modMe (fun f => { f.wr d (f.pc + 4) with pc := p f }))) d (p s.beginScalar.me) :=
  ⟨_, run_of_none raises, rfl, s.wrote_begun h d (s.me.pc + 4) p, s.scalarFrame_begun fun f => f.scalarOnly_wr d _ _⟩

theorem execJal_links {s : State} (h : s.me.s.length = 32) (d : BitVec 5) (i : BitVec 19) :
    Links s (execJal d i s) d (s.me.pc + BitVec.ofInt 64 (4 * i.toInt)) := by
  rw [← signExtend_shiftLeft_two]
  exact run_links h firstTrap_nil d fun f => f.pc + (i.signExtend 64) <<< 2

theorem execJalr_links {s : State} (h : s.me.s.length = 32) (d : BitVec 5) {a : BitVec 5} {i : BitVec 14}
    (read : Claims.clean s (sRefs [a])) (aligned : (s.me.rd a + i.signExtend 64).toNat % 4 = 0) :
    Links s (execJalr d a i s) d (s.me.rd a + i.signExtend 64) := by
  refine run_links h ?_ d fun _ => jalrTarget s.me a i
  rw [regErr_nil read, List.nil_append, firstTrap_cons, jalrTarget, imm14, aligned]
  rfl

theorem execJalr_align {s : State} (d : BitVec 5) {a : BitVec 5} {i : BitVec 14}
    (read : Claims.clean s (sRefs [a])) (misaligned : (s.me.rd a + i.signExtend 64).toNat % 4 ≠ 0) :
    execJalr d a i s = .next (s.trap (alignT (s.me.rd a + i.signExtend 64))) := by
  unfold execJalr
  refine run_of_trap ?_
  rw [regErr_nil read, List.nil_append, firstTrap_cons]
  exact if_pos (bne_iff_ne.2 misaligned)

/-- Taking an exception other than DATAERR leaves the scalar registers (R371, R373). -/
theorem State.trap_s (s : State) {t : Trap} (h : t.cause ≠ 7) : (s.trap t).me.s = s.me.s := by
  unfold State.trap State.unhandled
  simp only [if_neg h]
  split <;> rfl

/-- ALIGN is no DATAERR (R367). -/
theorem alignT_cause {x : Word} : (alignT x).cause ≠ 7 := show 5 ≠ 7 by decide

/-- Settles O2: each branch is the shared one with its condition, JAL and JALR the shared link; a misaligned target is taken as the trap. -/
theorem branchesAndJumps : Obligations.BranchesAndJumps := by
  refine ⟨fun s a b o read => ⟨?_, ?_, ?_, ?_, ?_, ?_⟩, fun s d a h => ⟨execJal_links h d, fun i read =>
    ⟨execJalr_links h d read, fun misaligned => ⟨_, execJalr_align d read misaligned, rfl, s.trap_s alignT_cause⟩⟩⟩,
    fun a b o => ?_, fun d i => congrArg some (pack_two 0x10 _ _)⟩
  · exact branch_branches read o (fun x y => x == y) beq_iff_eq
  · exact branch_branches read o (fun x y => x != y) bne_iff_ne
  · exact branch_branches read o (fun x y => decide (x.toInt < y.toInt)) decide_eq_true_iff
  · exact branch_branches read o (fun x y => decide (y.toInt ≤ x.toInt)) decide_eq_true_iff
  · exact branch_branches read o (fun x y => decide (x.toNat < y.toNat)) decide_eq_true_iff
  · exact branch_branches read o (fun x y => decide (y.toNat ≤ x.toNat)) decide_eq_true_iff
  · simp only [List.forall_mem_cons]
    exact ⟨congrArg some (pack_three 0x0A _ _ _), congrArg some (pack_three 0x0B _ _ _), congrArg some (pack_three 0x0C _ _ _),
      congrArg some (pack_three 0x0D _ _ _), congrArg some (pack_three 0x0E _ _ _), congrArg some (pack_three 0x0F _ _ _),
      congrArg some (pack_three 0x11 _ _ _), List.forall_mem_nil _⟩

end Sys2Proof.Machine
